-- ==== Sys2Proof/Word.lean ====
section
/-! DEFINITION. The word types of the Kyram 7 (spec 02 R38, 03 R63) and their plainest names. -/
namespace Sys2Proof

/-- A 64-bit scalar register, CSR or address (02 R38, R48). -/
abbrev Word := BitVec 64
/-- A byte of any store. -/
abbrev Byte := BitVec 8
/-- A 64-byte vector register (02 R38). -/
abbrev VWord := BitVec 512
/-- A program counter: a byte address in instruction memory (02 R46). -/
abbrev PC := BitVec 15
/-- The number of an x or v register (02 R38). -/
abbrev Reg := Fin 32
/-- The number of a predicate, peg or stream register (02 R38, 03 R66). -/
abbrev Reg8 := Fin 8
/-- A context of a core (02 R38). -/
abbrev CtxNo := Fin 4

end Sys2Proof
end

