-- ==== Sys2Proof/Types.lean ====
section
/-! DEFINITION. The operand types of the instructions and the operand records of the device events:
what a constructor of `Instr` carries. Sections cited are files of spec/. -/
namespace Sys2Proof

/-- Element types, in the order of their codes 0 to 14 (01 R12, Table 1.1). -/
inductive ETy where
  | i8 | z8 | i16 | z16 | i32 | z32 | i64 | f32 | bf16 | f16 | e4m3 | e5m2 | e2m1 | q4n | e8m0
  deriving DecidableEq, Repr

/-- Rounding modes, in the order of their codes 0 to 5 (01 R27, Table 1.9). -/
inductive Rm where
  | rne | rtz | rdn | rup | rna | sr
  deriving DecidableEq, Repr

/-- Ordering codes of MOD.MB in majors 22 and 28 (03 R73, Table 3.4): plain, `.o`, `.f`, and code 3, which is
`.acq` on an instruction that returns a value and `.rel` on any other. -/
inductive Ord where
  | plain | o | f | rel
  deriving DecidableEq, Repr

/-- Fence scopes of MOD.MB in FENCE and FENCEA, codes 0 to 3 (03 R73, 10 Table 10.3). -/
inductive Scope where
  | dom | pkg | pal | core
  deriving DecidableEq, Repr

/-- Three scalar registers: destination A, first source T, second source B (03 R67). -/
structure R3 where
  a : Reg
  t : Reg
  b : Reg
  deriving DecidableEq, Repr

/-- Destination A and source B of a unary instruction (03 R67). -/
structure R2 where
  a : Reg
  b : Reg
  deriving DecidableEq, Repr

/-- Destination A, source T and immediate (04 R102). -/
structure RI where
  a : Reg
  t : Reg
  imm : Int
  deriving DecidableEq, Repr

/-- MOD.TYPE (none for 15 or no MOD) and MOD.PRED (03 R72). -/
structure Md where
  ty : Option ETy
  pr : Reg8
  deriving DecidableEq, Repr

/-- A vector operation with two sources (05 R119). -/
structure V3 where
  a : Reg
  t : Reg
  b : Reg
  md : Md
  deriving DecidableEq, Repr

/-- A vector operation with one source (05 R119). -/
structure V2 where
  a : Reg
  b : Reg
  md : Md
  deriving DecidableEq, Repr

/-- Base register and byte offset of a memory operand (06 R145). -/
structure MAddr where
  b : Reg
  off : Int
  deriving DecidableEq, Repr

/-- The address form and the stream form of LD, ST, VLD and VST (06 R159). -/
inductive MSrc where
  | addr (m : MAddr)
  | strm (s : Reg8)
  deriving DecidableEq, Repr

/-- The operations of VPMOV with their registers (05 R143, Table 5.11). -/
inductive PmOp where
  | mov (a b : Reg8)
  | and (a t b : Reg8)
  | or (a t b : Reg8)
  | xor (a t b : Reg8)
  | andn (a t b : Reg8)
  | not (a b : Reg8)
  | fromx (a : Reg8) (b : Reg)
  | tox (a : Reg) (b : Reg8)
  deriving DecidableEq, Repr

/-- The shared fields of a kiln command (07 R217): tile, first register, peg, PEGEN, shape code, lookahead. -/
structure KOp where
  t : Fin 4
  b : Reg
  peg : Reg8
  pegen : Bool
  shape : Fin 32
  la : Fin 16
  deriving DecidableEq, Repr

/-- One core or hod of the device: cores are 0 to 4095 (00 R2), hod h is 4096 + h (00 R3). -/
abbrev Key := Fin 4160

/-- Fields of CREATE (14 Table 14.2). -/
structure CreateArgs where
  part : Fin 64
  pallets : BitVec 256
  hods : BitVec 64
  device : BitVec 8
  debug : Bool
  grade : BitVec 8
  domsize : BitVec 8
  cfgtag : BitVec 16
  job : BitVec 32
  group : BitVec 192
  root : Nat
  deriving DecidableEq, Repr

/-- Fields of LAUNCH (14 Table 14.4). -/
structure LaunchArgs where
  part : Fin 64
  row0 : Fin 64
  col0 : Fin 64
  rows : Nat
  cols : Nat
  runw : Nat
  sup : Bool
  entry : PC
  arg1 : Word
  arg2 : Word
  seg0 : Word
  seg1 : Word
  seg2 : Word
  seg3 : Word
  slsrc : Word
  sloff : Nat
  sllen : Nat
  deriving DecidableEq, Repr

/-- Fields of an injection record (16 Table 16.2) beside its TYPE, with `rsv` true when an RSV field is not zero. -/
structure InjRec where
  sup : Bool
  notify : Bool
  part : Fin 64
  htag : BitVec 16
  addr : Word
  arg1 : Word
  arg2 : Word
  data : VWord
  rsv : Bool
  deriving DecidableEq, Repr

/-- The classes that DREAD reads (18 Table 18.1). -/
inductive DClass where
  | x | v | p | g | csr | log | hist
  deriving DecidableEq, Repr

/-- How a member leaves a group (17 R414): whether it withdrew, and what each remaining other member tells as the number of its
rounds that it has received. -/
structure MemberLoss where
  withdrawn : Bool
  told : List Nat
  deriving DecidableEq, Repr

/-- What a link learns as it comes up: the lowest and highest version of the other side for each interface (16 R396), and the link
delay in ns (R398). -/
structure LinkHello where
  versions : List (Nat × Nat)
  delay : Nat
  deriving DecidableEq, Repr

/-- A flit of a reserved type at a Slaup port: the port and the virtual channel (16 R399). -/
structure RsvFlit where
  port : Fin 18
  vc : Fin 8
  deriving DecidableEq, Repr

/-- A time flit at a Slaup port: the port and the timestamp in ns (16 R398). -/
structure TimeFlit where
  port : Fin 18
  ts : Nat
  deriving DecidableEq, Repr

/-- A link-state flit at a Slaup port: the port, and the identity of the dead port (17 R412). -/
structure LinkFlit where
  port : Fin 18
  ident : Nat
  deriving DecidableEq, Repr

end Sys2Proof
end

