-- ==== Sys2Proof/Config.lean ====
section
/-! DEFINITION. What the spec leaves open, as constants with no body: nothing in Lean can evaluate one or prove a value
of it. Log entries 4 to 8 name them. -/
namespace Sys2Proof.Config

/-- The free choice among the events that no rule orders (00 R6, 09 R439), by the counter of the state. -/
opaque pick : Nat → Nat

/-- A 64-bit value that the spec leaves open, by the counter of the state: an XVALUE that no rule gives, a TIME between
issue and retirement (04 R99), a sensor reading (19 R438). -/
opaque freeWord : Nat → BitVec 64

/-- A byte that the spec leaves open: outside the live ranges after a gang switch (08 R256), in the spill area
(06 R176), in a record whose layout the spec does not give (14 Table 14.10). -/
opaque freeByte : Nat → Nat → BitVec 8

/-- The virtual channel of a message where no rule names one (16 R399), by its flit type. -/
opaque channel : Nat → Fin 8

/-- The bits of a control flit whose form no rule gives (16 Table 16.4), by the counter of the state. -/
opaque flitRest : Nat → BitVec 256

/-- The secret strings of an XMSS key (0 Jalilte's, 1 the device's; 19 R434, R436): by key, leaf, chain and position. -/
opaque keySecret : Nat → Nat → Nat → Nat → BitVec 8

/-- The secret that makes the randomizers of a key, and its public seed, by key and position. -/
opaque keyPrf : Nat → Nat → BitVec 8
opaque keySeed : Nat → Nat → BitVec 8

/-- The leaf of the Jalilte root with which the device's public key is endorsed (19 R436). -/
opaque endorseLeaf : Fin 1048576

/-- The fused device serial (19 R438). -/
opaque devid : BitVec 64
/-- The fused minimum SVN at manufacture (19 R438). -/
opaque svnmin : BitVec 16
/-- The leaf counter at manufacture (19 R436). -/
opaque leafctr : Fin 1048577

end Sys2Proof.Config
end

