-- ==== Sys2Proof/Syntax.lean ====
section
/-! DEFINITION. `Instr`: one constructor for each row of spec/opcode_table.json. The first 184 rows are instruction words
(03 Table 3.12, and the forwarding form of 06 R174), with their prefixes folded into the operands. The rows after them
are the device's events (spec/95): each carries the item it acts on; those that the outside causes stand last. Event
operands: a core or hod is a `Key`, a context a `CtxNo`, `i` the place of a message in the fabric or of an item in the queue
that the row names, `vc` and `data` a virtual channel and its plane. -/
namespace Sys2Proof

inductive Instr where
  -- major 0, SYS
  | nop
  | halt
  | yield
  | eret
  | trap (c : BitVec 8)
  | sysc (c : BitVec 8)
  | time (a : Reg)
  | brk (c : BitVec 8)
  -- majors 1 to 4
  | add (o : R3)
  | sub (o : R3)
  | and (o : R3)
  | or (o : R3)
  | xor (o : R3)
  | andn (o : R3)
  | mov (o : R2)
  | neg (o : R2)
  | sll (o : R3)
  | srl (o : R3)
  | sra (o : R3)
  | rol (o : R3)
  | clz (o : R2)
  | ctz (o : R2)
  | pop (o : R2)
  | bswap (o : R2)
  | mul (o : R3)
  | mulh (o : R3)
  | mulhu (o : R3)
  | mulhsu (o : R3)
  | div (o : R3)
  | divu (o : R3)
  | rem (o : R3)
  | remu (o : R3)
  | min (o : R3)
  | max (o : R3)
  | minu (o : R3)
  | maxu (o : R3)
  | slt (o : R3)
  | sltu (o : R3)
  | seq (o : R3)
  | sne (o : R3)
  -- major 5
  | addi (o : RI)
  | andi (o : RI)
  | ori (o : RI)
  | xori (o : RI)
  | slli (o : RI)
  | srli (o : RI)
  | srai (o : RI)
  | slti (o : RI)
  -- major 6 (n of SEXT and ZEXT: 0 for 8, 1 for 16, 2 for 32; len1 is len - 1)
  | sext (o : R2) (n : Fin 3)
  | zext (o : R2) (n : Fin 3)
  | csel (o : R3)
  | lea (o : R3) (sh : Fin 4) (imm : Int)
  | fla (o : R3)
  | bfx (o : R2) (pos : Fin 64) (len1 : Fin 64) (sx : Bool)
  | bfi (o : R2) (pos : Fin 64) (len1 : Fin 64)
  | abs (o : R2)
  -- major 7
  | csrr (a : Reg) (n : Fin 512)
  | csrw (n : Fin 512) (b : Reg)
  | csrs (a : Reg) (n : Fin 512) (b : Reg)
  | csrc (a : Reg) (n : Fin 512) (b : Reg)
  | csrx (a : Reg) (n : Fin 512) (b : Reg)
  -- majors 8 and 9
  | ldb (a : Reg) (m : MSrc)
  | ldbu (a : Reg) (m : MSrc)
  | ldh (a : Reg) (m : MSrc)
  | ldhu (a : Reg) (m : MSrc)
  | ldw (a : Reg) (m : MSrc)
  | ldwu (a : Reg) (m : MSrc)
  | ldd (a : Reg) (m : MSrc)
  | lddForward (a : Reg)
  | lda (a : Reg) (m : MAddr)
  | stb (a : Reg) (m : MSrc)
  | sth (a : Reg) (m : MSrc)
  | stw (a : Reg) (m : MSrc)
  | std (a : Reg) (m : MSrc)
  | stl (a : Reg) (m : MAddr)
  | zln (m : MAddr)
  -- major 10
  | vld (a : Reg) (m : MSrc) (md : Md)
  | vst (a : Reg) (m : MSrc) (md : Md)
  | vldb (a : Reg) (m : MAddr) (md : Md)
  | vlds (a : Reg) (m : MAddr) (t : Reg) (md : Md)
  | vsts (a : Reg) (m : MAddr) (t : Reg) (md : Md)
  | vgath (a : Reg) (m : MAddr) (t : Reg) (md : Md)
  | vscat (a : Reg) (m : MAddr) (t : Reg) (md : Md)
  | vstc (a : Reg) (m : MAddr) (md : Md)
  -- majors 11 to 14 (m is MB = 1: sat of VADD, VSUB, VABS, VNEG, hi of VMUL)
  | vadd (o : V3) (m : Bool)
  | vsub (o : V3) (m : Bool)
  | vmul (o : V3) (m : Bool)
  | vfma (o : V3)
  | vfms (o : V3)
  | vmin (o : V3)
  | vmax (o : V3)
  | vsel (o : V3)
  | vand (o : V3)
  | vor (o : V3)
  | vxor (o : V3)
  | vshl (o : V3)
  | vshr (o : V3)
  | vabs (o : V2) (m : Bool)
  | vneg (o : V2) (m : Bool)
  | vcmp (a : Reg8) (t b : Reg) (md : Md) (cond : Fin 8)
  | vred (o : V2) (op : Fin 3)
  | vbcast (o : V2)
  | vperm (o : V3)
  | vext (a b : Reg) (ty : Option ETy) (idx : Fin 512)
  | vins (a b : Reg) (ty : Option ETy) (idx : Fin 512)
  | vcvt (o : V2) (dt : Fin 16) (rm : Option Rm) (part : Fin 8)
  | vrnd (o : V2) (rm : Option Rm)
  | vclass (o : V2) (mask : BitVec 9)
  | vrecip (o : V2)
  | vrsqrt (o : V2)
  | vexp2 (o : V2)
  | vlog2 (o : V2)
  | vscale (o : V3)
  | vdot (o : V3)
  | vbmax (o : V2)
  | vpmov (op : PmOp) (pr : Reg8)
  -- major 15
  | sbind (s : Reg8) (m : MAddr)
  | sunbind (s : Reg8)
  | sstat (a : Reg) (s : Reg8)
  | sskip (s : Reg8) (b : Reg)
  | slink (on : Bool)
  | recv (a : Reg)
  | peek (a : Reg)
  | waitmsg
  -- majors 16 to 21
  | li (a : Reg) (imm : Int)
  | beqz (a : Reg) (off : Int)
  | bnez (a : Reg) (off : Int)
  | loop (a : Reg) (dist : Nat)
  | beq (a b : Reg) (off : Int)
  | bne (a b : Reg) (off : Int)
  | blt (a b : Reg) (off : Int)
  | bge (a b : Reg) (off : Int)
  | bltu (a b : Reg) (off : Int)
  | bgeu (a b : Reg) (off : Int)
  | jalr (a b : Reg) (off : Int)
  | ret (b : Reg)
  | jf (b : Reg) (off : Int)
  | callf (a b : Reg) (off : Int)
  -- major 22
  | send (o : R3) (mb : Ord)
  | sendq (o : R3) (mb : Ord)
  | sendt (a b : Reg) (slot : Fin 512)
  | fst (a : Reg) (m : MAddr) (size : Fin 4) (mb : Ord)
  | fstb (a : Reg) (m : MAddr) (hi : Bool) (mb : Ord)
  | mcst (a : Reg) (m : MAddr) (t : Reg) (md : Md) (mb : Ord)
  | rdst (a : Reg) (m : MAddr) (t : Reg) (op : Fin 3) (md : Md) (mb : Ord)
  -- major 23
  | bar (n : Fin 4) (g : Reg8) (ss : Bool)
  | wait (g : Reg8)
  | waitany (a : Reg) (mask : BitVec 8)
  | pegset (g : Reg8) (b : Reg) (imm : Nat)
  | pegadd (g : Reg8) (b : Reg) (imm : Int)
  | fence (sc : Scope)
  | fencea (sc : Scope)
  | domset (n : Fin 4) (b : Reg)
  -- majors 24 and 25
  | j (off : Int)
  | jal (off : Int)
  -- major 26 (write is kind 1 of TDECL)
  | tsub (b : Reg)
  | tdecl (a b : Reg) (write : Bool)
  | trecon (a b : Reg)
  | tend
  | rbeg (off : Int) (irv : Bool)
  | rprs (kind : Fin 4) (b : Reg)
  | rend
  | rxit
  -- major 27
  | lpush (b : Reg) (imm : Nat)
  | lpop
  | uwmark (a : Reg)
  | chkpt (b : Reg)
  | faultinj (kind : Fin 4) (b : Reg)
  -- major 28 (w4 is size 1, the 4-byte form, of AMO and AMOQ)
  | fld (t : Reg) (m : MAddr) (size : Fin 4) (acq : Bool) (la : Fin 16)
  | fldv (t : Reg) (m : MAddr) (md : Md) (acq : Bool) (la : Fin 16)
  | amo (t b : Reg) (op : Fin 11) (w4 : Bool) (acq : Bool) (la : Fin 16)
  | amoq (t b : Reg) (op : Fin 11) (w4 : Bool) (mb : Ord) (la : Fin 16)
  | copy (t : Reg8) (m : MAddr) (mb : Ord) (la : Fin 16)
  | copysp (t : Reg8) (m : MAddr) (mb : Ord) (la : Fin 16)
  | copyq (t : Reg8) (m : MAddr) (mb : Ord) (la : Fin 16)
  | cfetch (t : Reg8) (b : Reg) (seg : Fin 4) (la : Fin 16)
  -- major 29 (z is RB[0] of KMMA and KSPMMA; src the first source tile of KMMAC)
  | kmma (k : KOp) (z : Bool)
  | kmmac (k : KOp) (src : Fin 4)
  | kspmma (k : KOp) (z : Bool)
  | klda (k : KOp) (ty : Option ETy)
  | ksta (k : KOp) (ty : Option ETy)
  | kzero (k : KOp)
  | kcfg (b : Reg) (la : Fin 16)
  | kres (t : Reg) (clr : Bool) (la : Fin 16)
  -- the events: fabric, messages, copies, streams
  | messageArrival (i : Nat)
  | returnArrival (i : Nat)
  | heldEntryRetry (i : Nat)
  | injectionDepart (c : Key) (i : Nat)
  | deferredRelease (c : Key) (k : CtxNo)
  | postedOpPerform (i : Nat)
  | ackReturn (i : Nat)
  | remoteLoadPerform (i : Nat)
  | atomicServe (pallet : Fin 256)
  | replyArrival (i : Nat)
  | replyTimeout (c : Key) (k : CtxNo) (i : Nat)
  | copyRequestArrival (i : Nat)
  | copyComplete (i : Nat)
  | cfetchLanded (c : Key) (seg : Fin 4)
  | streamLineFill (c : Key) (s : Reg8)
  | streamLineDrain (c : Key) (s : Reg8)
  | courseLinkDeliver (c : Key)
  -- kilns, synchronisation, rollbacks
  | kilnStartOpportunity (kiln : Fin 512)
  | tileComplete (c : Key)
  | tileAbandon (c : Key)
  | kresResult (c : Key)
  | barrierRelease (c : Key) (level : Fin 4)
  | waitWake (c : Key) (k : CtxNo)
  | fenceRetire (c : Key) (k : CtxNo)
  | regionRollback (c : Key) (k : CtxNo)
  | superstepRollback (c : Key) (k : CtxNo)
  | txBodyRetry (c : Key) (k : CtxNo)
  -- transactions
  | tsubIntake (i : Nat)
  | batchClose (part : Fin 64)
  | portionArrival (part : Fin 64) (i : Nat)
  | lockRequest (i : Nat)
  | grant (mgr : Key) (tile : Nat)
  | versionQuery (i : Nat)
  | grantLanding (i : Nat)
  | txnDispatch (c : Key)
  | failedAttempt (c : Key)
  | commitComplete (c : Key)
  -- translation and partitions
  | translateRequest (c : Key) (k : CtxNo)
  | shootComplete (i : Nat)
  | faultRecordPlaced (i : Nat)
  | launchStart (i : Nat)
  | gangStop (part : Fin 64)
  | quiescence (part : Fin 64)
  | saveDrainEnd (part : Fin 64)
  | resumeStart (part : Fin 64) (late : Bool)
  | resetComplete (c : Key)
  -- the Slaup ports
  | creditFlitTimer (port : Fin 18)
  | standbyTakeover (port : Fin 18)
  -- patrol, trace
  | patrolRead (c : Key)
  | traceRateAdjust (c : Key)
  -- module
  | selftestDone (ok : Bool)
  | verifyDone
  | railsOff
  -- the remaining steps of the fabric and of commits
  | verdictArrival (i : Nat)
  | atomicRequestArrival (i : Nat)
  | farAccessComplete (c : Key) (k : CtxNo)
  | commitPushWritten (i : Nat)
  | lockRelease (i : Nat)
  | sendAcceptance (i : Nat)
  -- the domain: members and links
  | memberFailure (part : Fin 64) (dev : BitVec 8) (loss : MemberLoss)
  | portDead (port : Fin 18)
  | drainRound (n ended due : Nat)
  -- what the outside does: the host's commands, records and register accesses (`size` in bytes), the links, the module
  | create (port : Fin 2) (x : CreateArgs)
  | launch (port : Fin 2) (x : LaunchArgs)
  | preempt (port : Fin 2) (part : Fin 64) (t : Nat) (saveva : Word) (savelen : Nat)
  | resume (port : Fin 2) (part : Fin 64) (tr : Nat)
  | restore (port : Fin 2) (part : Fin 64) (tr : Nat) (saveva : Word)
  | savecont (port : Fin 2) (part : Fin 64) (saveva : Word) (savelen : Nat)
  | resetcore (port : Fin 2) (part : Fin 64) (c : Key)
  | destroy (port : Fin 2) (part : Fin 64)
  | shoot (port : Fin 2) (part : Fin 64) (scope : Fin 3) (va : Word)
  | mapdone (port : Fin 2) (part : Fin 64) (c : Key) (k : CtxNo) (va arg1 arg2 : Word)
  | injActiveMessage (port : Fin 2) (x : InjRec)
  | injQueueMessage (port : Fin 2) (x : InjRec)
  | injLineWrite (port : Fin 2) (x : InjRec)
  | injLineRead (port : Fin 2) (x : InjRec)
  | injTxnSubmit (port : Fin 2) (x : InjRec)
  | injFarWrite (port : Fin 2) (x : InjRec)
  | noteRead (port : Fin 2)
  | semRead (port : Fin 2) (n : Fin 64) (size : Nat)
  | semWrite (port : Fin 2) (n : Fin 64) (size : Nat)
  | linkUp (port : Fin 20) (hello : LinkHello)
  | creditReturn (port : Fin 18) (vc : Fin 8) (data : Bool) (cnt : BitVec 16)
  | rsvFlitDiscard (flit : RsvFlit)
  | timeFlit (flit : TimeFlit)
  | linkStateFlit (flit : LinkFlit) (sq : BitVec 16)
  | dstop (port : Fin 2) (part : Fin 64) (c : Key) (mask : BitVec 4) (scope : Fin 3)
  | dgo (port : Fin 2) (part : Fin 64) (c : Key) (mask : BitVec 4) (skip : Bool)
  | dstep (port : Fin 2) (part : Fin 64) (c : Key) (k : CtxNo) (n : Nat)
  | drstep (port : Fin 2) (part : Fin 64) (c : Key) (k : CtxNo) (n : Nat)
  | dread (port : Fin 2) (part : Fin 64) (c : Key) (k : CtxNo) (cls : DClass) (n : Nat)
  | dtread (port : Fin 2) (part : Fin 64) (c : Key) (n : Nat)
  | powerGood
  | fwctlWrite (port : Fin 2) (addr size : Nat)
  | svnsetWrite (port : Fin 2) (svn : BitVec 16)
  | attreqSign (port : Fin 2) (addr size : Nat)
  | attreqIdentity (port : Fin 2) (addr size : Nat)
  | cdataWrite (port : Fin 2) (v : Word)
  | mgmtRegWrite (port : Fin 2) (off : Nat) (v : Word)
  | tempWarning (die : BitVec 4) (t : BitVec 16)
  | thermalTrip
  | hostLinkLoss (port : Fin 2)
  | powerLoss
  deriving DecidableEq, Repr

end Sys2Proof
end

