-- ==== Sys2Proof/Machine/State.lean ====
section
/-! DEFINITION. The state of one package (the device): everything the spec names, as plain data, and `State.reset`.
Sections cited are files of spec/. INVENTORY.md lists each field with its rule and its reset value. -/
namespace Sys2Proof.Machine
open Sys2Proof

/-- Why a step can stop the machine. -/
inductive Fault where
  /-- Raised by `step` alone, when the module has no power (19 R431, R437) and no input is due: nothing is held, so
  nothing can happen. Safe: the hardware does nothing either. -/
  | poweredOff
  deriving DecidableEq, Repr

/-- Why a step can be refused. -/
inductive Refusal where
  /-- Raised by an arm of `exec` whose instruction has no meaning yet. Safe: nothing is claimed of it. -/
  | notModelled (mnemonic : String)
  deriving DecidableEq, Repr

/-! ## Bytes -/

/-- The one byte store. Its addresses are disjoint ranges of natural numbers (`Loc` in Ops.lean): far memory, slices,
staging SRAM, instruction memory, accumulator tiles. `cells` is canonical (`Memory.wf` in Ops.lean). `cover` says what
unlisted addresses of a range read as, newest range first: a free byte of the epoch, or zero; elsewhere they read
zero (log entries 2 and 7). -/
structure Memory where
  cells : List Host.Cell
  cover : List (Nat × Nat × Option Nat)
  deriving DecidableEq, Repr

/-! ## Contexts -/

/-- The two privilege modes (00 R7). -/
inductive Mode where
  | user | supervisor
  deriving DecidableEq, Repr

/-- A register that holds a result (03 R76). -/
inductive RegName where
  | x (r : Reg) | v (r : Reg) | p (r : Reg8)
  deriving DecidableEq, Repr

/-- Where a reply goes: a register (06 R191), or a `TRECON`. -/
inductive Dest where
  | reg (r : RegName) | trecon
  deriving DecidableEq, Repr

/-- A core of the domain: device number and key (02 R48). -/
structure Owner where
  dev : BitVec 8
  key : Nat
  deriving DecidableEq, Repr

/-- The 48 registers of a context and its pegs (02 R38). -/
structure Regs where
  x : Vector Word 32
  v : Vector VWord 32
  p : Vector Word 8
  g : Vector (BitVec 32) 8
  deriving DecidableEq, Repr

/-- XVEC and UVEC (08 R260). -/
structure Vec where
  valid : Bool
  pc : PC
  deriving DecidableEq, Repr

/-- The CSRs of a context that hold values of their own (02 Table 2.4). RGDEPTH is made of `txbody`, `ssunrec` and the
innermost frame (11 R323); PATHC0 to PATHC3 count `posted` entries (10 R297); LABELS is made of the label stack. -/
structure Csrs where
  cls : Fin 4
  ubusy : Bool
  pmode : Mode
  mode : Mode
  xcause : BitVec 8
  xvalue : Word
  xpc : PC
  xvec : Vec
  uvec : Vec
  ucause : BitVec 8
  uvalue : Word
  upc : PC
  vtype : BitVec 4
  ftz : Bool
  rm : BitVec 3
  rndkey : Word
  rndctr : Word
  rgcause : BitVec 16
  rgretry : BitVec 8
  txid : Word
  sscount : Word
  slotbase : BitVec 20
  slotwin : BitVec 10
  chk : Option (BitVec 20)
  chkoff : BitVec 20
  txbody : Bool
  ssunrec : Bool
  deriving DecidableEq, Repr

/-- A stream register (06 R166, R168). `base` is the slice address, `buf` the elements read ahead (code, poisoned) of a
read stream, or the pushed elements (element number, code) of a write stream that are not yet in the slice. `landed`
counts the elements whose bytes a copy has brought (06 R169). -/
structure Stream where
  ctx : CtxNo
  write : Bool
  base : Word
  ety : ETy
  dims : List (Nat × Int)
  total : Nat
  cursor : Nat
  fetched : Nat
  cpy : Bool
  landed : Nat
  err : Bool
  peg : Reg8
  pegen : Bool
  buf : List (Nat × Nat × Bool)
  deriving DecidableEq, Repr

/-- A recovery-region frame (08 R249, R250). `marker` is the place of its window marker in the log, `num` that window's
number, `cls` the issue class the context had before the frame's first rollback (08 R251), `since` the first name of a
kiln command issued in the region; a saved tile is marked where it was in error (17 R404). -/
structure Frame where
  x : Vector Word 32
  p : Vector Word 8
  pc : PC
  handler : PC
  mode : Mode
  rndctr : Word
  irv : Bool
  isSealed : Bool
  unrec : Bool
  retry : BitVec 8
  marker : Nat
  num : BitVec 16
  cls : Option (Fin 4)
  since : Nat
  vs : List (Reg × VWord)
  tiles : List (Fin 4 × BitVec 131072 × Bool)
  strms : List (Reg8 × Option Stream)
  pegs : Option (List (Reg8 × BitVec 32))
  deriving DecidableEq, Repr

/-- A superstep frame (09 R278) with the level, the rectangle of the level (first row, first column, rows, columns), the
place of the barrier marker and whether the superstep is recoverable (11 R331). -/
structure SsFrame where
  x : Vector Word 32
  p : Vector Word 8
  mode : Mode
  rndctr : Word
  pc : PC
  level : Fin 4
  rect : Nat × Nat × Nat × Nat
  marker : Nat
  num : BitVec 16
  recov : Bool
  since : Nat
  deriving DecidableEq, Repr

/-! ## Requests -/

/-- A posted operation (06 R184, R185, R183, R193). -/
inductive PostOp where
  | st (addr : Word) (n : Nat) (data : Word)
  | nib (addr : Word) (hi : Bool) (data : BitVec 4)
  | mc (addr : Word) (rows cols : Nat) (ty : ETy) (mask : Word) (data : VWord)
  | rd (addr : Word) (rows cols : Nat) (op : Fin 3) (ty : ETy) (mask : Word) (data : VWord)
  | timed (addr : Word) (data : VWord) (due : Nat)
  | amoq (addr : Word) (op : Fin 11) (w4 : Bool) (a c : Word)
  deriving DecidableEq, Repr

/-- A captured copy descriptor (06 R195): kind 0 COPY, 1 COPYSP, 2 COPYQ. `win` is the window descriptor captured at
registration (06 R199), `mwin` that of META. -/
structure CopyDesc where
  kind : Fin 3
  desc : Word
  src : Word
  dst : Word
  rows : Nat
  rlen : Nat
  sstr : Int
  dstr : Int
  notify : Bool
  dsts : Option Reg8
  mode : Nat
  otype : Nat
  itype : Nat
  fmeta : Word
  peg : Reg8
  win : Option Word
  mwin : Option Word
  deriving DecidableEq, Repr

/-- A captured transaction descriptor (08 R242). -/
structure Txn where
  desc : Word
  entry : PC
  recon : PC
  arg1 : Word
  arg2 : Word
  disp : Word
  compl : Word
  reads : List (Word × Option (BitVec 32))
  writes : List Word
  deriving DecidableEq, Repr

/-- What a request asks for. `tsub` names, for a restart submission, the failed key and the number of failed attempts. -/
inductive ROp where
  | send (queue : Bool) (word a1 a2 : Word) (sup : Bool)
  | post (p : PostOp)
  | load (addr : Word) (n : Nat)
  | loadv (addr : Word) (ty : ETy) (mask : Word)
  | amo (addr : Word) (op : Fin 11) (w4 : Bool) (a c : Word)
  | trecon (desc tile : Word)
  | copy (d : CopyDesc)
  | cfetch (addr : Word) (seg : Fin 4) (peg : Reg8)
  | tsub (t : Txn) (restart : Option (Word × Nat))
  deriving DecidableEq, Repr

/-- A request of a context or, with `host` set, of a host port (16 R394). `dev` is the device of the sender; `id` is its name; `gen` and `dest` are the tag
of 06 R191; `left` says that it has left its injection queue and its entry is held until an answer (06 R175). -/
structure Req where
  id : Nat
  dev : BitVec 8
  src : Key
  ctx : CtxNo
  pc : PC
  mode : Mode
  ord : Ord
  op : ROp
  dest : Dest
  gen : BitVec 4
  left : Bool
  part : Nat
  host : Option (Fin 2)
  htag : BitVec 16
  notify : Bool
  deriving DecidableEq, Repr

/-- An outstanding result (03 R76, 06 R191). `left` is how many more instructions its lookahead window covers; `due` is
its timeout in nanoseconds of the partition's running time (none for `KRES`); `acq` an acquire (06 R190); `lines` the lines of its
bytes (10 R291), 16384 standing for every line of an owner. -/
structure Out where
  id : Nat
  dest : Dest
  gen : BitVec 4
  due : Option Nat
  pc : PC
  acq : Bool
  lines : List (Owner × Nat)
  atomic : Bool
  deriving DecidableEq, Repr

/-- A lookahead window (03 R76): it stays open after the result is written. -/
structure Window where
  id : Nat
  dest : RegName
  pc : PC
  left : Nat
  deriving DecidableEq, Repr

/-- A posted operation that has left and is not acknowledged (06 R186): its path, its plane where it leaves the package (17 R412;
16 on the package), the lines and owners it goes to, how many acknowledgements are missing, the denial mask so far. -/
structure Posted where
  id : Nat
  path : Fin 4
  plane : Nat
  lines : List (Owner × Nat)
  missing : Nat
  denied : BitVec 32
  ordered : Bool
  pc : PC
  deriving DecidableEq, Repr

/-- An operation in the deferred buffer (06 R149, 11 R326): depth 0 when it is released and waits for its injection
entry. -/
structure Deferred where
  depth : Nat
  req : Req
  bytes : Nat
  deriving DecidableEq, Repr

/-- A cause that waits for the next instruction boundary (06 R192, 07 R228, 08 R234, 15 R381). `pc` is the PC of the
instruction that it concerns: SPC of an error report (17 Table 17.3). -/
structure Report where
  cause : BitVec 8
  value : Option Word
  pc : PC
  deriving DecidableEq, Repr

/-- What a waiting instruction waits for (08 R233, 06 R179); `commit` is a body whose `TEND` has retired and whose commit is
not finished (08 R248), `release` a `BAR` that has retired and at whose release the context stops (18 R418). -/
inductive Wait where
  | peg (g : Reg8)
  | mask (a : Reg) (m : BitVec 8)
  | msg
  | fence (sc : Scope)
  | fencea (sc : Scope)
  | trecon
  | far
  | runEnd
  | commit
  | release
  deriving DecidableEq, Repr

/-- A rollback under way (11 R325, 09 R279, R283). -/
inductive Roll where
  | region (cause : BitVec 8)
  | body (cause : BitVec 8)
  | superstep (cause : BitVec 8) (origin : Bool)
  deriving DecidableEq, Repr

/-- What a context does. `parked` holds a waiting instruction and the PC of its successor; `stopped` a debug stop with its
scope (18 R418). -/
inductive Run where
  | idle | running
  | parked (w : Wait) (succ : PC)
  | rolling (r : Roll)
  | stopped (scope : Fin 3)
  deriving DecidableEq, Repr

/-- A debug stop that is asked for and not reached yet, or the count of instructions that DSTEP lets issue (18 R417). -/
structure DbgCtl where
  want : Option (Fin 3)
  steps : Option Nat
  skip : Bool
  deriving DecidableEq, Repr

/-- An entry of the step history (18 R420): the PC, the places of its undo entries, IRREV. The requests of the instruction
have the names from `name` up to but not including `upto`: a result that comes later is entered here. -/
structure Hist where
  pc : PC
  name : Nat
  upto : Nat
  seqs : List Nat
  irrev : Bool
  deriving DecidableEq, Repr

/-- A cached leaf of a translation slice (15 R365): partition, first virtual address, page size, entry. -/
structure Leaf where
  part : Nat
  va : Nat
  size : Nat
  entry : Word
  deriving DecidableEq, Repr

/-- A hod's access to far memory under way (06 R154): its name, the blocks of 64 KiB it touches, each with the first address
that it touches there, whether it writes, and, once its translation slice has answered, the physical address and the owning
hod of each block, and the leaves. -/
structure FarAccess where
  id : Nat
  blocks : List (Nat × Nat)
  write : Bool
  phys : Option (List (Nat × Nat))
  owners : List (Nat × Nat)
  leaves : List Leaf
  deriving DecidableEq, Repr

/-- A slot clock (06 R183): it counts from a release, at a running cycle of the partition, or a superstep rollback has stopped it
at a count (09 R279). -/
inductive SlotClock where
  | counts (since : Nat) | stopped (count : Nat)
  deriving DecidableEq, Repr

/-- The state that a context has beside its registers and CSRs. `body` is the place and number of the dispatch marker
while the body's window is retained (11 R328); `wakeAt` for each peg the cycle from which a context parked on it can be chosen (08 R236); `flaw` says that the checker will
find its next instruction wrong (17 Table 17.1); `recon` is none outside a recon context, else whether its restart
submission has been made (08 R246); `stall` is the cycle before which nothing of the context issues (04 Table 4.1). -/
structure Aux where
  frames : List Frame
  ss : Option SsFrame
  deferred : List Deferred
  outs : List Out
  windows : List Window
  busy : List (RegName × Nat)
  stall : Nat
  wakeAt : Vector Nat 8
  flaw : Bool
  posted : List Posted
  gens : List (Dest × BitVec 4)
  reports : List Report
  refMask : BitVec 32
  refCount : Nat
  refPc : Option PC
  triggers : List (Fin 4 × Word)
  labels : List (BitVec 16)
  hist : List Hist
  startPtr : Fin 8
  slotClock : Option SlotClock
  recon : Option Bool
  far : Option FarAccess
  bodyRetry : Nat
  body : Option (Nat × BitVec 16)
  dbg : DbgCtl
  deriving DecidableEq, Repr

/-- One context (02 R38, 14 R358). -/
structure Ctx where
  regs : Regs
  pc : PC
  csr : Csrs
  run : Run
  aux : Aux
  deriving DecidableEq, Repr

/-! ## Cores -/

/-- The kinds of undo entries (11 Table 11.6). `whod` tells a hod writer from a core of the same index. -/
inductive LogKind where
  | slice (ctx : CtxNo) (remote : Bool) (wdev : BitVec 8) (wcore : BitVec 12) (whod : Bool) (off : BitVec 20)
  | marker (ctx : CtxNo) (ty : Fin 7) (num : BitVec 16)
  | csr (ctx : CtxNo) (n : Fin 512)
  | reg (ctx : CtxNo) (cls : Fin 3) (r : Reg) (part : Fin 8)
  | void
  deriving DecidableEq, Repr

/-- An undo entry of 16 bytes (11 R321). -/
structure LogEntry where
  kind : LogKind
  old : Word
  deriving DecidableEq, Repr

/-- Who holds a registered range (06 R147): a stream, copy, kiln command or code fetch of this package, or a transfer of another one, by
device and name (14 R341). -/
inductive RangeOwner where
  | strm (s : Reg8) | copy (id : Nat) | kiln (id : Nat) | cfetch (id : Nat) | away (dev : BitVec 8) (id : Nat)
  deriving DecidableEq, Repr

/-- An engine range: offsets lo up to but not including hi (06 R147). It counts until cycle `till` where one is given
(07 R215). -/
structure Range where
  lo : Nat
  hi : Nat
  write : Bool
  owner : RangeOwner
  by_ : Nat
  till : Option Nat
  deriving DecidableEq, Repr

/-- The kiln configuration (07 Table 7.1). -/
structure KCfg where
  bscl : Bool
  ascl : Bool
  drm : BitVec 3
  dtype : BitVec 4
  btype : BitVec 4
  atype : BitVec 4
  bstr : Nat
  astr : Nat
  bsstr : Nat
  asstr : Nat
  deriving DecidableEq, Repr

/-- The commands of major 29 (07 Table 7.4). -/
inductive KKind where
  | mma (z : Bool) | mmac (src : Fin 4) | spmma (z : Bool) | lda (f32 : Bool) | sta (f32 : Bool) | zero
  | cfg (c : KCfg) | res (dest : Dest) (clr : Bool)
  deriving DecidableEq, Repr

/-- The rows of an operand or destination of a kiln command (07 R211, R224): address of row 0, number of rows, bytes of a
row, distance between rows, the owner's window descriptor at issue (07 R210). -/
structure KOpnd where
  a : Word
  rows : Nat
  len : Nat
  stride : Nat
  win : Word
  deriving DecidableEq, Repr

/-- A command in a kiln queue (07 R204, R218). `m`, `n`, `k` come from the shape code, `k` being the logical K; `ready`
is the cycle from which it takes part in arbitration (07 R208); `started` its start cycle; `occ` its occupancy; `got`
the rows of each operand read at the start, `err` the error that they met; `inject` a residue mismatch that FAULTINJ
asked for (08 R258), `failAt` the element and chunk in which the running arithmetic makes one, `flaw` a difference that the duplicate
converter will find (17 Table 17.1). -/
structure KCmd where
  id : Nat
  ctx : CtxNo
  pc : PC
  kind : KKind
  t : Fin 4
  peg : Option Reg8
  m : Nat
  n : Nat
  k : Nat
  cfg : KCfg
  ops : List KOpnd
  rndkey : Word
  rndctr : Word
  ready : Nat
  started : Option Nat
  occ : Nat
  inject : Bool
  flaw : Bool
  failAt : Option (Fin 4096 × Fin 32)
  got : List (List Nat)
  err : Option (BitVec 8)
  deriving DecidableEq, Repr

/-- Where a receive-queue entry is held (06 R176). -/
inductive Place where
  | ret | arrival | spill
  deriving DecidableEq, Repr

/-- A receive-queue entry (06 R177): its 64 bytes, whether its start is in supervisor mode (02 R41), its place, and an error
in it, correctable (false) or not (17 Table 17.1). -/
structure RqItem where
  e : VWord
  sup : Bool
  place : Place
  err : Option Bool
  deriving DecidableEq, Repr

/-- A `BAR` arrival (08 R239): the context, the peg, SS, the arrival cycle, the PC of the successor, and the release cycle
once every core of the rectangle has arrived (09 R273). `name` names it for the step history (18 R422). -/
structure Arrival where
  name : Nat
  ctx : CtxNo
  peg : Reg8
  ss : Bool
  at_ : Nat
  succ : PC
  rel : Option Nat
  deriving DecidableEq, Repr

/-- How far an attempt at a dispatch core has come (11 R315 to R318); `lost` one whose body halted;
`committing` names no context where the dispatch core was reset since. -/
inductive Stage where
  | collecting | ready | body (k : CtxNo) | lost | failed | recon (k : CtxNo)
  | committing (k : Option CtxNo) (pushes releases : Nat)
  deriving DecidableEq, Repr

/-- A transaction attempt at its dispatch core (09 R281, 11 R315). `got` holds, for each landed grant, the place of the
tile in the landing zone, its version and FAIL; `part_` counts the bytes that have landed of a grant that came in
several messages (14 R356); `pages` are the leaves of its far tiles (11 R307), used under the name `id`; `sup` is the mode in which
they were translated. -/
structure Attempt where
  id : Nat
  key : Word
  part : Nat
  txn : Txn
  sub : Key
  subCtx : CtxNo
  host : Option (Fin 2)
  got : List (Nat × BitVec 32 × Bool)
  part_ : List (Nat × Nat)
  stage : Stage
  fails : Nat
  pages : List Leaf
  sup : Bool
  pcEnd : PC
  deriving DecidableEq, Repr

/-- A request at a lock manager (11 R313). `tile` is the tile number, `phys` the physical address of a far tile, `slot` the
landing place at `core` of device `dev`. -/
structure LockReq where
  dev : BitVec 8
  key : Word
  part : Nat
  tile : Nat
  phys : Option Nat
  write : Bool
  check : Option (BitVec 32)
  core : Key
  slot : Nat
  landing : Nat
  granted : Bool
  deriving DecidableEq, Repr

/-- The lock manager of a slice or hod (11 R312): requests in the order received, versions that are not 0, an
uncorrectable word in it (17 R407), and the bytes of commit pushes that came in part: tile, key, bytes (14 R356). -/
structure LockMgr where
  ue : Bool
  coming : List (Nat × Word × List (Byte × Bool))
  queue : List LockReq
  versions : List (Nat × BitVec 32)
  deriving DecidableEq, Repr

/-- Per-core CSRs that hold values of their own (02 Table 2.4). -/
structure CoreCsrs where
  dm : Vector Word 4
  brect : Vector Word 4
  win : Vector Word 8
  qtab : Word
  trctl : Word
  msgmax : BitVec 7
  kweight : BitVec 4
  seg : Vector (BitVec 7) 4
  deriving DecidableEq, Repr

/-- The issue selector (09 R265): unchosen counts, pointers of the classes and of the promoted, the context that yielded
with its cycle, the cycle whose slot is used. -/
structure Selector where
  u : Vector Nat 4
  ptr : Vector (Fin 4) 5
  yielded : Option (CtxNo × Nat)
  slot : Option Nat
  deriving DecidableEq, Repr

/-- Trace capture (18 R424 to R429): records oldest first, the event counter, RATE, the lost count, the time of the
previous record. -/
structure Trace where
  recs : List (BitVec 128)
  count : BitVec 32
  rate : Fin 8
  lost : Nat
  last : Option Nat
  rated : Nat
  deriving DecidableEq, Repr

/-- One core or hod (02 R42, R47). `resetting` is the number of queue entries discarded by a core reset that is not
complete (17 R409), `patrolled` the last turn of the patrol (17 R404), `ceTimes` the times of the last 256 corrected words, newest
first, and `ceTold` the time of the last class 7 report (17 R415). `logUe` holds the places of undo entries in error, `flyUe` the
parts of the fly store that are: of a context its frame at depth 0 to 7, its superstep frame (8), the rest of its image (9)
(17 Table 17.1, 02 R45). -/
structure Core where
  ctxs : Vector Ctx 4
  csr : CoreCsrs
  log : List LogEntry
  logHead : Nat
  wnum : BitVec 16
  strms : Vector (Option Stream) 8
  linkBy : Option CtxNo
  west : List Word
  east : List Word
  injq : List Req
  rq : List RqItem
  ranges : List Range
  kq : List KCmd
  kcfg : KCfg
  kcfgIssue : KCfg
  kterms : BitVec 32
  bars : Vector (Option Arrival) 4
  attempts : List Attempt
  lkm : LockMgr
  tlb : List Leaf
  sel : Selector
  divFree : Nat
  ssRolls : Nat
  trace : Trace
  counters : Vector Nat 11
  resetting : Option Nat
  patrolled : Nat
  ceTimes : List Nat
  ceTold : Option Nat
  logUe : List Nat
  flyUe : List (CtxNo × Fin 10)
  deriving DecidableEq, Repr

/-! ## The device -/

/-- A course-fetch run (09 R268, R269): the leader, the length, the run clock, the forwarded instructions with the run
time at which the leader issued each, and the members that have issued in this run cycle. `last` holds the instruction that each
follower issued last, `again` the members that a debug stop took out of a waiting instruction and that execute it again (18 R418). -/
structure CourseRun where
  leader : Key
  len : Nat
  clock : Nat
  fwd : List (Nat × PC × List Nat × Bool)
  done : List Nat
  last : List (Nat × PC × List Nat × Bool)
  again : List Nat
  deriving DecidableEq, Repr

/-- The states of a partition (14 Table 14.1). -/
inductive PState where
  | free | active | armed | stopping | stopped | saving | saved | incomplete | resuming
  deriving DecidableEq, Repr

/-- A submitted transaction in a lane (11 R307). `failedKey` is the key it restarts; `id` names it among the users of
leaves (15 R377), `sup` its mode. -/
structure Sub where
  id : Nat
  txn : Txn
  src : Key
  ctx : CtxNo
  host : Option (Fin 2)
  pc : PC
  fails : Nat
  failedKey : Option Word
  pages : List Leaf
  sup : Bool
  deriving DecidableEq, Repr

/-- A sequence lane (11 R305 to R311). `intake` holds the submissions not yet numbered, `round` is the open batch, `opened`
the running time of its opening in nanoseconds, `prevChecked` the c of R308, `pending` the checked keys whose verdict is
awaited, `restarts` the submissions that restart failed keys of the last batch, `portions` the portions received and not
forwarded (round, member, requests with their managers), `fwd` the next round and place in member order to forward,
`lastSeen` the highest round received of each member, `heard` when a portion or heartbeat of each came last, in nanoseconds
of the running time, `cuts` the members that failed with the number of their rounds that count (the cut round and those before it), `ue` an uncorrectable word (17 R407). `told` holds, for a silent member and each other
member that told it, the number of the silent one's rounds received there, `telling` the members whose number this lane has told
(17 R414). -/
structure Lane where
  intake : List Sub
  round : Nat
  opened : Nat
  prevChecked : Nat
  pending : List Word
  restarts : List Sub
  portions : List (Nat × Nat × List (Owner × LockReq))
  fwd : Nat × Nat
  lastSeen : List (Nat × Nat)
  heard : List (Nat × Nat)
  cuts : List (Nat × Nat)
  told : List (Nat × Nat × Nat)
  telling : List Nat
  ue : Bool
  deriving DecidableEq, Repr

/-- A partition (14 R340 to R343). `held` counts the cycles it did not run, `since` the cycle from which it is not
running, `stops` the running cycles at which it was stopped (09 R273); `t` and `tr` are T and TR in nanoseconds; `progress` the
bytes written by the drain, `credits` the credit counts of each Slaup port and channel at T (R357), `drained` the physical addresses of
the pages written; `drainId` the name under which the
drain uses its pages (15 R377); `before` the state before a RESUME or RESTORE, `restore` the physical addresses of the pages of a
RESTORE's area. -/
structure Part where
  state : PState
  pallets : BitVec 256
  hods : BitVec 64
  config : Word
  device : BitVec 8
  job : BitVec 32
  group : BitVec 192
  root : Nat
  owner : Fin 2
  fatal : Bool
  t : Nat
  tr : Nat
  stops : List Nat
  saveva : Word
  savelen : Nat
  progress : Nat
  credits : List (BitVec 16)
  drained : List Nat
  drainId : Nat
  before : PState
  restore : Option (List Nat)
  held : Nat
  since : Option Nat
  lane : Lane
  deriving DecidableEq, Repr

/-- An end of a copy: its address, rows, length of a row, stride, whether it is written, whether it is that of META. -/
structure End where
  a : Word
  rows : Nat
  len : Nat
  stride : Int
  write : Bool
  side : Bool
  deriving DecidableEq, Repr

/-- What the engine of a transfer asks of a slice of another package (06 R196 to R199, 14 R341; log entry 104): to register the range of an
end; to read n bytes of an end from byte j on, through the window captured; to write bytes of an end, each with whether it is poisoned;
to release its ranges. -/
inductive Ask where
  | register (e : End)
  | read (e : End) (win : Word) (j n : Nat)
  | write (e : End) (j : Nat) (bytes : List (Byte × Bool))
  | release (e : End)
  deriving DecidableEq, Repr

/-- What the owner answers: registered, with the window captured; refused; a window that fails; the bytes; written. -/
inductive Answer where
  | range (win : Word) | refused | window | bytes (l : List (Byte × Bool)) | written
  deriving DecidableEq, Repr

/-- What an engine has asked for a transfer, by the name of the asking, and the answer once it is in. -/
structure Asked where
  n : Nat
  req : Req
  ask : Ask
  ans : Option Answer
  deriving DecidableEq, Repr

/-- A message in the fabric. `ent` is an entry for the receive queue of `dst` that some producer offers; `ret` one that
returns a request; `accept` frees an injection entry (06 R175); `ack`, `reply` answer requests; the others are those of
11 R309 to R318. A grant or push of a tile may come in several messages, each of bytes from `off` (14 R356); `done` tells a
dispatch core that a push was written or a release accepted. `host` answers a record of a host port that went to another package, with
the notice that it brings (16 R394); `rounds` tells a lane how many rounds of a failed member another member has received (17 R414);
`ctl` is a control flit of a TYPE with its OPER for one Slaup port (17 R412, R413). `ask` and `told` pass between the engine of a
transfer and a slice of another package. `away` is a message of a core or hod (its
index) for another package. -/
inductive Msg where
  | req (r : Req) (dst : Owner) (j : Nat)
  | ent (dst : Owner) (e : VWord) (sup : Bool) (part : Nat)
  | ret (dst : Key) (id : Nat) (e : VWord)
  | accept (dst : Key) (id : Nat)
  | ack (dst : Key) (ctx : CtxNo) (id j : Nat) (refused : Bool) (nib : Bool) (pc : PC)
  | reply (dst : Key) (ctx : CtxNo) (dest : Dest) (gen : BitVec 4) (id : Nat) (data : VWord) (poison : Bool)
      (fault : Option (BitVec 8)) (op : ROp)
  | portion (part : Nat) (round member : Nat) (reqs : List (Owner × LockReq))
  | lock (mgr : Key) (r : LockReq)
  | grant (core : Key) (slot : Nat) (key : Word) (off : Nat) (data : List (Byte × Bool)) (version : BitVec 32)
      (fail : Bool) (landing : Nat)
  | verdict (part : Nat) (key : Word) (pass : Bool)
  | push (mgr : Key) (tile : Nat) (phys : Option Nat) (key : Word) (dev : BitVec 8) (core : Key)
      (data : List (Byte × Bool)) (version : BitVec 32)
  | release (mgr : Key) (tile : Nat) (key : Word) (dev : BitVec 8) (core : Key) (counts : Bool)
  | done (core : Key) (key : Word) (push : Bool)
  | host (port : Fin 2) (id : Nat) (n : Option (BitVec 1024))
  | rounds (part : Nat) (failed from_ n : Nat)
  | ctl (port : Fin 18) (kind : Fin 15) (oper : BitVec 64)
  | ask (r : Req) (dst : Owner) (n : Nat) (a : Ask)
  | told (dst : Key) (n : Nat) (a : Answer)
  | away (dev : BitVec 8) (src : Nat) (m : Msg)
  deriving DecidableEq, Repr

/-- A copy that its engine has begun (06 R197): the request, the descriptor with its windows captured, the pages it
translated, the engine, the MSGMAX.LIMIT at its start (14 R356), the bytes of the source that are read (`moved`), those of them that
are not converted (`raw`), the converted bytes that are not written (`pend`), the bytes of the destination that are written (`put`),
and of META the bytes read or written (`side`) and those in between (`spend`). -/
structure Copy where
  id : Nat
  req : Req
  d : CopyDesc
  pages : List Leaf
  engine : Key
  limit : Nat
  moved : Nat
  raw : List (Byte × Bool)
  pend : List (Byte × Bool)
  put : Nat
  side : Nat
  spend : List (Byte × Bool)
  deriving DecidableEq, Repr

/-- A `CFETCH` under way (06 R203): its source address, the window captured, its pages, the MSGMAX.LIMIT at its start, the bytes
that have landed. -/
structure Fetch where
  id : Nat
  req : Req
  seg : Fin 4
  peg : Reg8
  src : Word
  win : Option Word
  pages : List Leaf
  limit : Nat
  moved : Nat
  deriving DecidableEq, Repr

/-- What a host notice or a device entry that was refused waits to do again (06 R176, 16 R395). -/
inductive Offer where
  | entry (dst : Key) (e : VWord) (sup : Bool)
  | record (dst : Key) (ctx : CtxNo) (e : VWord) (cause : BitVec 8) (value : Word)
  | notice (port : Fin 2) (n : BitVec 1024)
  deriving DecidableEq, Repr

/-- A held entry with the nanosecond of its next offer. -/
structure Held where
  what : Offer
  at_ : Nat
  part : Nat
  deriving DecidableEq, Repr

/-- A launch in progress (14 R347): before `ts` is known its images are still being copied. -/
structure LaunchJob where
  id : Nat
  port : Fin 2
  a : LaunchArgs
  ts : Option Nat
  deriving DecidableEq, Repr

/-- A SHOOT whose removed leaves are still in use (15 R377): the names of the operations that use them; `size` is the size of the page
that holds VA. -/
structure Shoot where
  port : Fin 2
  part : Nat
  scope : Fin 3
  va : Word
  size : Nat
  users : List Nat
  deriving DecidableEq, Repr

/-- The completion of a host access (16 R387): BP, status, value read. -/
structure Completion where
  bp : Bool
  code : BitVec 8
  value : BitVec 1024
  deriving DecidableEq, Repr

/-- A host port (16 R386 to R395, 19 R438). `inj` holds the names of accepted records not yet performed. -/
structure HostPort where
  up : Bool
  notices : List (BitVec 1024)
  inj : List Nat
  last : Completion
  csel : Word
  dcmd : Vector Word 32
  deriving DecidableEq, Repr

/-- One virtual channel and plane of a Slaup port (16 R400). -/
structure Credit where
  freed : BitVec 16
  sent : BitVec 16
  ret : BitVec 16
  reported : BitVec 16
  deriving DecidableEq, Repr

/-- A Slaup port (16 R397 to R400, 17 R411). `changed` is the time of the oldest unreported count, `credited` that of the last
credit-only flit, `delay` the link delay measured at link-up, `flit` when the last flit came, `downAt` when the link went
down, `fails` the consecutive lane-layer retries of one flit; `wire` the control flit that it sent last. -/
structure SlaupPort where
  up : Bool
  dead : Bool
  standbyFor : Option (Fin 18)
  ctl : Vector Credit 8
  dat : Vector Credit 8
  lanerty : Nat
  badflit : Nat
  stalecr : Nat
  changed : Option Nat
  credited : Nat
  rotate : Fin 16
  seq : BitVec 16
  delay : Nat
  flit : Nat
  downAt : Option Nat
  fails : Nat
  wire : BitVec 256
  deriving DecidableEq, Repr

/-- The states of bring-up (19 Table 19.2). -/
inductive MState where
  | selftest | waitfw | verify | ready | failed
  deriving DecidableEq, Repr

/-- The management unit (19 R432 to R438). `svnmin` and `leafctr` are OTP fuses; `watts` and `cool` are the sensor readings that
POWER and COOL show (log entry 26). -/
structure Mgmt where
  power : Bool
  state : MState
  fail : BitVec 8
  fwaddr : Nat
  svn : Word
  svnmin : BitVec 16
  leafctr : Nat
  measure : List Byte
  tempmax : Word
  watts : BitVec 32
  cool : BitVec 32
  trip : Option Nat
  deriving DecidableEq, Repr

/-- How the last execution of an instruction or event ended: a field of the model. `raised` is that of an instruction that retired
and then raised its cause (08 R259). -/
inductive Fate where
  | retired | raised | trapped (cause : BitVec 8) | stalled | parked | quiet
  deriving DecidableEq, Repr

/-- An atomic engine (06 R194): its ports hold requests waiting, with the cycle each becomes acceptable; the pointer is
the cycle count plus this offset, modulo 17; `served` is the cycle in which it last served. -/
structure AtomicEng where
  ports : List (Fin 17 × Req × Owner × Nat)
  ptr : Nat
  served : Option Nat
  deriving DecidableEq, Repr

/-- A kiln (07 R208, R226). -/
structure KilnSt where
  cur : Fin 8
  used : Nat
  free : Nat
  resmis : Nat
  deriving DecidableEq, Repr

/-- Link state, drain rounds and other facts of the domain (17 R411 to R413). `deaths` holds the dead ports in the order of
their deaths, `stuck` the packets that were queued toward a hop when it died, `pairs` the identities and sequence
numbers received, `kept` the packets that a drain round dropped and their senders keep (17 R413), `joined` whether a time flit has come since power-good (19 R432). -/
structure Domain where
  deaths : List (Fin 18)
  stuck : List Msg
  drainRound : Nat
  draining : Option (Nat × Nat)
  dropped : Nat
  drainDrop : Nat
  pairs : List (Nat × BitVec 16)
  kept : List Msg
  joined : Bool
  deriving DecidableEq, Repr

/-- What this package knows of a partition of another one: the package, its job number, its pallets and hods (14 R340, R341). -/
structure Peer where
  dev : BitVec 8
  job : BitVec 32
  pallets : BitVec 256
  hods : BitVec 64
  deriving DecidableEq, Repr

/-- A physical upset (17 Table 17.1): an error in a word of the byte store, in an entry of a receive queue or undo log, in the part
of the fly store of a context, in a lock manager or a lane, correctable or not; a difference that the checker stage will find in a
context's next instruction, or in the kiln's work on the running command of a core (`residue`: in its arithmetic, with the first element, 64 m + n, and chunk that fail). -/
inductive Upset where
  | word (w : Nat) (ue : Bool)
  | queue (k : Key) (i : Nat) (ue : Bool)
  | log (k : Key) (seq : Nat) (ue : Bool)
  | fly (k : Key) (c : CtxNo) (part : Fin 10) (ue : Bool)
  | locks (k : Key) (ue : Bool)
  | lane (part : Fin 64) (ue : Bool)
  | logic (k : Key) (c : CtxNo)
  | kiln (k : Key) (residue : Option (Fin 4096 × Fin 32))
  deriving DecidableEq, Repr

/-- The memories and engines that several cores share. `fallout` holds the messages that fell out at a gang stop, each with the
pallet whose router keeps it, in their order (14 R357); `asks` what the engines have asked of other packages' slices. -/
structure Shared where
  mem : Memory
  ue : List Nat
  ce : List Nat
  fabric : List Msg
  fallout : List (Nat × Msg)
  held : List Held
  copies : List Copy
  fetches : List Fetch
  asks : List Asked
  kilns : List (Nat × KilnSt)
  atomics : List (Nat × AtomicEng)
  runs : List CourseRun
  deriving DecidableEq, Repr

/-- A save area as the drain left it (14 R359): the physical address of each 64 KiB page that it holds, the live ranges of
each core, the records of its cores and the shared state at the stop, and the first name that no request of it has. What
Table 14.9 and Table 14.10 give a place but no form is kept as this data (log entry 20). -/
structure SaveArea where
  pages : List Nat
  ranges : List (Nat × List (Nat × Nat))
  part : Nat
  cores : List (Nat × Core)
  info : Part
  sh : Shared
  launches : List LaunchJob
  next : Nat
  deriving DecidableEq, Repr

/-- What the outside does: an event given as such; an access of a host port to its aperture (16 R387) with its offset, size and
data; a control flit that a Slaup port receives, with the message that it and its data flits carry (16 R399); a link that
goes down; a retry of the lane layer, of the flit that failed last or of another; the device number (16 R398); the partitions of a job on other packages (14 R341); an upset; a save area that another package's drain
has left, and whose bytes the host has brought here (15 R383; log entry 20). -/
inductive Input where
  | row (i : Instr)
  | access (port : Fin 2) (write : Bool) (off size : Nat) (data : BitVec 2048)
  | flit (port : Fin 18) (f : BitVec 256) (m : Option Msg)
  | linkDown (port : Fin 18)
  | laneRetry (port : Fin 18) (same : Bool)
  | device (n : BitVec 8)
  | peer (p : Peer)
  | upset (u : Upset)
  | area (a : SaveArea)
  deriving DecidableEq, Repr

/-- The model's own fields (log entry 3): the context whose instruction is executed, the words of that instruction, what
the outside does and in which cycle, the counter that picks free values, the next name, how the last instruction
ended, and, for an instruction forwarded to a follower of a course-fetch run, whether the leader branched. -/
structure Model where
  cur : Key × CtxNo
  ir : List Nat
  inputs : List (Nat × Input)
  freeCtr : Nat
  nextId : Nat
  fate : Fate
  lead : Option Bool
  deriving DecidableEq, Repr

/-- The state of the package. Cores, partitions, kilns and engines that no list names are as after reset. -/
structure State where
  cycle : Nat
  tsBase : Int
  device : BitVec 8
  cores : List (Nat × Core)
  parts : List (Nat × Part)
  sh : Shared
  launches : List LaunchJob
  shoots : List Shoot
  areas : List SaveArea
  peers : List Peer
  ports : Vector HostPort 2
  sems : Vector (Fin 3) 64
  tie : Fin 2
  slaup : Vector SlaupPort 18
  dom : Domain
  mg : Mgmt
  m : Model
  deriving DecidableEq, Repr

/-! ## Reset -/

/-- Table 7.1. -/
def KCfg.init : KCfg :=
  { bscl := false, ascl := false, drm := 0, dtype := 8, btype := 8, atype := 8, bstr := 512, astr := 512,
    bsstr := 0, asstr := 0 }

/-- The registers of a started context (02 R41); at power-on too (log entry 1). -/
def Regs.init : Regs :=
  { x := Vector.replicate 32 0, v := Vector.replicate 32 0, p := Vector.replicate 8 0, g := Vector.replicate 8 0 }

/-- The reset values of Table 2.4 and Table 2.8. -/
def Csrs.init : Csrs :=
  { cls := 3, ubusy := false, pmode := .user, mode := .supervisor, xcause := 0, xvalue := 0, xpc := 0,
    xvec := ⟨false, 0⟩, uvec := ⟨false, 0⟩, ucause := 0, uvalue := 0, upc := 0, vtype := 7, ftz := false, rm := 0,
    rndkey := 0, rndctr := 0, rgcause := 0, rgretry := 0, txid := 0, sscount := 0, slotbase := 0, slotwin := 0,
    chk := none, chkoff := 0, txbody := false, ssunrec := false }

/-- Nothing outstanding, nothing saved. -/
def Aux.init : Aux :=
  { frames := [], ss := none, deferred := [], outs := [], windows := [], busy := [], stall := 0, wakeAt := Vector.replicate 8 0,
    flaw := false, posted := [],
    gens := [], reports := [], refMask := 0, refCount := 0, refPc := none, triggers := [], labels := [], hist := [],
    startPtr := 0, slotClock := none, recon := none, far := none, bodyRetry := 0, body := none, dbg := ⟨none, none, false⟩ }

/-- An idle context. -/
def Ctx.init : Ctx := { regs := Regs.init, pc := 0, csr := Csrs.init, run := .idle, aux := Aux.init }

/-- The reset values of WIN0 to WIN7: EN 0 with the types of Table 2.6. Windows 6 and 7 reset to bf16 sources; window 7
decodes to f32. -/
def winReset : Vector Word 8 :=
  #v[0, 0x6C00000000000000, 0x6400000000000000, 0x5400000000000000, 0x5C00000000000000, 0x4380000000000000,
     0x4400000000000000, 0x4380000000000000]

/-- Reset values of the per-core CSRs (02 Table 2.4, Table 2.8): QTAB has SPSIZE 4 and SPBASE 0xF_C000. -/
def CoreCsrs.init : CoreCsrs :=
  { dm := Vector.replicate 4 0, brect := Vector.replicate 4 0, win := winReset, qtab := 0x000004FC00000000,
    trctl := 0, msgmax := 64, kweight := 1, seg := Vector.replicate 4 0 }

/-- A core after power-on or a core reset. -/
def Core.init : Core :=
  { ctxs := Vector.replicate 4 Ctx.init, csr := CoreCsrs.init, log := [], logHead := 0, wnum := 0,
    strms := Vector.replicate 8 none, linkBy := none, west := [], east := [], injq := [], rq := [], ranges := [],
    kq := [], kcfg := KCfg.init, kcfgIssue := KCfg.init, kterms := 0, bars := Vector.replicate 4 none, attempts := [],
    lkm := ⟨false, [], [], []⟩, tlb := [], sel := ⟨Vector.replicate 4 0, Vector.replicate 5 0, none, none⟩, divFree := 0,
    ssRolls := 0, trace := ⟨[], 0, 0, 0, none, 0⟩, counters := Vector.replicate 11 0, resetting := none,
    patrolled := 0, ceTimes := [], ceTold := none, logUe := [], flyUe := [] }

/-- A sequence lane as CREATE makes it (11 R305, R306). -/
def Lane.init : Lane :=
  { intake := [], round := 0, opened := 0, prevChecked := 0, pending := [], restarts := [], portions := [], fwd := (0, 0),
    lastSeen := [], heard := [], cuts := [], told := [], telling := [], ue := false }

/-- A FREE partition. -/
def Part.init : Part :=
  { state := .free, pallets := 0, hods := 0, config := 0, device := 0, job := 0, group := 0, root := 0, owner := 0,
    fatal := false, t := 0, tr := 0, stops := [], saveva := 0, savelen := 0, progress := 0, credits := [], drained := [], drainId := 0, before := .free, restore := none, held := 0,
    since := none, lane := Lane.init }

def Credit.init : Credit := ⟨0, 0, 0, 0⟩

def SlaupPort.init : SlaupPort :=
  { up := false, dead := false, standbyFor := none, ctl := Vector.replicate 8 Credit.init,
    dat := Vector.replicate 8 Credit.init, lanerty := 0, badflit := 0, stalecr := 0, changed := none, credited := 0,
    rotate := 0, seq := 0, delay := 0, flit := 0, downAt := none, fails := 0, wire := 0 }

def HostPort.init : HostPort := { up := false, notices := [], inj := [], last := ⟨false, 0, 0⟩, csel := 0, dcmd := Vector.replicate 32 0 }

/-- The management unit at power-good: SELFTEST (19 R432); DEVID, SVNMIN and LEAFCTR are fused (19 R438). -/
def Mgmt.init : Mgmt :=
  { power := true, state := .selftest, fail := 0, fwaddr := 0, svn := 0, svnmin := Config.svnmin,
    leafctr := Config.leafctr.val, measure := [], tempmax := 0, watts := 0, cool := 0, trip := none }

/-- The machine right after reset: power-good, every SRAM written with zero and every core outside every partition
(19 R432, 14 R340). -/
def State.reset : State :=
  { cycle := 0, tsBase := 0, device := 0, cores := [], parts := [],
    sh := { mem := ⟨[], []⟩, ue := [], ce := [], fabric := [], fallout := [], held := [], copies := [], fetches := [], asks := [], kilns := [],
            atomics := [], runs := [] },
    launches := [], shoots := [], areas := [], peers := [], ports := Vector.replicate 2 HostPort.init,
    sems := Vector.replicate 64 0, tie := 0, slaup := Vector.replicate 18 SlaupPort.init,
    dom := ⟨[], [], 0, none, 0, 0, [], [], false⟩, mg := Mgmt.init,
    m := { cur := (0, 0), ir := [], inputs := [], freeCtr := 0, nextId := 0, fate := .quiet, lead := none } }

end Sys2Proof.Machine
end

