-- ==== Sys2Proof/Machine/Mem.lean ====
section
/-! DEFINITION. The byte store: what an unlisted address reads as, reads and writes of bytes, the canonical form, and
where each memory of the device lies in it. -/
namespace Sys2Proof.Machine
open Sys2Proof

/-! ## Lists kept by key -/

/-- The value at a key, if any. -/
def aget {α : Type} : List (Nat × α) → Nat → Option α
  | [], _ => none
  | (k, v) :: r, n => if k = n then some v else aget r n

/-- The list with the value at a key replaced or added, keys rising. -/
def aset {α : Type} : List (Nat × α) → Nat → α → List (Nat × α)
  | [], n, x => [(n, x)]
  | (k, v) :: r, n, x => if k = n then (n, x) :: r else if n < k then (n, x) :: (k, v) :: r else (k, v) :: aset r n x

/-- The list without the value at a key. -/
def adel {α : Type} (l : List (Nat × α)) (n : Nat) : List (Nat × α) := l.filter fun e => e.1 ≠ n

/-- The element at a place replaced by a function of it. -/
def lmod {α : Type} (l : List α) (i : Nat) (f : α → α) : List α :=
  match l[i]? with
  | some a => l.set i (f a)
  | none => l

/-! ## Bytes -/

/-- What an unlisted address reads as: a free byte where the newest range over it says so, else zero
(19 R432, 14 R344; log entries 2 and 7). -/
def Memory.dflt (m : Memory) (a : Nat) : Byte :=
  match m.cover.find? fun c => c.1 ≤ a && a < c.2.1 with
  | some (_, _, some e) => Config.freeByte e a
  | _ => 0

/-- A listed byte. -/
def cellGet : List Host.Cell → Nat → Option Byte
  | [], _ => none
  | (k, b) :: r, a => if k = a then some b else if a < k then none else cellGet r a

/-- A byte listed, keys rising. -/
def cellSet : List Host.Cell → Nat → Byte → List Host.Cell
  | [], a, b => [(a, b)]
  | (k, v) :: r, a, b => if k = a then (a, b) :: r else if a < k then (a, b) :: (k, v) :: r else (k, v) :: cellSet r a b

/-- A byte no longer listed. -/
def cellDel : List Host.Cell → Nat → List Host.Cell
  | [], _ => []
  | (k, v) :: r, a => if k = a then r else if a < k then (k, v) :: r else (k, v) :: cellDel r a

/-- One byte read. -/
def Memory.get (m : Memory) (a : Nat) : Byte := (cellGet m.cells a).getD (m.dflt a)

/-- One byte written, keeping the canonical form. -/
def Memory.set (m : Memory) (a : Nat) (b : Byte) : Memory :=
  if b = m.dflt a then { m with cells := cellDel m.cells a } else { m with cells := cellSet m.cells a b }

/-- Ranges that do not lie inside a newer one: older ranges that it hides are dropped. -/
def hidden (lo hi : Nat) (c : Nat × Nat × Option Nat) : Bool := decide (lo ≤ c.1 ∧ c.2.1 ≤ hi)

/-- Every byte of a range given up: it reads as free bytes of an epoch, or as zero. A range of zeros over nothing but zeros
is not kept. -/
def Memory.fill (m : Memory) (lo hi : Nat) (e : Option Nat) : Memory :=
  let older := m.cover.filter fun c => !hidden lo hi c
  { cells := m.cells.filter fun c => c.1 < lo || hi ≤ c.1,
    cover := if e.isNone && older.all (fun c => decide (c.2.1 ≤ lo ∨ hi ≤ c.1)) then older else (lo, hi, e) :: older }

/-- Addresses rise strictly. -/
def cellsSorted : List Host.Cell → Bool
  | [] => true
  | [_] => true
  | (a, _) :: (b, v) :: r => decide (a < b) && cellsSorted ((b, v) :: r)

/-- The canonical form: addresses rising, and no entry equal to what an unlisted address reads as. -/
def Memory.wf (m : Memory) : Bool := cellsSorted m.cells && m.cells.all fun c => decide (c.2 ≠ m.dflt c.1)

/-- n bytes from a, the lowest address in the lowest bits (00 R9). -/
def Memory.read (m : Memory) (a : Nat) : Nat → Nat
  | 0 => 0
  | n + 1 => (m.get a).toNat + 256 * Memory.read m (a + 1) n

/-- The low n bytes of v written from a (00 R9). -/
def Memory.write (m : Memory) (a : Nat) : Nat → Nat → Memory
  | 0, _ => m
  | n + 1, v => Memory.write (m.set a (BitVec.ofNat 8 v)) (a + 1) n (v / 256)

/-- n bytes from a, as a list. -/
def Memory.bytes (m : Memory) (a n : Nat) : List Byte := (List.range n).map fun i => m.get (a + i)

/-! ## Where each memory lies -/

/-- Far physical memory: 384 GiB from 0 (15 R368). -/
def Loc.farEnd : Nat := 0x6000000000
/-- The firmware region, up to the end of far memory (19 R432). -/
def Loc.firmware : Nat := 0x5FF0000000
/-- Slice of a core: 1 MiB each (02 R42). -/
def Loc.slice (c off : Nat) : Nat := 2 ^ 40 + c * 2 ^ 20 + off
/-- Staging SRAM of a hod: 256 KiB each (02 R47). -/
def Loc.staging (h off : Nat) : Nat := 2 ^ 41 + h * 2 ^ 18 + off
/-- Instruction memory of a core or hod: 32 KiB each (02 R42). -/
def Loc.imem (k pc : Nat) : Nat := 2 ^ 42 + k * 2 ^ 15 + pc
/-- Accumulator tiles: 16 KiB each, four to a core, element (m, n) at 4 × (64 m + n) (07 R205). -/
def Loc.acc (c tile idx : Nat) : Nat := 2 ^ 44 + (c * 4 + tile) * 2 ^ 14 + idx * 4

/-- The local store of a core or hod: the slice, or the staging SRAM. -/
def Loc.local_ (k : Key) (off : Nat) : Nat :=
  if k.val < 4096 then Loc.slice k.val off else Loc.staging (k.val - 4096) off

/-- The size of the local store (02 R42, R47). -/
def localSize (k : Key) : Nat := if k.val < 4096 then 0x100000 else 0x40000

/-- A core other than a hod. -/
def isHod (k : Key) : Bool := decide (4096 ≤ k.val)

/-- The core index of COREID, addresses and records: the index of a core or of a hod (00 R2, R3). -/
def index (k : Key) : Nat := if k.val < 4096 then k.val else k.val - 4096

/-- Row and column of a core (00 R2). -/
def rowOf (c : Nat) : Nat := c / 64
def colOf (c : Nat) : Nat := c % 64

/-- The die of a core or hod (00 R2, R3). -/
def dieOf (k : Key) : Nat :=
  if isHod k then (k.val - 4096) / 16 else 2 * (if rowOf k.val ≥ 32 then 1 else 0) + (if colOf k.val ≥ 32 then 1 else 0)

/-- The pallet of a core index (00 R2). -/
def palletOf (c : Nat) : Nat := rowOf c / 4 * 16 + colOf c / 4

/-- The kiln of a core index (00 R2). -/
def kilnOf (c : Nat) : Nat := 2 * palletOf c + rowOf c % 4 / 2

/-- The queue slot of a core at its kiln (00 R2). -/
def qslotOf (c : Nat) : Nat := rowOf c % 2 * 4 + colOf c % 4

/-- The core index at a queue slot of a kiln: the inverse of `kilnOf` and `qslotOf`. -/
def coreAtSlot (kiln slot : Nat) : Nat :=
  let p := kiln / 2
  (p / 16 * 4 + kiln % 2 * 2 + slot / 4) * 64 + p % 16 * 4 + slot % 4

/-- The key of a core index. -/
def coreKey (c : Nat) : Key := Fin.ofNat 4160 (c % 4096)
/-- The key of a hod index. -/
def hodKey (h : Nat) : Key := Fin.ofNat 4160 (4096 + h % 64)

end Sys2Proof.Machine
end

