-- ==== Sys2Proof/Machine/Digest.lean ====
section
/-! DEFINITION. The digest and the signature check that 19 R434 names: SHAKE256 as FIPS 202 defines it, and the verification of
XMSS-SHAKE_20_512 as RFC 8391 defines it (log entry 6). Both stand in documents outside the spec. -/
namespace Sys2Proof.Machine
open Sys2Proof

/-! ## SHAKE256 (FIPS 202)

The state is a list of 25 lanes, lane (x, y) at place x + 5 y. Constants are computed as FIPS 202 computes them. -/

/-- The shift register of the round constants after t steps, from 1: the polynomial x^8 + x^6 + x^5 + x^4 + 1. -/
def keccakLfsr : Nat → Nat
  | 0 => 1
  | t + 1 =>
    let r := 2 * keccakLfsr t
    if r < 256 then r else r ^^^ 0x171

/-- The constant of round i: bit 2^j − 1 is the low bit of the register at step j + 7 i. -/
def keccakConst (i : Nat) : Word :=
  BitVec.ofNat 64 (((List.range 7).map fun j => keccakLfsr (j + 7 * i) % 2 * 2 ^ (2 ^ j - 1)).foldl (· + ·) 0)

/-- The place that t steps of (x, y) ↦ (y, 2 x + 3 y) lead to from (1, 0). -/
def keccakWalk : Nat → Nat
  | 0 => 1
  | t + 1 =>
    let i := keccakWalk t
    i / 5 + 5 * ((2 * (i % 5) + 3 * (i / 5)) % 5)

/-- Theta: to each lane the parities of the column before it and, rotated, of the column after it. -/
def keccakTheta (a : List Word) : List Word :=
  let parity := (List.range 5).map fun x => (List.range 5).foldl (fun w y => w ^^^ a.getD (x + 5 * y) 0) 0
  a.zipIdx.map fun e => e.1 ^^^ parity.getD ((e.2 + 4) % 5) 0 ^^^ (parity.getD ((e.2 + 1) % 5) 0).rotateLeft 1

/-- Rho and pi in one: pi takes each place of the walk to the next, rho rotates the lane of step t by the triangular number of
t + 1. -/
def keccakRhoPi (a : List Word) : List Word :=
  (List.range 24).foldl (fun b t => b.set (keccakWalk (t + 1)) ((a.getD (keccakWalk t) 0).rotateLeft ((t + 1) * (t + 2) / 2 % 64))) a

/-- Chi: each lane with the two that follow it in its row. -/
def keccakChi (a : List Word) : List Word :=
  a.zipIdx.map fun e =>
    let next := fun n => a.getD ((e.2 + n) % 5 + e.2 / 5 * 5) 0
    e.1 ^^^ (next 2 &&& ~~~next 1)

/-- The permutation of 24 rounds. -/
def keccak (a : List Word) : List Word :=
  (List.range 24).foldl (fun a i =>
    let b := keccakChi (keccakRhoPi (keccakTheta a))
    b.set 0 (b.getD 0 0 ^^^ keccakConst i)) a

/-- The bytes of a lane, and a lane of bytes, low byte first. -/
def laneBytes (w : Word) : List Byte := (List.range 8).map fun i => BitVec.ofNat 8 (w.toNat >>> (8 * i))
def bytesLane (l : List Byte) : Word := BitVec.ofNat 64 (l.foldr (fun b n => b.toNat + 256 * n) 0)

/-- A block of the rate, 17 lanes, taken in. -/
def absorb (a : List Word) (b : List Byte) : List Word :=
  keccak (a.zipIdx.map fun e => e.1 ^^^ bytesLane ((b.drop (8 * e.2)).take 8))

/-- A message padded to whole blocks: the suffix 1111 and the first 1 of the padding, zeros, the last 1. -/
def shakePad (m : List Byte) : List Byte :=
  let z := 135 - m.length % 136
  m ++ if z = 0 then [(0x9F : Byte)] else [(0x1F : Byte)] ++ List.replicate (z - 1) 0 ++ [(0x80 : Byte)]

/-- SHAKE256 of a message, 64 bytes. -/
def shake256 (m : List Byte) : List Byte :=
  let l := shakePad m
  let a := (List.range (l.length / 136)).foldl (fun a i => absorb a ((l.drop (136 * i)).take 136)) (List.replicate 25 0)
  (a.take 8).flatMap laneBytes

/-! ## XMSS-SHAKE_20_512 (RFC 8391): n = 64, w = 16, 131 chains, height 20 -/

/-- A number as bytes, high byte first. -/
def toByte (x n : Nat) : List Byte := (List.range n).map fun i => BitVec.ofNat 8 (x >>> (8 * (n - 1 - i)))
def xorBytes (a b : List Byte) : List Byte := List.zipWith (· ^^^ ·) a b
/-- The keyed functions: 0 F, 1 H, 2 H_msg, 3 PRF. -/
def xmssHash (i : Nat) (key m : List Byte) : List Byte := shake256 (toByte i 64 ++ key ++ m)

/-- An address: type, three words, keyAndMask; layer and tree are 0. -/
def xmssAdrs (ty a b c mask : Nat) : List Byte := toByte 0 12 ++ toByte ty 4 ++ toByte a 4 ++ toByte b 4 ++ toByte c 4 ++ toByte mask 4
def xmssPrf (seed : List Byte) (ty a b c mask : Nat) : List Byte := xmssHash 3 seed (xmssAdrs ty a b c mask)

/-- A chain from step i over s steps, of chain c of key pair `ots`. -/
def xmssChain (seed : List Byte) (ots c : Nat) (x : List Byte) (i s : Nat) : List Byte :=
  (List.range s).foldl (fun x j =>
    xmssHash 0 (xmssPrf seed 0 ots c (i + j) 0) (xorBytes x (xmssPrf seed 0 ots c (i + j) 1))) x

/-- RAND_HASH at a height and index of a tree of a type. -/
def xmssNode (seed : List Byte) (ty a h i : Nat) (l r : List Byte) : List Byte :=
  xmssHash 1 (xmssPrf seed ty a h i 0) (xorBytes l (xmssPrf seed ty a h i 1) ++ xorBytes r (xmssPrf seed ty a h i 2))

/-- The digits of base 16 of some bytes. -/
def base16 (l : List Byte) : List Nat := l.flatMap fun b => [b.toNat / 16, b.toNat % 16]
/-- The digits of a message and of its checksum. -/
def wotsDigits (m : List Byte) : List Nat :=
  let d := base16 m
  d ++ (base16 (toByte ((d.map (15 - ·)).foldl (· + ·) 0 <<< 4) 2)).take 3

/-- Pieces of 64 bytes. -/
def pieces64 (l : List Byte) (n : Nat) : List (List Byte) := (List.range n).map fun i => (l.drop (64 * i)).take 64

/-- One level of an L-tree: pairs hashed, an odd last one kept. -/
def ltreeLevel (seed : List Byte) (ots h : Nat) : Nat → List (List Byte) → List (List Byte)
  | i, a :: b :: r => xmssNode seed 1 ots h i a b :: ltreeLevel seed ots h (i + 1) r
  | _, l => l
/-- The root of an L-tree of 131 leaves, eight levels. -/
def ltree (seed : List Byte) (ots : Nat) (l : List (List Byte)) : List Byte :=
  ((List.range 8).foldl (fun l h => ltreeLevel seed ots h 0 l) l).headD []

/-- A signature of 9,732 bytes over a message verifies under a root and a seed. -/
def xmssVerify (root seed m sig : List Byte) : Bool :=
  let idx := (sig.take 4).foldl (fun n b => 256 * n + b.toNat) 0
  let r := (sig.drop 4).take 64
  let ots := pieces64 (sig.drop 68) 131
  let auth := pieces64 (sig.drop (68 + 64 * 131)) 20
  let digest := xmssHash 2 (r ++ root ++ toByte idx 64) m
  let pk := ((wotsDigits digest).zip ots).zipIdx.map fun e => xmssChain seed idx e.2 e.1.2 e.1.1 (15 - e.1.1)
  let top := auth.zipIdx.foldl (fun x e =>
    let i := idx >>> (e.2 + 1)
    if idx >>> e.2 % 2 = 0 then xmssNode seed 2 0 e.2 i x e.1 else xmssNode seed 2 0 e.2 i e.1 x) (ltree seed idx pk)
  decide (idx < 2 ^ 20) && decide (top = root)

/-! ## Keys and signatures

A key is named by a number: 0 is the Jalilte root, 1 the pair of the device (19 R434, R436). Its secret strings and its seed are
constants without a body; all else is computed from them. -/

/-- The number of the device's own key. -/
def deviceKey : Nat := 1
def jalilteKey : Nat := 0

/-- 64 bytes of a secret or a seed. -/
def bytes64 (f : Nat → Byte) : List Byte := (List.range 64).map f
def keySeed (key : Nat) : List Byte := bytes64 (Config.keySeed key)

/-- Chain c of leaf i of a key, after some steps. -/
def keyChain (key i c steps : Nat) : List Byte := xmssChain (keySeed key) i c (bytes64 (Config.keySecret key i c)) 0 steps

/-- A node of the tree of a key: by height and place (RFC 8391, treeHash). -/
def keyNode (key : Nat) : Nat → Nat → List Byte
  | 0, i => ltree (keySeed key) i ((List.range 131).map fun c => keyChain key i c 15)
  | h + 1, i => xmssNode (keySeed key) 2 0 h i (keyNode key h (2 * i)) (keyNode key h (2 * i + 1))
def keyRoot (key : Nat) : List Byte := keyNode key 20 0

/-- The public key: OID, root, seed; 132 bytes. -/
def publicKey (key : Nat) : List Byte := toByte 0x0000000C 4 ++ keyRoot key ++ keySeed key

/-- The signature of a message with leaf i of a key, 9,732 bytes (RFC 8391, XMSS_sign). -/
def xmssSign (key i : Nat) (m : List Byte) : List Byte :=
  let r := xmssHash 3 (bytes64 (Config.keyPrf key)) (toByte i 32)
  let digest := xmssHash 2 (r ++ keyRoot key ++ toByte i 64) m
  toByte i 4 ++ r ++ ((wotsDigits digest).zipIdx.flatMap fun e => keyChain key i e.2 e.1) ++
    (List.range 20).flatMap fun h => keyNode key h (i / 2 ^ h ^^^ 1)

end Sys2Proof.Machine
end

