-- ==== Sys2Proof/WellFormed.lean ====
section
/-! DEFINITION. Well-formed instructions: those that some words encode (03 R69, R70, R89 and the entries' own ranges).
Register numbers, codes and small fields are bounded by their types; what is left is the range of each immediate and the
four prefixes that a chain may hold. An event carries no words and is well formed as it stands. -/
namespace Sys2Proof

/-- The least number of IMX prefixes whose width holds a signed immediate (R70, R89). -/
def imxCountS (w0 : Nat) (v : Int) : Nat :=
  let fits := fun k => let w := w0 + 9 * k
    if w = 0 then decide (v = 0) else decide (-(2 : Int) ^ (w - 1) ≤ v ∧ v < (2 : Int) ^ (w - 1))
  if fits 0 then 0 else if fits 1 then 1 else if fits 2 then 2 else 3

/-- The same for an unsigned immediate. -/
def imxCountU (w0 : Nat) (v : Nat) : Nat :=
  if v < 2 ^ w0 then 0 else if v < 2 ^ (w0 + 9) then 1 else if v < 2 ^ (w0 + 18) then 2 else 3


/-- A signed immediate that at most three IMX prefixes hold (R69, R70). -/
def fitsS (w0 : Nat) (v : Int) : Bool := decide (-(2 : Int) ^ (w0 + 26) ≤ v ∧ v < (2 : Int) ^ (w0 + 26))

/-- An unsigned immediate that at most three IMX prefixes hold (R69, R70). -/
def fitsU (w0 : Nat) (v : Nat) : Bool := decide (v < 2 ^ (w0 + 27))

/-- An immediate of major 5 that shifts by 0 to 63 (04 R102). -/
def fitsShift (v : Int) : Bool := decide (0 ≤ v ∧ v ≤ 63)

/-- At most four prefixes (R69): the IMX prefixes of an offset, a REX and a MOD. -/
def budget (off : Int) (rex md : Bool) : Bool := decide (imxCountS 0 off + rex.toNat + md.toNat ≤ 4)

/-- A MOD prefix is needed (R89). -/
def Md.needed (d : Md) : Bool := decide (d.ty ≠ none ∨ d.pr ≠ 0)
/-- A MOD prefix is needed for an ordering code (R89). -/
def Ord.needed (o : Ord) : Bool := decide (o ≠ .plain)
/-- A number that needs REX (R66). -/
def hiReg (n : Nat) : Bool := decide (15 < n)

/-- The offset of a memory operand fits (06 Table 6.1). -/
def MAddr.wf (m : MAddr) : Bool := fitsS 0 m.off
/-- Either form (06 R159). -/
def MSrc.wf : MSrc → Bool
  | .addr m => m.wf
  | .strm _ => true

/-- A vector access in either form within the four prefixes. -/
def MSrc.wfV (a : Reg) (d : Md) : MSrc → Bool
  | .addr m => m.wf && budget m.off (hiReg a || hiReg m.b) d.needed
  | .strm _ => true

/-- Sends take codes 0, 1 and 3 (06 Table 6.7). -/
def Ord.noF (o : Ord) : Bool := decide (o ≠ .f)

/-- A CAS names T from 1 to 30, an FADD is of 4 bytes (06 R193, Table 6.9). -/
def amoOk (t : Reg) (op : Fin 11) (w4 : Bool) : Bool :=
  decide (op.val = 9 → 1 ≤ t.val ∧ t.val ≤ 30) && decide (op.val = 10 → w4 = true)

/-- The encodable instructions. -/
def Instr.wf : Instr → Bool
  | .addi o | .andi o | .ori o | .xori o | .slti o => fitsS 4 o.imm
  | .slli o | .srli o | .srai o => fitsShift o.imm
  | .lea _ _ v => fitsS 0 v
  | .bfx _ p l _ | .bfi _ p l => decide (p.val + l.val + 1 ≤ 64)
  | .ldb _ m | .ldbu _ m | .ldh _ m | .ldhu _ m | .ldw _ m | .ldwu _ m | .ldd _ m => m.wf
  | .stb _ m | .sth _ m | .stw _ m | .std _ m => m.wf
  | .lda _ m | .stl _ m | .zln m | .sbind _ m => m.wf
  | .vld a m d | .vst a m d => m.wfV a d
  | .vldb a m d | .vstc a m d => m.wf && budget m.off (hiReg a || hiReg m.b) d.needed
  | .vlds a m t d | .vsts a m t d | .vgath a m t d | .vscat a m t d =>
    m.wf && budget m.off (hiReg a || hiReg m.b || decide (t ≠ a)) d.needed
  | .vcvt _ dt _ _ => decide (dt.val ≤ 15)
  | .vpmov (.tox _ _) p => decide (p = 0)
  | .li _ v | .beqz _ v | .bnez _ v => fitsS 7 v
  | .loop _ n => fitsU 7 n
  | .beq _ _ v | .bne _ _ v | .blt _ _ v | .bge _ _ v | .bltu _ _ v | .bgeu _ _ v => fitsS 0 v
  | .jalr _ _ v | .jf _ v | .callf _ _ v => fitsS 0 v
  | .send _ mb | .sendq _ mb => mb.noF
  | .fst a m z mb => m.wf && budget m.off (hiReg a || hiReg m.b || decide (z ≠ 0)) mb.needed
  | .fstb a m hi mb => mb.noF && m.wf && budget m.off (hiReg a || hiReg m.b || hi) mb.needed
  | .mcst a m t d mb =>
    mb.noF && m.wf && budget m.off (hiReg a || hiReg m.b || decide (t ≠ a)) (d.needed || mb.needed)
  | .rdst a m t op d mb =>
    mb.noF && m.wf && budget m.off (hiReg a || hiReg m.b || decide (t ≠ a) || decide (op ≠ 0)) (d.needed || mb.needed)
  | .pegset _ _ v => fitsU 0 v
  | .pegadd _ _ v => fitsS 0 v
  | .domset _ b => decide (b.val ≤ 30)
  | .j v | .jal v => fitsS 11 v
  | .rbeg v _ => fitsS 0 v
  | .lpush _ v => decide (v < 2 ^ 18)
  | .fld t m z q _ => m.wf && budget m.off (hiReg m.b || decide (t ≠ 0) || decide (z ≠ 0)) q
  | .fldv t m d q _ => m.wf && budget m.off (hiReg m.b || decide (t ≠ 0)) (d.needed || q)
  | .amo t _ op w _ _ => amoOk t op w
  | .amoq t _ op w mb _ => mb.noF && amoOk t op w
  | .copy g m mb _ | .copysp g m mb _ | .copyq g m mb _ =>
    mb.noF && m.wf && budget m.off (hiReg m.b || decide (g ≠ 0)) mb.needed
  | .kmma k _ => decide (k.b.val ≤ 28)
  | .kmmac k _ | .klda k _ | .ksta k _ => decide (k.b.val ≤ 30)
  | .kspmma k _ => decide (k.b.val ≤ 29)
  | .kzero k => decide (k.b.val = 0)
  | .kcfg b _ => decide (b.val ≤ 29)
  | _ => true

end Sys2Proof
end

