-- ==== Sys2Proof/Decode.lean ====
section
/-! DEFINITION. The decoder and the encoder of instruction words (03 R63 to R89). Words are natural numbers below 65536.
Decoding is total: every list of words gives an instruction with its length, or an `Illegal` that names the breach with
the word and the position that XVALUE reports (03 R85). Which word is at fault where R85 does not say it: log entry 9. -/
namespace Sys2Proof

/-- The breaches of 03 Table 3.13 that are found by decoding. -/
inductive Breach where
  /-- a fifth prefix word, a fourth IMX, or a second REX, MOD or PAGE (R69) -/
  | chain
  /-- a PAGE with a nonzero PG (R74) -/
  | page
  /-- major 30 or a reserved function slot (R82) -/
  | opcode
  /-- a prefix of a kind that the instruction does not accept (R75) -/
  | unaccepted
  /-- a field of a prefix that must be zero, or a code the entry does not accept (R71 to R73) -/
  | extField
  /-- a base-word field, register number, immediate or type outside the entry's range (R66, R70, R72) -/
  | baseField
  /-- the words end before a base word: no instruction memory ends so (R46), only a list given to the decoder -/
  | short
  deriving DecidableEq, Repr

/-- An illegal sequence of words: what it breaks, the word at fault and its position (R85). -/
structure Illegal where
  why : Breach
  word : Nat
  pos : Nat
  deriving DecidableEq, Repr

/-- The XVALUE of an illegal instruction (R85). -/
def Illegal.xvalue (e : Illegal) : Word := BitVec.ofNat 64 (e.word % 65536 + e.pos % 8 * 65536)

/-- A parsed chain: the IMX payloads in order, the REX and MOD payloads, the base word (R68, R69). -/
structure Chain where
  imx : List Nat
  rex : Option Nat
  md : Option Nat
  page : Bool
  base : Nat
  deriving DecidableEq, Repr

/-- The chain before any word. -/
def Chain.start : Chain := ⟨[], none, none, false, 0⟩

/-- Takes words in address order until a base word, with the checks of R69 and R74 at each (Table 3.14 step 1).
`n` counts the prefix words taken. -/
def parseChain : List Nat → Nat → Chain → Except Illegal (Chain × Nat)
  | [], n, _ => .error ⟨.short, 0, n⟩
  | w :: ws, n, c =>
    if w / 2048 % 32 ≠ 31 then .ok ({ c with base := w }, n)
    else if n = 4 then .error ⟨.chain, w, 4⟩
    else
      let pl := w % 512
      match w / 512 % 4 with
      | 0 => if c.imx.length = 3 then .error ⟨.chain, w, n⟩ else parseChain ws (n + 1) { c with imx := c.imx ++ [pl] }
      | 1 => if c.rex.isSome then .error ⟨.chain, w, n⟩ else parseChain ws (n + 1) { c with rex := some pl }
      | 2 =>
        if c.page then .error ⟨.chain, w, n⟩
        else if pl ≠ 0 then .error ⟨.page, w, n⟩ else parseChain ws (n + 1) { c with page := true }
      | _ => if c.md.isSome then .error ⟨.chain, w, n⟩ else parseChain ws (n + 1) { c with md := some pl }

/-- How an entry takes its immediate (R70). -/
inductive ImmKind where
  | none | unsigned | signed
  deriving DecidableEq, Repr

/-- What an entry accepts of the four kinds of prefix (R75): its immediate and how many IMX (`two`: not exactly one), whether REX is accepted and
which of HA, HB and T may be nonzero, the accepted codes of RB, whether MOD is accepted with TYPE and PRED, and the
accepted codes of MB. -/
structure Entry where
  imm : ImmKind := .none
  maxImx : Nat := 3
  two : Bool := false
  rex : Bool := true
  ha : Bool := true
  hb : Bool := true
  t : Bool := false
  rb : List Nat := [0]
  md : Bool := false
  ty : Bool := false
  pr : Bool := false
  mb : List Nat := [0]
  deriving DecidableEq, Repr

/-- Width of the base immediate (Table 3.1). -/
def immW0 (major : Nat) : Nat :=
  if major = 5 then 4 else if 16 ≤ major ∧ major ≤ 19 then 7 else if major = 24 ∨ major = 25 then 11 else 0

/-- Form L (Table 3.1). -/
def isFormL (major : Nat) : Bool := major == 28 || major == 29
/-- Form W (Table 3.1). -/
def isFormW (major : Nat) : Bool := 16 ≤ major && major ≤ 19
/-- Form J (Table 3.1). -/
def isFormJ (major : Nat) : Bool := major == 24 || major == 25

/-- Entries of the scalar majors 0 to 7 (04 Tables 4.2 to 4.7, 08 Table 8.1). -/
def entryScalar (major f : Nat) : Option Entry :=
  match major, f with
  | 0, 6 => some { hb := false }
  | 0, _ => some { rex := false }
  | 1, f => some { t := decide (f < 6) }
  | 2, f => some { t := decide (f < 4) }
  | 3, _ => some { t := true }
  | 4, _ => some { t := true }
  | 5, f => some { imm := if f = 4 ∨ f = 5 ∨ f = 6 then .unsigned else .signed, hb := false, t := true }
  | 6, 0 => some { rb := [0, 1, 2] }
  | 6, 1 => some { rb := [0, 1, 2] }
  | 6, 2 => some { t := true }
  | 6, 3 => some { t := true, imm := .signed, rb := [0, 1, 2, 3] }
  | 6, 4 => some { t := true }
  | 6, 5 => some { imm := .unsigned, two := true }
  | 6, 6 => some { imm := .unsigned, two := true }
  | 6, _ => some {}
  | 7, f => if f < 5 then some { imm := .unsigned } else none
  | _, _ => none

/-- Entries of the memory majors 8 to 10 (06 Tables 6.1 to 6.4). -/
def entryMem (major f : Nat) : Option Entry :=
  match major, f with
  | 8, 6 => some { imm := .signed, rb := [0, 1, 2] }
  | 8, 7 => some { imm := .signed }
  | 8, _ => some { imm := .signed, rb := [0, 1] }
  | 9, f => if f < 4 then some { imm := .signed, rb := [0, 1] } else if f < 6 then some { imm := .signed } else none
  | 10, f =>
    some { imm := .signed, rb := if f < 2 then [0, 1] else [0], t := decide (3 ≤ f ∧ f ≤ 6), md := true, ty := true, pr := true }
  | _, _ => none

/-- Entries of the vector majors 11 to 14 (05 Tables 5.3, 5.4, 5.6, 5.8). -/
def entryVec (major f : Nat) : Option Entry :=
  let e : Entry := { md := true, ty := true, pr := true }
  match major, f with
  | 11, f => some { e with t := true, mb := if f < 3 then [0, 1] else [0] }
  | 12, 5 => some { e with mb := [0, 1] }
  | 12, 6 => some { e with mb := [0, 1] }
  | 12, 7 => some { e with t := true, imm := .unsigned, maxImx := 1 }
  | 12, _ => some { e with t := true }
  | 13, 0 => some { e with mb := [0, 1, 2] }
  | 13, 1 => some e
  | 13, 2 => some { e with t := true }
  | 13, 3 => some { e with pr := false, imm := .unsigned, maxImx := 1 }
  | 13, 4 => some { e with pr := false, imm := .unsigned, maxImx := 1 }
  | 13, 5 => some { e with imm := .unsigned, maxImx := 2 }
  | 13, _ => some { e with imm := .unsigned, maxImx := 1 }
  | 14, 4 => some { e with t := true }
  | 14, 5 => some { e with t := true }
  | 14, 7 => some { e with t := true, ty := false, imm := .unsigned, maxImx := 1 }
  | 14, _ => some e
  | _, _ => none

/-- Entries of majors 15 to 27 (06 Tables 6.1 and 6.7, 04 Tables 4.8 and 4.9, 08 Table 8.1). SLINK and WAITMSG, which name no
register of the x or v class, accept no REX: 06 Table 6.1 does not say that they do (log entry 96). -/
def entryCtl (major f : Nat) : Option Entry :=
  match major, f with
  | 15, 0 => some { imm := .signed }
  | 15, 4 => some { rex := false }
  | 15, 7 => some { rex := false }
  | 15, _ => some {}
  | 16, _ => some { imm := .signed, hb := false }
  | 17, _ => some { imm := .signed, hb := false }
  | 18, _ => some { imm := .signed, hb := false }
  | 19, _ => some { imm := .unsigned, hb := false }
  | 20, f => if f < 6 then some { imm := .signed } else none
  | 21, 1 => some {}
  | 21, f => if f < 4 then some { imm := .signed } else none
  | 22, 0 => some { t := true, md := true, mb := [0, 1, 3] }
  | 22, 1 => some { t := true, md := true, mb := [0, 1, 3] }
  | 22, 2 => some { imm := .unsigned, maxImx := 1, md := true }
  | 22, 3 => some { imm := .signed, rb := [0, 1, 2, 3], md := true, mb := [0, 1, 2, 3] }
  | 22, 4 => some { imm := .signed, rb := [0, 1], md := true, mb := [0, 1, 3] }
  | 22, 5 => some { imm := .signed, t := true, md := true, ty := true, pr := true, mb := [0, 1, 3] }
  | 22, 6 => some { imm := .signed, t := true, rb := [0, 1, 2], md := true, ty := true, pr := true, mb := [0, 1, 3] }
  | 23, 0 => some { ha := false, hb := false, rb := [0, 1] }
  | 23, 1 => some { ha := false }
  | 23, 2 => some { hb := false, imm := .unsigned }
  | 23, 3 => some { ha := false, imm := .unsigned }
  | 23, 4 => some { ha := false, imm := .signed }
  | 23, 5 => some { rex := false, md := true, mb := [0, 1, 2, 3] }
  | 23, 6 => some { rex := false, md := true, mb := [0, 1, 2, 3] }
  | 23, 7 => some { ha := false }
  | 24, _ => some { imm := .signed, rex := false }
  | 25, _ => some { imm := .signed, rex := false }
  | 26, 0 => some { ha := false }
  | 26, 1 => some { rb := [0, 1] }
  | 26, 2 => some {}
  | 26, 4 => some { ha := false, hb := false, rb := [0, 1], imm := .signed }
  | 26, 5 => some { ha := false }
  | 26, _ => some { rex := false }
  | 27, 0 => some { ha := false, imm := .unsigned, maxImx := 2 }
  | 27, 1 => some { rex := false }
  | 27, 2 => some { hb := false }
  | 27, 3 => some { ha := false }
  | 27, 4 => some { ha := false }
  | _, _ => none

/-- Entries of form L, majors 28 and 29 (06 Table 6.8, 07 Table 7.4). -/
def entryLong (major f : Nat) : Option Entry :=
  let e : Entry := { ha := false, t := true, md := true }
  match major, f with
  | 28, 0 => some { e with imm := .signed, rb := [0, 1, 2, 3], mb := [0, 3] }
  | 28, 1 => some { e with imm := .signed, ty := true, pr := true, mb := [0, 3] }
  | 28, 2 => some { e with imm := .unsigned, mb := [0, 3] }
  | 28, 3 => some { e with imm := .unsigned, mb := [0, 1, 3] }
  | 28, 7 => some { e with imm := .unsigned }
  | 28, _ => some { e with imm := .signed, mb := [0, 1, 3] }
  | 29, 0 => some { e with md := false, imm := .unsigned, rb := [0, 1] }
  | 29, 1 => some { e with md := false, imm := .unsigned, rb := [0, 1, 2, 3] }
  | 29, 2 => some { e with md := false, imm := .unsigned, rb := [0, 1] }
  | 29, 3 => some { e with imm := .unsigned, ty := true }
  | 29, 4 => some { e with imm := .unsigned, ty := true }
  | 29, 5 => some { e with md := false, imm := .unsigned }
  | 29, 6 => some { e with md := false, t := false, imm := .unsigned }
  | 29, 7 => some { e with md := false, imm := .unsigned, rb := [0, 1] }
  | _, _ => none

/-- The entry of a major and function, none for a reserved slot (Table 3.12). -/
def entryOf (major f : Nat) : Option Entry :=
  if major < 8 then entryScalar major f
  else if major < 11 then entryMem major f
  else if major < 15 then entryVec major f
  else if major < 28 then entryCtl major f
  else entryLong major f

/-- The fields of an instruction: effective numbers of A, B and T (R66, R67), RB, the composed immediate (R70) with the
number of its IMX prefixes, TYPE, PRED and MB (R72) and LA. -/
structure Fields where
  a : Nat
  b : Nat
  t : Nat
  rb : Nat
  imm : Int
  nimx : Nat
  ty : Option ETy
  pr : Nat
  mb : Nat
  la : Nat
  deriving DecidableEq, Repr

/-- Element types by code, none for 15 (Table 1.1). -/
def etyOf : Nat → Option ETy
  | 0 => some .i8 | 1 => some .z8 | 2 => some .i16 | 3 => some .z16 | 4 => some .i32 | 5 => some .z32 | 6 => some .i64
  | 7 => some .f32 | 8 => some .bf16 | 9 => some .f16 | 10 => some .e4m3 | 11 => some .e5m2 | 12 => some .e2m1
  | 13 => some .q4n | 14 => some .e8m0 | _ => none

/-- The code of an element type, 15 for none (Table 1.1). -/
def etyCode : Option ETy → Nat
  | some .i8 => 0 | some .z8 => 1 | some .i16 => 2 | some .z16 => 3 | some .i32 => 4 | some .z32 => 5 | some .i64 => 6
  | some .f32 => 7 | some .bf16 => 8 | some .f16 => 9 | some .e4m3 => 10 | some .e5m2 => 11 | some .e2m1 => 12
  | some .q4n => 13 | some .e8m0 => 14 | none => 15

/-- Rounding modes by code, none for 6 and 7 (Table 1.9). -/
def rmOf : Nat → Option Rm
  | 0 => some .rne | 1 => some .rtz | 2 => some .rdn | 3 => some .rup | 4 => some .rna | 5 => some .sr | _ => none

/-- The code of a rounding mode (Table 1.9). -/
def rmCode : Rm → Nat
  | .rne => 0 | .rtz => 1 | .rdn => 2 | .rup => 3 | .rna => 4 | .sr => 5

/-- Ordering codes (Table 3.4). -/
def ordOf : Nat → Ord
  | 0 => .plain | 1 => .o | 2 => .f | _ => .rel
/-- The code of an ordering (Table 3.4). -/
def ordCode : Ord → Nat
  | .plain => 0 | .o => 1 | .f => 2 | .rel => 3
/-- Fence scopes (Table 3.4). -/
def scopeOf : Nat → Scope
  | 0 => .dom | 1 => .pkg | 2 => .pal | _ => .core
/-- The code of a fence scope (Table 3.4). -/
def scopeCode : Scope → Nat
  | .dom => 0 | .pkg => 1 | .pal => 2 | .core => 3

/-- The composed immediate before sign extension, and its width (R70). -/
def composeImm : List Nat → Nat → Nat → Nat × Nat
  | [], w, acc => (acc, w)
  | p :: ps, w, acc => composeImm ps (w + 9) (acc + p * 2 ^ w)

/-- The value of an immediate (R70). -/
def immValue (k : ImmKind) (w0 base : Nat) (imx : List Nat) : Int :=
  let (u, w) := composeImm imx w0 base
  match k with
  | .signed => if w = 0 then 0 else if u < 2 ^ (w - 1) then (u : Int) else (u : Int) - (2 : Int) ^ w
  | _ => (u : Int)

/-- The fields of a chain under an entry (R65, R66, R67, R71, R72). -/
def Chain.fields (c : Chain) (e : Entry) : Fields :=
  let major := c.base / 2048 % 32
  let rex := c.rex.getD 0
  let md := c.md.getD 480
  let a := rex / 256 % 2 * 16 + (if isFormW major then c.base / 128 % 16 else c.base / 16 % 16)
  let w0 := immW0 major
  { a := a
    b := rex / 128 % 2 * 16 + c.base % 16
    t := if c.rex.isSome then rex / 4 % 32 else if isFormL major then 0 else a
    rb := rex % 4
    imm := immValue e.imm w0 (c.base % 2 ^ w0) c.imx
    nimx := c.imx.length
    ty := etyOf (md / 32 % 16)
    pr := md / 4 % 8
    mb := md % 4
    la := c.base / 16 % 16 }

/-- The word of a chain on which a field breach is blamed: `imx` the first IMX that is not accepted, `imxBits i` the IMX that
holds the bits at fault (R85; log entry 97). -/
inductive Blame where
  | base | rex | md | imx | imxBits (i : Nat)
  deriving DecidableEq, Repr

/-- A register field of a class with `n` members (R66). -/
def regN (n : Nat) (v : Nat) : Except Blame (Fin n) :=
  if h : v < n then .ok ⟨v, h⟩ else .error .base

/-- A base-word field that must be zero (Table 3.13). -/
def zero (v : Nat) : Except Blame Unit := if v = 0 then .ok () else .error .base

/-- A condition on the instruction as a whole. -/
def need (p : Bool) : Except Blame Unit := if p then .ok () else .error .base

/-- The first IMX that holds a bit of an immediate above its low w0 bits (R70). -/
def imxOf (w0 v : Nat) : Nat := ((List.range 3).find? fun i => decide (v / 2 ^ w0 / 512 ^ i % 512 ≠ 0)).getD 0

/-- An unsigned immediate below `n`, a power of two (R70): the bits at fault are those from `n` up. -/
def immN (n : Nat) (v : Int) : Except Blame (Fin n) :=
  if h : v.toNat < n then (if 0 ≤ v then .ok ⟨v.toNat, h⟩ else .error .base)
  else .error (.imxBits (imxOf 0 (v.toNat / n * n)))
/-- A condition on bits that the first IMX holds. -/
def needImx (p : Bool) : Except Blame Unit := if p then .ok () else .error (.imxBits 0)

def Fields.r3 (x : Fields) : Except Blame R3 := do
  let a ← regN 32 x.a
  let t ← regN 32 x.t
  let b ← regN 32 x.b
  pure ⟨a, t, b⟩

def Fields.r2 (x : Fields) : Except Blame R2 := do
  let a ← regN 32 x.a
  let b ← regN 32 x.b
  pure ⟨a, b⟩

def Fields.ri (x : Fields) : Except Blame RI := do
  let a ← regN 32 x.a
  let t ← regN 32 x.t
  pure ⟨a, t, x.imm⟩

def Fields.md (x : Fields) : Except Blame Md := do
  let p ← regN 8 x.pr
  pure ⟨x.ty, p⟩

def Fields.v3 (x : Fields) : Except Blame V3 := do
  let a ← regN 32 x.a
  let t ← regN 32 x.t
  let b ← regN 32 x.b
  let m ← x.md
  pure ⟨a, t, b, m⟩

def Fields.v2 (x : Fields) : Except Blame V2 := do
  let a ← regN 32 x.a
  let b ← regN 32 x.b
  let m ← x.md
  pure ⟨a, b, m⟩

def Fields.maddr (x : Fields) : Except Blame MAddr := do
  let b ← regN 32 x.b
  pure ⟨b, x.imm⟩

/-- The source of LD, ST, VLD and VST: the address form (RB 0) or the stream form (RB 1), which takes no IMX (06 R159). -/
def Fields.msrc (x : Fields) : Except Blame MSrc :=
  if x.rb = 0 then do
    let m ← x.maddr
    pure (.addr m)
  else if x.nimx ≠ 0 then .error .imx
  else do
    let s ← regN 8 x.b
    pure (.strm s)

/-- A number field A of a range `n` (08 R232). -/
def Fields.numA (n : Nat) (x : Fields) : Except Blame (Fin n) := regN n x.a

/-- Builds an ALU instruction with three registers. -/
def b3 (f : R3 → Instr) (x : Fields) : Except Blame Instr := do
  let o ← x.r3
  pure (f o)
def b2 (f : R2 → Instr) (x : Fields) : Except Blame Instr := do
  let o ← x.r2
  pure (f o)
def bi (f : RI → Instr) (x : Fields) : Except Blame Instr := do
  let o ← x.ri
  pure (f o)
/-- A shift by an immediate of at most 63 (04 R102). -/
def bsh (f : RI → Instr) (x : Fields) : Except Blame Instr := do
  let o ← x.ri
  if o.imm ≤ 63 then pure (f o) else .error (.imxBits (imxOf 4 (o.imm.toNat / 64 * 64)))
def bv3 (f : V3 → Instr) (x : Fields) : Except Blame Instr := do
  let o ← x.v3
  pure (f o)
def bv3m (f : V3 → Bool → Instr) (x : Fields) : Except Blame Instr := do
  let o ← x.v3
  pure (f o (decide (x.mb = 1)))
def bv2 (f : V2 → Instr) (x : Fields) : Except Blame Instr := do
  let o ← x.v2
  pure (f o)
def bv2m (f : V2 → Bool → Instr) (x : Fields) : Except Blame Instr := do
  let o ← x.v2
  pure (f o (decide (x.mb = 1)))
/-- A load or store with its two forms. -/
def bls (f : Reg → MSrc → Instr) (x : Fields) : Except Blame Instr := do
  let a ← regN 32 x.a
  let m ← x.msrc
  pure (f a m)
def bma (f : Reg → MAddr → Instr) (x : Fields) : Except Blame Instr := do
  let a ← regN 32 x.a
  let m ← x.maddr
  pure (f a m)
/-- A vector access with a third register field. -/
def bvt (f : Reg → MAddr → Reg → Md → Instr) (x : Fields) : Except Blame Instr := do
  let a ← regN 32 x.a
  let m ← x.maddr
  let t ← regN 32 x.t
  let d ← x.md
  pure (f a m t d)
def bbr (f : Reg → Reg → Int → Instr) (x : Fields) : Except Blame Instr := do
  let a ← regN 32 x.a
  let b ← regN 32 x.b
  pure (f a b x.imm)

/-- The rounding field of VCVT and VRND: RM in the low three bits, RMEN above; RM 6 and 7 are illegal, and RM must be 0
when RMEN is 0 (05 R123). The first IMX holds it. -/
def rmField (v : Nat) : Except Blame (Option Rm) :=
  if v / 8 % 2 = 0 then (if v % 8 = 0 then .ok none else .error (.imxBits 0))
  else match rmOf (v % 8) with
    | some r => .ok (some r)
    | none => .error (.imxBits 0)

def buildSys (f : Nat) (x : Fields) : Except Blame Instr :=
  let c := BitVec.ofNat 8 (x.a % 16 * 16 + x.b % 16)
  match f with
  | 0 => do zero x.a; zero x.b; pure .nop
  | 1 => do zero x.a; zero x.b; pure .halt
  | 2 => do zero x.a; zero x.b; pure .yield
  | 3 => do zero x.a; zero x.b; pure .eret
  | 4 => pure (.trap c)
  | 5 => pure (.sysc c)
  | 6 => do
    zero x.b
    let a ← regN 32 x.a
    pure (.time a)
  | _ => pure (.brk c)

def buildAlu (major f : Nat) (x : Fields) : Except Blame Instr :=
  match major, f with
  | 1, 0 => b3 .add x | 1, 1 => b3 .sub x | 1, 2 => b3 .and x | 1, 3 => b3 .or x
  | 1, 4 => b3 .xor x | 1, 5 => b3 .andn x | 1, 6 => b2 .mov x | 1, _ => b2 .neg x
  | 2, 0 => b3 .sll x | 2, 1 => b3 .srl x | 2, 2 => b3 .sra x | 2, 3 => b3 .rol x
  | 2, 4 => b2 .clz x | 2, 5 => b2 .ctz x | 2, 6 => b2 .pop x | 2, _ => b2 .bswap x
  | 3, 0 => b3 .mul x | 3, 1 => b3 .mulh x | 3, 2 => b3 .mulhu x | 3, 3 => b3 .mulhsu x
  | 3, 4 => b3 .div x | 3, 5 => b3 .divu x | 3, 6 => b3 .rem x | 3, _ => b3 .remu x
  | 4, 0 => b3 .min x | 4, 1 => b3 .max x | 4, 2 => b3 .minu x | 4, 3 => b3 .maxu x
  | 4, 4 => b3 .slt x | 4, 5 => b3 .sltu x | 4, 6 => b3 .seq x | 4, _ => b3 .sne x
  | 5, 0 => bi .addi x | 5, 1 => bi .andi x | 5, 2 => bi .ori x | 5, 3 => bi .xori x
  | 5, 4 => bsh .slli x | 5, 5 => bsh .srli x | 5, 6 => bsh .srai x | 5, _ => bi .slti x
  | _, _ => .error .base

def buildExt (f : Nat) (x : Fields) : Except Blame Instr :=
  match f with
  | 0 => do
    let o ← x.r2
    let n ← regN 3 x.rb
    pure (.sext o n)
  | 1 => do
    let o ← x.r2
    let n ← regN 3 x.rb
    pure (.zext o n)
  | 2 => b3 .csel x
  | 3 => do
    let o ← x.r3
    let s ← regN 4 x.rb
    pure (.lea o s x.imm)
  | 4 => b3 .fla x
  | 5 => do
    let o ← x.r2
    let v ← immN 8192 x.imm
    let p ← regN 64 (v.val % 64)
    let l ← regN 64 (v.val / 64 % 64)
    need (decide (p.val + l.val + 1 ≤ 64))
    pure (.bfx o p l (decide (v.val / 4096 = 1)))
  | 6 => do
    let o ← x.r2
    let v ← immN 4096 x.imm
    let p ← regN 64 (v.val % 64)
    let l ← regN 64 (v.val / 64 % 64)
    need (decide (p.val + l.val + 1 ≤ 64))
    pure (.bfi o p l)
  | _ => b2 .abs x

def buildCsr (f : Nat) (x : Fields) : Except Blame Instr :=
  match f with
  | 0 => do
    zero x.b
    let a ← regN 32 x.a
    let n ← immN 512 x.imm
    pure (.csrr a n)
  | 1 => do
    zero x.a
    let n ← immN 512 x.imm
    let b ← regN 32 x.b
    pure (.csrw n b)
  | _ => do
    let a ← regN 32 x.a
    let n ← immN 512 x.imm
    let b ← regN 32 x.b
    if f = 2 then pure (.csrs a n b) else if f = 3 then pure (.csrc a n b) else pure (.csrx a n b)

def buildMem (major f : Nat) (x : Fields) : Except Blame Instr :=
  match major, f with
  | 8, 0 => bls .ldb x | 8, 1 => bls .ldbu x | 8, 2 => bls .ldh x | 8, 3 => bls .ldhu x
  | 8, 4 => bls .ldw x | 8, 5 => bls .ldwu x
  | 8, 6 =>
    if x.rb = 2 then
      if x.nimx ≠ 0 then .error .imx
      else do
        need (decide (x.b = 6))
        let a ← regN 32 x.a
        pure (.lddForward a)
    else bls .ldd x
  | 8, _ => bma .lda x
  | 9, 0 => bls .stb x | 9, 1 => bls .sth x | 9, 2 => bls .stw x | 9, 3 => bls .std x
  | 9, 4 => bma .stl x
  | 9, _ => do
    zero x.a
    let m ← x.maddr
    pure (.zln m)
  | 10, 0 => do
    let a ← regN 32 x.a
    let m ← x.msrc
    let d ← x.md
    pure (.vld a m d)
  | 10, 1 => do
    let a ← regN 32 x.a
    let m ← x.msrc
    let d ← x.md
    pure (.vst a m d)
  | 10, 2 => do
    let a ← regN 32 x.a
    let m ← x.maddr
    let d ← x.md
    pure (.vldb a m d)
  | 10, 3 => bvt .vlds x | 10, 4 => bvt .vsts x | 10, 5 => bvt .vgath x | 10, 6 => bvt .vscat x
  | 10, _ => do
    let a ← regN 32 x.a
    let m ← x.maddr
    let d ← x.md
    pure (.vstc a m d)
  | _, _ => .error .base

def buildVec1 (major f : Nat) (x : Fields) : Except Blame Instr :=
  match major, f with
  | 11, 0 => bv3m .vadd x | 11, 1 => bv3m .vsub x | 11, 2 => bv3m .vmul x | 11, 3 => bv3 .vfma x
  | 11, 4 => bv3 .vfms x | 11, 5 => bv3 .vmin x | 11, 6 => bv3 .vmax x | 11, _ => bv3 .vsel x
  | 12, 0 => bv3 .vand x | 12, 1 => bv3 .vor x | 12, 2 => bv3 .vxor x | 12, 3 => bv3 .vshl x
  | 12, 4 => bv3 .vshr x | 12, 5 => bv2m .vabs x | 12, 6 => bv2m .vneg x
  | 12, _ => do
    let a ← regN 8 x.a
    let t ← regN 32 x.t
    let b ← regN 32 x.b
    let d ← x.md
    let c ← immN 8 x.imm
    pure (.vcmp a t b d c)
  | _, _ => .error .base

def buildVec2 (f : Nat) (x : Fields) : Except Blame Instr :=
  match f with
  | 0 => do
    let o ← x.v2
    let op ← regN 3 x.mb
    pure (.vred o op)
  | 1 => bv2 .vbcast x
  | 2 => bv3 .vperm x
  | 3 => do
    let o ← x.r2
    let i ← immN 512 x.imm
    pure (.vext o.a o.b x.ty i)
  | 4 => do
    let o ← x.r2
    let i ← immN 512 x.imm
    pure (.vins o.a o.b x.ty i)
  | 5 => do
    let o ← x.v2
    let v ← immN 2048 x.imm
    let dt ← regN 16 (v.val % 16)
    let rm ← rmField (v.val / 16 % 16)
    let part ← regN 8 (v.val / 256)
    pure (.vcvt o dt rm part)
  | 6 => do
    let o ← x.v2
    let v ← immN 256 x.imm
    needImx (decide (v.val % 16 = 0))
    let rm ← rmField (v.val / 16)
    pure (.vrnd o rm)
  | _ => do
    let o ← x.v2
    let v ← immN 512 x.imm
    pure (.vclass o (BitVec.ofNat 9 v.val))

def buildVec3 (f : Nat) (hasRex : Bool) (x : Fields) : Except Blame Instr :=
  match f with
  | 0 => bv2 .vrecip x | 1 => bv2 .vrsqrt x | 2 => bv2 .vexp2 x | 3 => bv2 .vlog2 x
  | 4 => bv3 .vscale x | 5 => bv3 .vdot x | 6 => bv2 .vbmax x
  | _ => do
    let op ← immN 8 x.imm
    let pr ← regN 8 x.pr
    let un : Except Blame Unit := if hasRex && decide (x.t ≠ 0) then .error .rex else .ok ()
    match op.val with
    | 0 => do un; let a ← regN 8 x.a; let b ← regN 8 x.b; pure (.vpmov (.mov a b) pr)
    | 5 => do un; let a ← regN 8 x.a; let b ← regN 8 x.b; pure (.vpmov (.not a b) pr)
    | 6 => do un; let a ← regN 8 x.a; let b ← regN 32 x.b; pure (.vpmov (.fromx a b) pr)
    | 7 => do
      un
      if pr.val ≠ 0 then .error .md
      else do let a ← regN 32 x.a; let b ← regN 8 x.b; pure (.vpmov (.tox a b) pr)
    | n => do
      let a ← regN 8 x.a
      let t ← regN 8 x.t
      let b ← regN 8 x.b
      pure (.vpmov (if n = 1 then .and a t b else if n = 2 then .or a t b else if n = 3 then .xor a t b else .andn a t b) pr)

def buildStream (f : Nat) (x : Fields) : Except Blame Instr :=
  match f with
  | 0 => do
    let s ← regN 8 x.a
    let m ← x.maddr
    pure (.sbind s m)
  | 1 => do
    let s ← regN 8 x.a
    zero x.b
    pure (.sunbind s)
  | 2 => do
    let a ← regN 32 x.a
    let s ← regN 8 x.b
    pure (.sstat a s)
  | 3 => do
    let s ← regN 8 x.a
    let b ← regN 32 x.b
    pure (.sskip s b)
  | 4 => do
    zero x.a
    let n ← regN 2 x.b
    pure (.slink (decide (n.val = 1)))
  | 5 => do
    let a ← regN 32 x.a
    zero x.b
    pure (.recv a)
  | 6 => do
    let a ← regN 32 x.a
    zero x.b
    pure (.peek a)
  | _ => do zero x.a; zero x.b; pure .waitmsg

def buildCtl (major f : Nat) (x : Fields) : Except Blame Instr :=
  match major, f with
  | 16, _ => do let a ← regN 32 x.a; pure (.li a x.imm)
  | 17, _ => do let a ← regN 32 x.a; pure (.beqz a x.imm)
  | 18, _ => do let a ← regN 32 x.a; pure (.bnez a x.imm)
  | 19, _ => do let a ← regN 32 x.a; pure (.loop a x.imm.toNat)
  | 20, 0 => bbr .beq x | 20, 1 => bbr .bne x | 20, 2 => bbr .blt x | 20, 3 => bbr .bge x
  | 20, 4 => bbr .bltu x | 20, 5 => bbr .bgeu x
  | 21, 0 => bbr .jalr x
  | 21, 1 => do zero x.a; let b ← regN 32 x.b; pure (.ret b)
  | 21, 2 => do zero x.a; let b ← regN 32 x.b; pure (.jf b x.imm)
  | 21, 3 => bbr .callf x
  | 24, _ => pure (.j x.imm)
  | 25, _ => pure (.jal x.imm)
  | _, _ => .error .base

def buildMsg (f : Nat) (x : Fields) : Except Blame Instr :=
  match f with
  | 0 => do let o ← x.r3; pure (.send o (ordOf x.mb))
  | 1 => do let o ← x.r3; pure (.sendq o (ordOf x.mb))
  | 2 => do
    let o ← x.r2
    let s ← immN 512 x.imm
    pure (.sendt o.a o.b s)
  | 3 => do
    let a ← regN 32 x.a
    let m ← x.maddr
    let z ← regN 4 x.rb
    pure (.fst a m z (ordOf x.mb))
  | 4 => do
    let a ← regN 32 x.a
    let m ← x.maddr
    pure (.fstb a m (decide (x.rb = 1)) (ordOf x.mb))
  | 5 => do
    let a ← regN 32 x.a
    let m ← x.maddr
    let t ← regN 32 x.t
    let d ← x.md
    pure (.mcst a m t d (ordOf x.mb))
  | 6 => do
    let a ← regN 32 x.a
    let m ← x.maddr
    let t ← regN 32 x.t
    let op ← regN 3 x.rb
    let d ← x.md
    pure (.rdst a m t op d (ordOf x.mb))
  | _ => .error .base

def buildSync (f : Nat) (x : Fields) : Except Blame Instr :=
  match f with
  | 0 => do
    let n ← x.numA 4
    let g ← regN 8 x.b
    pure (.bar n g (decide (x.rb = 1)))
  | 1 => do
    zero x.a
    let g ← regN 8 x.b
    pure (.wait g)
  | 2 => do
    zero x.b
    let a ← regN 32 x.a
    let m ← immN 256 x.imm
    pure (.waitany a (BitVec.ofNat 8 m.val))
  | 3 => do
    let g ← regN 8 x.a
    let b ← regN 32 x.b
    pure (.pegset g b x.imm.toNat)
  | 4 => do
    let g ← regN 8 x.a
    let b ← regN 32 x.b
    pure (.pegadd g b x.imm)
  | 5 => do zero x.a; zero x.b; pure (.fence (scopeOf x.mb))
  | 6 => do zero x.a; zero x.b; pure (.fencea (scopeOf x.mb))
  | _ => do
    let n ← x.numA 4
    let b ← regN 32 x.b
    need (decide (b.val ≤ 30))
    pure (.domset n b)

def buildTxr (f : Nat) (x : Fields) : Except Blame Instr :=
  match f with
  | 0 => do zero x.a; let b ← regN 32 x.b; pure (.tsub b)
  | 1 => do let o ← x.r2; pure (.tdecl o.a o.b (decide (x.rb = 1)))
  | 2 => do let o ← x.r2; pure (.trecon o.a o.b)
  | 3 => do zero x.a; zero x.b; pure .tend
  | 4 => do zero x.a; zero x.b; pure (.rbeg x.imm (decide (x.rb = 1)))
  | 5 => do
    let k ← x.numA 4
    let b ← regN 32 x.b
    pure (.rprs k b)
  | 6 => do zero x.a; zero x.b; pure .rend
  | _ => do zero x.a; zero x.b; pure .rxit

def buildDbg (f : Nat) (x : Fields) : Except Blame Instr :=
  match f with
  | 0 => do zero x.a; let b ← regN 32 x.b; pure (.lpush b x.imm.toNat)
  | 1 => do zero x.a; zero x.b; pure .lpop
  | 2 => do zero x.b; let a ← regN 32 x.a; pure (.uwmark a)
  | 3 => do zero x.a; let b ← regN 32 x.b; pure (.chkpt b)
  | 4 => do
    let k ← x.numA 4
    let b ← regN 32 x.b
    pure (.faultinj k b)
  | _ => .error .base

def buildLlm (f : Nat) (x : Fields) : Except Blame Instr := do
  let la ← regN 16 x.la
  match f with
  | 0 => do
    let t ← regN 32 x.t
    let m ← x.maddr
    let z ← regN 4 x.rb
    pure (.fld t m z (decide (x.mb = 3)) la)
  | 1 => do
    let t ← regN 32 x.t
    let m ← x.maddr
    let d ← x.md
    pure (.fldv t m d (decide (x.mb = 3)) la)
  | 2 => do
    let t ← regN 32 x.t
    let b ← regN 32 x.b
    let v ← immN 32 x.imm
    needImx (decide (v.val % 16 < 11))
    let op ← regN 11 (v.val % 16)
    needImx (decide (op.val = 10 → v.val / 16 = 1))
    need (decide (op.val = 9 → 1 ≤ t.val ∧ t.val ≤ 30))
    pure (.amo t b op (decide (v.val / 16 = 1)) (decide (x.mb = 3)) la)
  | 3 => do
    let t ← regN 32 x.t
    let b ← regN 32 x.b
    let v ← immN 32 x.imm
    needImx (decide (v.val % 16 < 11))
    let op ← regN 11 (v.val % 16)
    needImx (decide (op.val = 10 → v.val / 16 = 1))
    need (decide (op.val = 9 → 1 ≤ t.val ∧ t.val ≤ 30))
    pure (.amoq t b op (decide (v.val / 16 = 1)) (ordOf x.mb) la)
  | 7 => do
    let g ← regN 8 x.t
    let b ← regN 32 x.b
    let s ← immN 4 x.imm
    pure (.cfetch g b s la)
  | n => do
    let g ← regN 8 x.t
    let m ← x.maddr
    pure (if n = 4 then .copy g m (ordOf x.mb) la else if n = 5 then .copysp g m (ordOf x.mb) la
      else .copyq g m (ordOf x.mb) la)

/-- The shared fields of a kiln command (07 R217): `hi` is the highest first register that the entry allows. -/
def Fields.kop (x : Fields) (hi : Nat) : Except Blame KOp := do
  let t ← regN 4 x.t
  let b ← regN 32 x.b
  need (decide (b.val ≤ hi))
  let v ← immN 512 x.imm
  let p ← regN 8 (v.val / 32 % 8)
  let s ← regN 32 (v.val % 32)
  let la ← regN 16 x.la
  pure ⟨t, b, p, decide (v.val / 256 = 1), s, la⟩

def buildLlk (f : Nat) (x : Fields) : Except Blame Instr :=
  match f with
  | 0 => do let k ← x.kop 28; pure (.kmma k (decide (x.rb = 1)))
  | 1 => do let k ← x.kop 30; let s ← regN 4 x.rb; pure (.kmmac k s)
  | 2 => do let k ← x.kop 29; pure (.kspmma k (decide (x.rb = 1)))
  | 3 => do let k ← x.kop 30; pure (.klda k x.ty)
  | 4 => do let k ← x.kop 30; pure (.ksta k x.ty)
  | 5 => do let k ← x.kop 0; pure (.kzero k)
  | 6 => do
    let b ← regN 32 x.b
    need (decide (b.val ≤ 29))
    let _ ← immN 1 x.imm
    let la ← regN 16 x.la
    pure (.kcfg b la)
  | _ => do
    zero x.b
    let t ← regN 32 x.t
    let _ ← immN 1 x.imm
    let la ← regN 16 x.la
    pure (.kres t (decide (x.rb = 1)) la)

/-- The instruction of a major and function with its fields, or the word on which a breach is blamed. -/
def build (major f : Nat) (hasRex : Bool) (x : Fields) : Except Blame Instr :=
  match major with
  | 0 => buildSys f x
  | 1 => buildAlu 1 f x | 2 => buildAlu 2 f x | 3 => buildAlu 3 f x | 4 => buildAlu 4 f x | 5 => buildAlu 5 f x
  | 6 => buildExt f x
  | 7 => buildCsr f x
  | 8 => buildMem 8 f x | 9 => buildMem 9 f x | 10 => buildMem 10 f x
  | 11 => buildVec1 11 f x | 12 => buildVec1 12 f x
  | 13 => buildVec2 f x
  | 14 => buildVec3 f hasRex x
  | 15 => buildStream f x
  | 22 => buildMsg f x
  | 23 => buildSync f x
  | 26 => buildTxr f x
  | 27 => buildDbg f x
  | 28 => buildLlm f x
  | 29 => buildLlk f x
  | n => buildCtl n f x

/-- The first word of kind `k` among the prefix words, with its position. -/
def findExt (k : Nat) : List Nat → Nat → Nat × Nat
  | [], n => (0, n)
  | w :: ws, n => if w / 2048 % 32 = 31 ∧ w / 512 % 4 = k then (w, n) else findExt k ws (n + 1)

/-- The `n`th IMX word, counted from 0, with its position. -/
def findImx : Nat → List Nat → Nat → Nat × Nat
  | _, [], p => (0, p)
  | n, w :: ws, p =>
    if w / 2048 % 32 = 31 ∧ w / 512 % 4 = 0 then
      match n with
      | 0 => (w, p)
      | n + 1 => findImx n ws (p + 1)
    else findImx n ws (p + 1)

/-- A breach at the word that `findExt` or `findImx` gives. -/
def illegalAt (b : Breach) (wp : Nat × Nat) : Illegal := ⟨b, wp.1, wp.2⟩

/-- Step 2 of Table 3.14 on a parsed chain: prefix acceptance, then fields of the prefixes, then the base word's fields,
classes, immediate and type. -/
def elabChain (ws : List Nat) (c : Chain) (n : Nat) : Except Illegal Instr :=
  let major := c.base / 2048 % 32
  let f := if isFormW major || isFormJ major then 0 else c.base / 256 % 8
  match entryOf major f with
  | none => .error ⟨.opcode, c.base, n⟩
  | some e =>
    let cap := if e.imm = .none then 0 else e.maxImx
    let x := c.fields e
    if cap < c.imx.length then .error (illegalAt .unaccepted (findImx cap ws 0))
    else if e.two && decide (c.imx.length = 1) then .error (illegalAt .unaccepted (findImx 0 ws 0))
    else if c.rex.isSome && !e.rex then .error (illegalAt .unaccepted (findExt 1 ws 0))
    else if c.md.isSome && !e.md then .error (illegalAt .unaccepted (findExt 3 ws 0))
    else
      let rex := c.rex.getD 0
      if (rex / 256 % 2 ≠ 0 && !e.ha) || (rex / 128 % 2 ≠ 0 && !e.hb) || (rex / 4 % 32 ≠ 0 && !e.t) || !e.rb.contains x.rb then
        .error (illegalAt .extField (findExt 1 ws 0))
      else if (x.ty.isSome && !e.ty) || (x.pr ≠ 0 && !e.pr) || !e.mb.contains x.mb then
        .error (illegalAt .extField (findExt 3 ws 0))
      else
        match build major f c.rex.isSome x with
        | .ok i => .ok i
        | .error .base => .error ⟨.baseField, c.base, n⟩
        | .error .rex => .error (illegalAt .extField (findExt 1 ws 0))
        | .error .md => .error (illegalAt .extField (findExt 3 ws 0))
        | .error .imx => .error (illegalAt .unaccepted (findExt 0 ws 0))
        | .error (.imxBits j) => .error (illegalAt .extField (findImx j ws 0))

/-- Decodes the instruction at the head of a list of words: the instruction and its number of words (R63). -/
def decode (ws : List Nat) : Except Illegal (Instr × Nat) :=
  match parseChain ws 0 .start with
  | .error e => .error e
  | .ok (c, n) =>
    match elabChain ws c n with
    | .error e => .error e
    | .ok i => .ok (i, n + 1)

/-! ### The encoder (R89: the fewest words) -/

/-- What is to be laid out: the IMX payloads, the REX and MOD payloads, the base word. -/
structure Enc where
  imx : List Nat
  rex : Option Nat
  md : Option Nat
  base : Nat
  deriving DecidableEq, Repr

/-- The words of an `Enc`, in the order IMX, REX, MOD, base (R89). -/
def Enc.words (e : Enc) : List Nat :=
  e.imx.map (63488 + ·) ++ e.rex.toList.map (64000 + ·) ++ e.md.toList.map (65024 + ·) ++ [e.base]

/-- The nine-bit chunks of a pattern above its base bits. -/
def chunks : Nat → Nat → List Nat
  | 0, _ => []
  | k + 1, u => u % 512 :: chunks k (u / 512)

/-- Base bits and IMX payloads of a signed immediate. -/
def immS (w0 : Nat) (v : Int) : Nat × List Nat :=
  let k := imxCountS w0 v
  let u := (v % (2 : Int) ^ (w0 + 9 * k)).toNat
  (u % 2 ^ w0, chunks k (u / 2 ^ w0))

/-- Base bits and IMX payloads of an unsigned immediate. -/
def immU (w0 : Nat) (v : Nat) : Nat × List Nat :=
  (v % 2 ^ w0, chunks (imxCountU w0 v) (v / 2 ^ w0))

/-- The REX payload. -/
def rexOf (a b t rb : Nat) : Nat := a / 16 * 256 + b / 16 * 128 + t * 4 + rb

/-- A MOD payload, none when it would say nothing (R89). -/
def mdOf (ty : Option ETy) (pr mb : Nat) : Option Nat :=
  if ty = none ∧ pr = 0 ∧ mb = 0 then none else some (etyCode ty * 32 + pr * 4 + mb)

/-- A form-S base word. -/
def sWord (major f a b : Nat) : Nat := major * 2048 + f * 256 + a % 16 * 16 + b % 16

/-- Form S with three registers: REX when T differs from A, a number exceeds 15, or RB is not zero (R89). -/
def encS3 (major f a t b rb : Nat) (imx : List Nat) (md : Option Nat) : Enc :=
  ⟨imx, if a < 16 ∧ b < 16 ∧ t = a ∧ rb = 0 then none else some (rexOf a b t rb), md, sWord major f a b⟩

/-- Form S with two registers: T is 0 when REX is present. -/
def encS2 (major f a b rb : Nat) (imx : List Nat) (md : Option Nat) : Enc :=
  ⟨imx, if a < 16 ∧ b < 16 ∧ rb = 0 then none else some (rexOf a b 0 rb), md, sWord major f a b⟩

/-- Form W. -/
def encW (major a lo : Nat) (imx : List Nat) : Enc :=
  ⟨imx, if a < 16 then none else some (rexOf a 0 0 0), none, major * 2048 + a % 16 * 128 + lo⟩

/-- Form L: T is 0 without REX. -/
def encL (major f la t b rb : Nat) (imx : List Nat) (md : Option Nat) : Enc :=
  ⟨imx, if b < 16 ∧ t = 0 ∧ rb = 0 then none else some (rexOf 0 b t rb), md, sWord major f la b⟩

def encR3 (major f : Nat) (o : R3) : Enc := encS3 major f o.a o.t o.b 0 [] none
def encR2 (major f : Nat) (o : R2) : Enc := encS2 major f o.a o.b 0 [] none
/-- Major 5: base bits of the immediate in field B. -/
def encRI (f : Nat) (o : RI) (im : Nat × List Nat) : Enc :=
  ⟨im.2, if o.a.val < 16 ∧ o.t = o.a then none else some (rexOf o.a 0 o.t 0), none, sWord 5 f o.a im.1⟩
def encV3 (major f : Nat) (o : V3) (mb : Nat) : Enc := encS3 major f o.a o.t o.b 0 [] (mdOf o.md.ty o.md.pr mb)
def encV2 (major f : Nat) (o : V2) (mb : Nat) (imx : List Nat) : Enc := encS2 major f o.a o.b 0 imx (mdOf o.md.ty o.md.pr mb)
/-- LD, ST, VLD and VST in either form (06 R159). -/
def encLS (major f : Nat) (a : Reg) (m : MSrc) (md : Option Nat) : Enc :=
  match m with
  | .addr m => encS2 major f a m.b 0 (immS 0 m.off).2 md
  | .strm s => encS2 major f a s 1 [] md
def encMA (major f : Nat) (a : Nat) (m : MAddr) (rb : Nat) (md : Option Nat) : Enc :=
  encS2 major f a m.b rb (immS 0 m.off).2 md
def encVT (f : Nat) (a : Reg) (m : MAddr) (t : Reg) (md : Md) : Enc :=
  encS3 10 f a t m.b 0 (immS 0 m.off).2 (mdOf md.ty md.pr 0)
def encBr (major f : Nat) (a b : Nat) (off : Int) : Enc := encS2 major f a b 0 (immS 0 off).2 none
def encK (f : Nat) (k : KOp) (rb : Nat) (md : Option Nat) : Enc :=
  encL 29 f k.la k.t k.b rb (immU 0 (k.shape + k.peg * 32 + (if k.pegen then 256 else 0))).2 md
def encRm : Option Rm → Nat
  | none => 0
  | some r => rmCode r + 8
def encB : Bool → Nat
  | true => 1
  | false => 0

/-- The layout of an instruction, none for an event (an event has no words). -/
def enc : Instr → Option Enc
  | .nop => some ⟨[], none, none, 0⟩
  | .halt => some ⟨[], none, none, 256⟩
  | .yield => some ⟨[], none, none, 512⟩
  | .eret => some ⟨[], none, none, 768⟩
  | .trap c => some ⟨[], none, none, 1024 + c.toNat⟩
  | .sysc c => some ⟨[], none, none, 1280 + c.toNat⟩
  | .time a => some (encS2 0 6 a 0 0 [] none)
  | .brk c => some ⟨[], none, none, 1792 + c.toNat⟩
  | .add o => some (encR3 1 0 o) | .sub o => some (encR3 1 1 o) | .and o => some (encR3 1 2 o)
  | .or o => some (encR3 1 3 o) | .xor o => some (encR3 1 4 o) | .andn o => some (encR3 1 5 o)
  | .mov o => some (encR2 1 6 o) | .neg o => some (encR2 1 7 o)
  | .sll o => some (encR3 2 0 o) | .srl o => some (encR3 2 1 o) | .sra o => some (encR3 2 2 o)
  | .rol o => some (encR3 2 3 o) | .clz o => some (encR2 2 4 o) | .ctz o => some (encR2 2 5 o)
  | .pop o => some (encR2 2 6 o) | .bswap o => some (encR2 2 7 o)
  | .mul o => some (encR3 3 0 o) | .mulh o => some (encR3 3 1 o) | .mulhu o => some (encR3 3 2 o)
  | .mulhsu o => some (encR3 3 3 o) | .div o => some (encR3 3 4 o) | .divu o => some (encR3 3 5 o)
  | .rem o => some (encR3 3 6 o) | .remu o => some (encR3 3 7 o)
  | .min o => some (encR3 4 0 o) | .max o => some (encR3 4 1 o) | .minu o => some (encR3 4 2 o)
  | .maxu o => some (encR3 4 3 o) | .slt o => some (encR3 4 4 o) | .sltu o => some (encR3 4 5 o)
  | .seq o => some (encR3 4 6 o) | .sne o => some (encR3 4 7 o)
  | .addi o => some (encRI 0 o (immS 4 o.imm)) | .andi o => some (encRI 1 o (immS 4 o.imm))
  | .ori o => some (encRI 2 o (immS 4 o.imm)) | .xori o => some (encRI 3 o (immS 4 o.imm))
  | .slli o => some (encRI 4 o (immU 4 o.imm.toNat)) | .srli o => some (encRI 5 o (immU 4 o.imm.toNat))
  | .srai o => some (encRI 6 o (immU 4 o.imm.toNat)) | .slti o => some (encRI 7 o (immS 4 o.imm))
  | .sext o n => some (encS2 6 0 o.a o.b n [] none)
  | .zext o n => some (encS2 6 1 o.a o.b n [] none)
  | .csel o => some (encR3 6 2 o)
  | .lea o s v => some (encS3 6 3 o.a o.t o.b s (immS 0 v).2 none)
  | .fla o => some (encR3 6 4 o)
  | .bfx o p l sx => some (encS2 6 5 o.a o.b 0 (chunks 2 (p + l * 64 + encB sx * 4096)) none)
  | .bfi o p l => some (encS2 6 6 o.a o.b 0 (chunks 2 (p + l * 64)) none)
  | .abs o => some (encR2 6 7 o)
  | .csrr a n => some (encS2 7 0 a 0 0 (immU 0 n).2 none)
  | .csrw n b => some (encS2 7 1 0 b 0 (immU 0 n).2 none)
  | .csrs a n b => some (encS2 7 2 a b 0 (immU 0 n).2 none)
  | .csrc a n b => some (encS2 7 3 a b 0 (immU 0 n).2 none)
  | .csrx a n b => some (encS2 7 4 a b 0 (immU 0 n).2 none)
  | .ldb a m => some (encLS 8 0 a m none) | .ldbu a m => some (encLS 8 1 a m none)
  | .ldh a m => some (encLS 8 2 a m none) | .ldhu a m => some (encLS 8 3 a m none)
  | .ldw a m => some (encLS 8 4 a m none) | .ldwu a m => some (encLS 8 5 a m none)
  | .ldd a m => some (encLS 8 6 a m none)
  | .lddForward a => some (encS2 8 6 a 6 2 [] none)
  | .lda a m => some (encMA 8 7 a m 0 none)
  | .stb a m => some (encLS 9 0 a m none) | .sth a m => some (encLS 9 1 a m none)
  | .stw a m => some (encLS 9 2 a m none) | .std a m => some (encLS 9 3 a m none)
  | .stl a m => some (encMA 9 4 a m 0 none)
  | .zln m => some (encMA 9 5 0 m 0 none)
  | .vld a m d => some (encLS 10 0 a m (mdOf d.ty d.pr 0))
  | .vst a m d => some (encLS 10 1 a m (mdOf d.ty d.pr 0))
  | .vldb a m d => some (encMA 10 2 a m 0 (mdOf d.ty d.pr 0))
  | .vlds a m t d => some (encVT 3 a m t d) | .vsts a m t d => some (encVT 4 a m t d)
  | .vgath a m t d => some (encVT 5 a m t d) | .vscat a m t d => some (encVT 6 a m t d)
  | .vstc a m d => some (encMA 10 7 a m 0 (mdOf d.ty d.pr 0))
  | .vadd o m => some (encV3 11 0 o (encB m)) | .vsub o m => some (encV3 11 1 o (encB m))
  | .vmul o m => some (encV3 11 2 o (encB m)) | .vfma o => some (encV3 11 3 o 0)
  | .vfms o => some (encV3 11 4 o 0) | .vmin o => some (encV3 11 5 o 0)
  | .vmax o => some (encV3 11 6 o 0) | .vsel o => some (encV3 11 7 o 0)
  | .vand o => some (encV3 12 0 o 0) | .vor o => some (encV3 12 1 o 0) | .vxor o => some (encV3 12 2 o 0)
  | .vshl o => some (encV3 12 3 o 0) | .vshr o => some (encV3 12 4 o 0)
  | .vabs o m => some (encV2 12 5 o (encB m) []) | .vneg o m => some (encV2 12 6 o (encB m) [])
  | .vcmp a t b d c => some (encS3 12 7 a t b 0 (immU 0 c).2 (mdOf d.ty d.pr 0))
  | .vred o op => some (encV2 13 0 o op [])
  | .vbcast o => some (encV2 13 1 o 0 [])
  | .vperm o => some (encV3 13 2 o 0)
  | .vext a b ty i => some (encS2 13 3 a b 0 (immU 0 i).2 (mdOf ty 0 0))
  | .vins a b ty i => some (encS2 13 4 a b 0 (immU 0 i).2 (mdOf ty 0 0))
  | .vcvt o dt rm p => some (encV2 13 5 o 0 (immU 0 (dt + encRm rm * 16 + p * 256)).2)
  | .vrnd o rm => some (encV2 13 6 o 0 (immU 0 (encRm rm * 16)).2)
  | .vclass o k => some (encV2 13 7 o 0 (immU 0 k.toNat).2)
  | .vrecip o => some (encV2 14 0 o 0 []) | .vrsqrt o => some (encV2 14 1 o 0 [])
  | .vexp2 o => some (encV2 14 2 o 0 []) | .vlog2 o => some (encV2 14 3 o 0 [])
  | .vscale o => some (encV3 14 4 o 0) | .vdot o => some (encV3 14 5 o 0)
  | .vbmax o => some (encV2 14 6 o 0 [])
  | .vpmov op p =>
    match op with
    | .mov a b => some (encS2 14 7 a b 0 [] (mdOf none p 0))
    | .and a t b => some (encS3 14 7 a t b 0 [1] (mdOf none p 0))
    | .or a t b => some (encS3 14 7 a t b 0 [2] (mdOf none p 0))
    | .xor a t b => some (encS3 14 7 a t b 0 [3] (mdOf none p 0))
    | .andn a t b => some (encS3 14 7 a t b 0 [4] (mdOf none p 0))
    | .not a b => some (encS2 14 7 a b 0 [5] (mdOf none p 0))
    | .fromx a b => some (encS2 14 7 a b 0 [6] (mdOf none p 0))
    | .tox a b => some (encS2 14 7 a b 0 [7] (mdOf none p 0))
  | .sbind s m => some (encMA 15 0 s m 0 none)
  | .sunbind s => some (encS2 15 1 s 0 0 [] none)
  | .sstat a s => some (encS2 15 2 a s 0 [] none)
  | .sskip s b => some (encS2 15 3 s b 0 [] none)
  | .slink on => some ⟨[], none, none, 31744 + encB on⟩
  | .recv a => some (encS2 15 5 a 0 0 [] none)
  | .peek a => some (encS2 15 6 a 0 0 [] none)
  | .waitmsg => some ⟨[], none, none, 32512⟩
  | .li a v => some (encW 16 a (immS 7 v).1 (immS 7 v).2)
  | .beqz a v => some (encW 17 a (immS 7 v).1 (immS 7 v).2)
  | .bnez a v => some (encW 18 a (immS 7 v).1 (immS 7 v).2)
  | .loop a n => some (encW 19 a (immU 7 n).1 (immU 7 n).2)
  | .beq a b v => some (encBr 20 0 a b v) | .bne a b v => some (encBr 20 1 a b v)
  | .blt a b v => some (encBr 20 2 a b v) | .bge a b v => some (encBr 20 3 a b v)
  | .bltu a b v => some (encBr 20 4 a b v) | .bgeu a b v => some (encBr 20 5 a b v)
  | .jalr a b v => some (encBr 21 0 a b v)
  | .ret b => some (encBr 21 1 0 b 0)
  | .jf b v => some (encBr 21 2 0 b v)
  | .callf a b v => some (encBr 21 3 a b v)
  | .send o mb => some (encS3 22 0 o.a o.t o.b 0 [] (mdOf none 0 (ordCode mb)))
  | .sendq o mb => some (encS3 22 1 o.a o.t o.b 0 [] (mdOf none 0 (ordCode mb)))
  | .sendt a b s => some (encS2 22 2 a b 0 (immU 0 s).2 none)
  | .fst a m z mb => some (encMA 22 3 a m z (mdOf none 0 (ordCode mb)))
  | .fstb a m hi mb => some (encMA 22 4 a m (encB hi) (mdOf none 0 (ordCode mb)))
  | .mcst a m t d mb => some (encS3 22 5 a t m.b 0 (immS 0 m.off).2 (mdOf d.ty d.pr (ordCode mb)))
  | .rdst a m t op d mb => some (encS3 22 6 a t m.b op (immS 0 m.off).2 (mdOf d.ty d.pr (ordCode mb)))
  | .bar n g ss => some (encS2 23 0 n g (encB ss) [] none)
  | .wait g => some (encS2 23 1 0 g 0 [] none)
  | .waitany a k => some (encS2 23 2 a 0 0 (immU 0 k.toNat).2 none)
  | .pegset g b v => some (encS2 23 3 g b 0 (immU 0 v).2 none)
  | .pegadd g b v => some (encS2 23 4 g b 0 (immS 0 v).2 none)
  | .fence sc => some ⟨[], none, mdOf none 0 (scopeCode sc), 48384⟩
  | .fencea sc => some ⟨[], none, mdOf none 0 (scopeCode sc), 48640⟩
  | .domset n b => some (encS2 23 7 n b 0 [] none)
  | .j v => some ⟨(immS 11 v).2, none, none, 49152 + (immS 11 v).1⟩
  | .jal v => some ⟨(immS 11 v).2, none, none, 51200 + (immS 11 v).1⟩
  | .tsub b => some (encS2 26 0 0 b 0 [] none)
  | .tdecl a b w => some (encS2 26 1 a b (encB w) [] none)
  | .trecon a b => some (encS2 26 2 a b 0 [] none)
  | .tend => some ⟨[], none, none, 54016⟩
  | .rbeg v irv => some (encS2 26 4 0 0 (encB irv) (immS 0 v).2 none)
  | .rprs k b => some (encS2 26 5 k b 0 [] none)
  | .rend => some ⟨[], none, none, 54784⟩
  | .rxit => some ⟨[], none, none, 55040⟩
  | .lpush b v => some (encS2 27 0 0 b 0 (immU 0 v).2 none)
  | .lpop => some ⟨[], none, none, 55552⟩
  | .uwmark a => some (encS2 27 2 a 0 0 [] none)
  | .chkpt b => some (encS2 27 3 0 b 0 [] none)
  | .faultinj k b => some (encS2 27 4 k b 0 [] none)
  | .fld t m z q la => some (encL 28 0 la t m.b z (immS 0 m.off).2 (mdOf none 0 (encB q * 3)))
  | .fldv t m d q la => some (encL 28 1 la t m.b 0 (immS 0 m.off).2 (mdOf d.ty d.pr (encB q * 3)))
  | .amo t b op w q la => some (encL 28 2 la t b 0 (immU 0 (op + encB w * 16)).2 (mdOf none 0 (encB q * 3)))
  | .amoq t b op w mb la => some (encL 28 3 la t b 0 (immU 0 (op + encB w * 16)).2 (mdOf none 0 (ordCode mb)))
  | .copy g m mb la => some (encL 28 4 la g m.b 0 (immS 0 m.off).2 (mdOf none 0 (ordCode mb)))
  | .copysp g m mb la => some (encL 28 5 la g m.b 0 (immS 0 m.off).2 (mdOf none 0 (ordCode mb)))
  | .copyq g m mb la => some (encL 28 6 la g m.b 0 (immS 0 m.off).2 (mdOf none 0 (ordCode mb)))
  | .cfetch g b s la => some (encL 28 7 la g b 0 (immU 0 s).2 none)
  | .kmma k z => some (encK 0 k (encB z) none)
  | .kmmac k s => some (encK 1 k s none)
  | .kspmma k z => some (encK 2 k (encB z) none)
  | .klda k ty => some (encK 3 k 0 (mdOf ty 0 0))
  | .ksta k ty => some (encK 4 k 0 (mdOf ty 0 0))
  | .kzero k => some (encK 5 k 0 none)
  | .kcfg b la => some (encL 29 6 la 0 b 0 [] none)
  | .kres t c la => some (encL 29 7 la t 0 (encB c) [] none)
  | _ => none

/-- The words of an instruction, empty for an event. -/
def encode (i : Instr) : List Nat :=
  match enc i with
  | some e => e.words
  | none => []

/-- The words of a bit pattern as the opcode table numbers it: 16-bit words with bit 0 the least significant bit of the
first. The table's one row of two words, the forwarding form of LDD (06 R174), writes its REX word in bits 31 to 16, and
the REX word stands first in memory (R63); a 32-bit pattern whose high half is a prefix word is laid out so (log entry
10). Five words are given: those above the row are zero. -/
def tableWords (nbits w : Nat) : List Nat :=
  let lo := w % 65536
  let hi := w / 65536 % 65536
  if nbits = 32 ∧ hi / 2048 = 31 then [hi, lo, 0, 0, 0] else [lo, hi, w / 4294967296 % 65536, 0, 0]

/-- The instruction that the decoder reads from a row's bits. -/
def decodeTableWord (nbits w : Nat) : Option Instr :=
  match decode (tableWords nbits w) with
  | .ok (i, _) => some i
  | .error _ => none

end Sys2Proof
end

