-- ==== Sys2Proof/Machine/Numbers.lean ====
section
/-! DEFINITION. Numbers to the bit (spec 01): decoding, exact values, the one rounding function, conversions, the random
source, the mathematical functions (05 R139), and the elements of a vector register. -/
namespace Sys2Proof

/-- Width in bits (01 Table 1.1). -/
def ETy.width : ETy → Nat
  | .i8 | .z8 | .e4m3 | .e5m2 | .e8m0 => 8
  | .i16 | .z16 | .bf16 | .f16 => 16
  | .i32 | .z32 | .f32 => 32
  | .i64 => 64
  | .e2m1 | .q4n => 4

/-- Lanes of a vector register (01 Table 1.1). -/
def ETy.lanes (t : ETy) : Nat := 512 / ETy.width t

/-- The code of a type. -/
def ETy.code : ETy → Nat
  | .i8 => 0 | .z8 => 1 | .i16 => 2 | .z16 => 3 | .i32 => 4 | .z32 => 5 | .i64 => 6 | .f32 => 7 | .bf16 => 8
  | .f16 => 9 | .e4m3 => 10 | .e5m2 => 11 | .e2m1 => 12 | .q4n => 13 | .e8m0 => 14

/-- f32, bf16, f16 (05 Table 5.1). -/
def ETy.isFp : ETy → Bool
  | .f32 | .bf16 | .f16 => true
  | _ => false

/-- Codes 0 to 6. -/
def ETy.isInt (t : ETy) : Bool := decide (t.code ≤ 6)

/-- A two's-complement type. -/
def ETy.isSigned : ETy → Bool
  | .i8 | .i16 | .i32 | .i64 => true
  | _ => false

/-- A format: mantissa bits, exponent of the smallest normal, magnitude code of the largest finite value, of infinity where
there is one, default NaN, sign bit. -/
structure Fmt where
  mb : Nat
  emin : Int
  maxc : Nat
  infc : Option Nat
  nanc : Option Nat
  sign : Nat
  deriving DecidableEq, Repr

/-- The formats of 01 R15, R18 to R20. -/
def ETy.fmt : ETy → Option Fmt
  | .f32 => some ⟨23, -126, 0x7F7FFFFF, some 0x7F800000, some 0x7FC00000, 31⟩
  | .bf16 => some ⟨7, -126, 0x7F7F, some 0x7F80, some 0x7FC0, 15⟩
  | .f16 => some ⟨10, -14, 0x7BFF, some 0x7C00, some 0x7E00, 15⟩
  | .e4m3 => some ⟨3, -6, 0x7E, none, some 0x7F, 7⟩
  | .e5m2 => some ⟨2, -14, 0x7B, some 0x7C, some 0x7E, 7⟩
  | .e2m1 => some ⟨1, 0, 7, none, none, 3⟩
  | _ => none

end Sys2Proof
namespace Sys2Proof.Machine
open Sys2Proof

/-! ## Types and lanes (01 R12, R13) -/



/-- The type of a code; none for 15. -/
def etyOf : Nat → Option ETy
  | 0 => some .i8 | 1 => some .z8 | 2 => some .i16 | 3 => some .z16 | 4 => some .i32 | 5 => some .z32 | 6 => some .i64
  | 7 => some .f32 | 8 => some .bf16 | 9 => some .f16 | 10 => some .e4m3 | 11 => some .e5m2 | 12 => some .e2m1
  | 13 => some .q4n | 14 => some .e8m0 | _ => none



/-- Lane i of a register, lanes of w bits (01 R13). -/
def laneOf (v : Nat) (w i : Nat) : Nat := v >>> (w * i) % 2 ^ w

/-- The register made of lanes, the first in the lowest bits. -/
def packLanes (w : Nat) : List Nat → Nat
  | [] => 0
  | a :: r => a % 2 ^ w + packLanes w r <<< w

def unpack (t : ETy) (v : VWord) : List Nat := (List.range t.lanes).map fun i => laneOf v.toNat t.width i
def pack (t : ETy) (l : List Nat) : VWord := BitVec.ofNat 512 (packLanes t.width l)

/-- Lane i of a type is active under a predicate (02 R39). -/
def active (t : ETy) (p : Word) (i : Nat) : Bool := p.getLsbD (t.width * i / 8)

/-- Results of active lanes over old lanes. -/
def merge (t : ETy) (p : Word) (old new : VWord) : VWord :=
  pack t (((unpack t old).zip (unpack t new)).zipIdx.map fun e => if active t p e.2 then e.1.2 else e.1.1)

/-- A predicate result: every bit that covers a lane takes the lane's value (02 R39). -/
def predOf (t : ETy) (l : List Bool) : Word :=
  let b := t.width / 8
  BitVec.ofNat 64 (packLanes b (l.map fun x => if x then 2 ^ b - 1 else 0))

/-! ## Integers (01 R14) -/

/-- The signed or unsigned value of a lane. -/
def intOf (t : ETy) (c : Nat) : Int :=
  if t.isSigned && decide (2 ^ (t.width - 1) ≤ c) then (c : Int) - 2 ^ t.width else c
/-- A value modulo 2^w. -/
def wrap (w : Nat) (i : Int) : Nat := (i % (2 ^ w : Int)).toNat
def intMin (t : ETy) : Int := if t.isSigned then -(2 ^ (t.width - 1) : Int) else 0
def intMax (t : ETy) : Int := if t.isSigned then 2 ^ (t.width - 1) - 1 else 2 ^ t.width - 1
/-- A value clamped to the type's range. -/
def clampTo (t : ETy) (i : Int) : Nat := wrap t.width (max (intMin t) (min (intMax t) i))

/-! ## Floating formats (01 R15 to R20) -/



/-- An element's exact value: NaN, an infinity, or ±n × 2^e (a zero keeps its sign). -/
inductive Val where
  | nan
  | inf (neg : Bool)
  | fin (neg : Bool) (n : Nat) (e : Int)
  deriving DecidableEq, Repr

/-- The value of a code of a floating format (01 R15, R18 to R20). -/
def fmtValue (f : Fmt) (c : Nat) : Val :=
  let neg := decide (2 ^ f.sign ≤ c)
  let m := c % 2 ^ f.sign
  if f.infc = some m then .inf neg
  else if f.maxc < m then .nan
  else
    let ex := m / 2 ^ f.mb
    let fr := m % 2 ^ f.mb
    if ex = 0 then .fin neg fr (f.emin - f.mb) else .fin neg (2 ^ f.mb + fr) (f.emin - f.mb + (ex : Int) - 1)

/-- The exact value of an element of any type but q4n (05 R135). -/
def valueOf (t : ETy) (c : Nat) : Val :=
  match t.fmt with
  | some f => fmtValue f c
  | none =>
    if t = .e8m0 then (if c = 255 then .nan else .fin false 1 ((c : Int) - 127))
    else let i := intOf t c; .fin (decide (i < 0)) i.natAbs 0

/-- A subnormal source is taken as zero when FTZ is set (01 R16). -/
def flush (t : ETy) (ftz : Bool) (c : Nat) : Nat :=
  match t.fmt with
  | some f => if ftz && t.isFp && decide (c % 2 ^ f.sign < 2 ^ f.mb) then c / 2 ^ f.sign * 2 ^ f.sign else c
  | none => c

/-- The default NaN (01 R17, Table 1.3); +0 where the type has none. -/
def nanOf (t : ETy) : Nat :=
  match t.fmt with
  | some f => f.nanc.getD 0
  | none => if t = .e8m0 then 0xFF else 0

/-! ## Rounding (01 R27 to R30) -/

/-- num / den rounded to an integer: the lower neighbour, or the one above it (01 Table 1.9, R30). -/
def roundQuot (rm : Rm) (rnd : Nat) (neg : Bool) (num den : Nat) : Nat :=
  let q := num / den
  let r := num % den
  let up := match rm with
    | .rne => decide (den < 2 * r) || (decide (2 * r = den) && decide (q % 2 = 1))
    | .rtz => false
    | .rdn => neg && decide (0 < r)
    | .rup => !neg && decide (0 < r)
    | .rna => decide (den ≤ 2 * r)
    | .sr => decide (rnd < r * 65536 / den)
  if up then q + 1 else q

/-- Numerator and denominator of num / den divided by 2^e. -/
def scaleQ (num den : Nat) (e : Int) : Nat × Nat :=
  if 0 ≤ e then (num, den <<< e.toNat) else (num <<< (-e).toNat, den)

/-- floor(log2 (num / den)) for num > 0. -/
def log2Q (num den : Nat) : Int :=
  let l : Int := (Nat.log2 num : Int) - Nat.log2 den
  let s := scaleQ num den l
  if s.2 ≤ s.1 then l else l - 1

/-- What a finite overflow becomes: by 01 R28 for f32, bf16 and f16, the largest finite value for the narrow types. -/
def fmtOver (f : Fmt) (fp : Bool) (rm : Rm) (neg : Bool) : Nat :=
  match fp, f.infc with
  | true, some i =>
    match rm with
    | .rtz => f.maxc
    | .rdn => if neg then i else f.maxc
    | .rup => if neg then f.maxc else i
    | _ => i
  | _, _ => f.maxc

/-- Every rounding of the device to a floating format: ±num / den, exact, is rounded once (01 R15, R16, R28 to R30). -/
def roundTo (t : ETy) (f : Fmt) (rm : Rm) (rnd : Nat) (ftz neg : Bool) (num den : Nat) : Nat :=
  let s := if neg then 2 ^ f.sign else 0
  if num = 0 then s else
  let e := log2Q num den
  let tiny := ftz && t.isFp && decide (e < f.emin) &&
    !(let q := scaleQ num den (e - f.mb)
      decide (roundQuot rm rnd neg q.1 q.2 = 2 ^ (f.mb + 1)) && decide (e + 1 = f.emin))
  if tiny then s else
  let b := max e f.emin
  let q := scaleQ num den (b - f.mb)
  let c := (b - f.emin).toNat * 2 ^ f.mb + roundQuot rm rnd neg q.1 q.2
  s + (if f.maxc < c then fmtOver f t.isFp rm neg else c)

/-- ±n × 2^e as a quotient. -/
def ratio (n : Nat) (e : Int) : Nat × Nat := if 0 ≤ e then (n <<< e.toNat, 1) else (n, 1 <<< (-e).toNat)

/-- A value rounded to a type (01 R29, Table 1.5). -/
def convert (t : ETy) (rm : Rm) (rnd : Nat) (ftz : Bool) (v : Val) : Nat :=
  match t.fmt with
  | some f =>
    match v with
    | .nan => f.nanc.getD 0
    | .inf neg => match f.infc with
      | some i => (if neg then 2 ^ f.sign else 0) + i
      | none => match f.nanc with
        | some n => n
        | none => (if neg then 2 ^ f.sign else 0) + f.maxc
    | .fin neg n e => roundTo t f rm rnd ftz neg (ratio n e).1 (ratio n e).2
  | none =>
    if t = .e8m0 then
      match v with
      | .fin _ n e => if n = 0 then 0 else (max 0 (min 254 ((Nat.log2 n : Int) + e + 127))).toNat
      | _ => 0xFF
    else
      match v with
      | .nan => 0
      | .inf neg => wrap t.width (if neg then intMin t else intMax t)
      | .fin neg n e =>
        let m : Int := roundQuot rm rnd neg (ratio n e).1 (ratio n e).2
        clampTo t (if neg then -m else m)

/-! ## The random source (01 R31) -/

def rand (key ctr : Word) : Word :=
  (List.range 4).foldl (fun z i =>
    let k := key + BitVec.ofNat 64 i * 0x6A09E667F3BCC909
    let z := (z ^^^ k) * 0xC3A50B6D2F178E49
    z ^^^ (z >>> 31)) ctr

/-- The 16-bit draw of index j: bits of Rand(key, ctr + j div 4). -/
def draw (key ctr : Word) (j : Nat) : Nat :=
  (rand key (ctr + BitVec.ofNat 64 (j / 4))).toNat >>> (16 * (j % 4)) % 65536

/-! ## Exact arithmetic -/

/-- A signed multiple of 2^e. -/
def signed (neg : Bool) (n : Nat) : Int := if neg then -(n : Int) else n

/-- The exact sum of two finite values as a multiple of the smaller power of two. -/
def addFin (a : Int) (ea : Int) (b : Int) (eb : Int) : Int × Int :=
  let e := min ea eb
  (a * 2 ^ (ea - e).toNat + b * 2 ^ (eb - e).toNat, e)

/-- x + y before rounding (05 R122): opposite infinities and NaN operands give NaN; an exact zero takes IEEE's sign. -/
def addVal (rm : Rm) (x y : Val) : Val :=
  match x, y with
  | .nan, _ => .nan
  | _, .nan => .nan
  | .inf a, .inf b => if a = b then .inf a else .nan
  | .inf a, _ => .inf a
  | _, .inf b => .inf b
  | .fin a n e, .fin b m d =>
    let r := addFin (signed a n) e (signed b m) d
    if r.1 = 0 then .fin (if n = 0 && m = 0 && a = b then a else rm = .rdn) 0 0
    else .fin (decide (r.1 < 0)) r.1.natAbs r.2

/-- x × y before rounding. As a term of a kiln's sum the product of two infinities, which 01 R33 does not name, is an infinity
with the product of their signs (log entry 89). -/
def mulVal (x y : Val) : Val :=
  match x, y with
  | .nan, _ => .nan
  | _, .nan => .nan
  | .inf a, .inf b => .inf (a != b)
  | .inf a, .fin b m _ => if m = 0 then .nan else .inf (a != b)
  | .fin a n _, .inf b => if n = 0 then .nan else .inf (a != b)
  | .fin a n e, .fin b m d => .fin (a != b) (n * m) (e + d)

def negVal : Val → Val
  | .nan => .nan
  | .inf a => .inf (!a)
  | .fin a n e => .fin (!a) n e

def isNan : Val → Bool
  | .nan => true
  | _ => false

/-- x < y with −0 < +0 where `zeros` is set; NaN is below nothing. -/
def ltVal (zeros : Bool) (x y : Val) : Bool :=
  match x, y with
  | .nan, _ => false
  | _, .nan => false
  | .inf a, .inf b => a && !b
  | .inf a, .fin .. => a
  | .fin .., .inf b => !b
  | .fin a n e, .fin b m d =>
    let r := addFin (signed a n) e (-(signed b m)) d
    decide (r.1 < 0) || (zeros && decide (n = 0) && decide (m = 0) && a && !b)

/-- The magnitude. -/
def absVal : Val → Val
  | .nan => .nan
  | .inf _ => .inf false
  | .fin _ n e => .fin false n e

/-! ## Mathematical functions (05 R139) -/

/-- floor(√n) for n < 4^k, bit by bit. -/
def sqrtBits (n : Nat) : Nat → Nat → Nat
  | 0, r => r
  | k + 1, r => let t := r + 2 ^ k; sqrtBits n k (if t * t ≤ n then t else r)

def isqrt (n : Nat) : Nat := sqrtBits n (Nat.log2 n / 2 + 1) 0

/-- ln 2 × 2^200. -/
def ln2Fix : Nat := 1113844574712631719546256151097547306333272293549090750737802

/-- exp(y) × 2^200 for y × 2^200 in [0, ln 2 × 2^200), by its series. -/
def expFix (y : Nat) : Nat → Nat → Nat → Nat
  | 0, _, _ => 0
  | k + 1, n, t => t + expFix y k (n + 1) (t * y / (n * 2 ^ 200))

/-- ln(m) × 2^200 for m = (1 + z) / (1 − z), z × 2^200 given: twice the series of atanh. -/
def lnFix (z z2 : Nat) : Nat → Nat → Nat → Nat
  | 0, _, _ => 0
  | k + 1, i, t => 2 * t / (2 * i + 1) + lnFix z z2 k (i + 1) (t * z2 / 2 ^ 200)

/-- A fixed-point result ±v / 2^200, not exact, rounded under RNE: half a unit below the last place stands for the rest. -/
def roundFix (t : ETy) (f : Fmt) (ftz neg : Bool) (v : Nat) (e : Int) : Nat :=
  let r := ratio (2 * v + 1) (e - 201)
  roundTo t f .rne 0 ftz neg r.1 r.2

def recipLane (t : ETy) (f : Fmt) (ftz : Bool) (c : Nat) : Nat :=
  match fmtValue f c with
  | .nan => nanOf t
  | .inf a => if a then 2 ^ f.sign else 0
  | .fin a n e =>
    if n = 0 then (if a then 2 ^ f.sign else 0) + f.infc.getD 0
    else let r := ratio n e; roundTo t f .rne 0 ftz a r.2 r.1

def rsqrtLane (t : ETy) (f : Fmt) (ftz : Bool) (c : Nat) : Nat :=
  match fmtValue f c with
  | .nan => nanOf t
  | .inf a => if a then nanOf t else 0
  | .fin a n e =>
    if n = 0 then (if a then 2 ^ f.sign else 0) + f.infc.getD 0
    else if a then nanOf t
    else
      let odd := decide (e % 2 = 1)
      let n := if odd then 2 * n else n
      let h : Int := (if odd then e - 1 else e) / 2
      let q := isqrt (2 ^ 256 / n)
      let r := ratio (2 * q + (if q * q * n = 2 ^ 256 then 0 else 1)) (-129 - h)
      roundTo t f .rne 0 ftz false r.1 r.2

def exp2Lane (t : ETy) (f : Fmt) (ftz : Bool) (c : Nat) : Nat :=
  match fmtValue f c with
  | .nan => nanOf t
  | .inf a => if a then 0 else f.infc.getD 0
  | .fin a n e =>
    let r := ratio n e
    if r.1 ≥ 2000 * r.2 then (if a then 0 else f.infc.getD 0)
    else
      let i : Int := if a then -Int.ofNat ((r.1 + r.2 - 1) / r.2) else Int.ofNat (r.1 / r.2)
      let fr : Int := signed a r.1 - i * r.2
      if fr = 0 then let q := ratio 1 i; roundTo t f .rne 0 ftz false q.1 q.2
      else
        let y := fr.toNat * ln2Fix / r.2
        roundFix t f ftz false (expFix y 60 1 (2 ^ 200)) i

def log2Lane (t : ETy) (f : Fmt) (ftz : Bool) (c : Nat) : Nat :=
  match fmtValue f c with
  | .nan => nanOf t
  | .inf a => if a then nanOf t else f.infc.getD 0
  | .fin a n e =>
    if n = 0 then 2 ^ f.sign + f.infc.getD 0
    else if a then nanOf t
    else
      let k := Nat.log2 n
      let ex : Int := e + k
      if n = 2 ^ k then convert t .rne 0 ftz (.fin (decide (ex < 0)) ex.natAbs 0)
      else
        let z := (n - 2 ^ k) * 2 ^ 200 / (n + 2 ^ k)
        let l : Nat := lnFix z (z * z / 2 ^ 200) 80 0 z * 2 ^ 200 / ln2Fix
        let v : Int := ex * 2 ^ 200 + l
        roundFix t f ftz (decide (v < 0)) (if v < 0 then (-v - 1).toNat else v.toNat) 0

/-! ## Q4N and MX (01 R21 to R26) -/

/-- The codebook of 01 Table 1.6 in units of 1/1024. -/
def codebook : List Int :=
  [-1024, -712, -540, -404, -292, -188, -94, 0, 82, 166, 252, 346, 452, 576, 740, 1024]

def f32Fmt : Fmt := ⟨23, -126, 0x7F7FFFFF, some 0x7F800000, some 0x7FC00000, 31⟩
def bf16Fmt : Fmt := ⟨7, -126, 0x7F7F, some 0x7F80, some 0x7FC0, 15⟩

/-- The f32 block scale of a code and a finite super-scale (01 R25). -/
def blockScale (c : Nat) (a : Bool) (n : Nat) (e : Int) : Nat :=
  let r := ratio (n * c) e
  roundTo .f32 f32Fmt .rne 0 false a r.1 (r.2 * 255)

/-- The bf16 value of a q4n element (01 R25): index, scale code, super-scale. -/
def q4nValue (idx c s : Nat) : Nat :=
  match fmtValue f32Fmt s with
  | .fin a n e =>
    let sc := fmtValue f32Fmt (blockScale c a n e)
    let cb := codebook.getD idx 0
    convert .bf16 .rne 0 false (mulVal (.fin (decide (cb < 0)) cb.natAbs (-10)) sc)
  | _ => 0x7FC0

/-- An MX element with its scale (01 R21). -/
def mxValue (v : Val) (scale : Nat) : Val :=
  if scale = 255 then .nan else mulVal v (.fin false 1 ((scale : Int) - 127))

/-- The default element type of a source decoded by windows 3, 4, 6 and 7 (02 Table 2.6). -/
def cvtRne (src dst : ETy) (c : Nat) : Nat := convert dst .rne 0 false (valueOf src c)

/-! ## A kiln's chunk (01 R32, R33) -/

/-- acc plus the exact sum of the products of operand pairs, before rounding: specials first, then the finite sum
(01 R33, 05 R141). -/
def dotVal (rm : Rm) (av : Val) (ps : List (Val × Val)) : Val :=
  let terms := ps.map fun p => mulVal p.1 p.2
  let finite := ps.filterMap fun p => match p.1, p.2 with
    | .fin a n e, .fin b m d => some (Val.fin (a != b) (n * m) (e + d))
    | _, _ => none
  if terms.any isNan || (terms.contains (.inf true) && terms.contains (.inf false)) then .nan
  else match terms.find? fun t => match t with | .inf _ => true | _ => false with
    | some i => addVal rm av i
    | none =>
      let sum : Int × Int := finite.foldl (fun s v => match v with
        | .fin a n e => if n = 0 then s else addFin s.1 s.2 (signed a n) e
        | _ => s) (0, 0)
      let sv : Val := if sum.1 = 0 then
          .fin (!finite.isEmpty && finite.all fun v => match v with | .fin a n _ => a && decide (n = 0) | _ => false) 0 0
        else .fin (decide (sum.1 < 0)) sum.1.natAbs sum.2
      addVal rm av sv

/-- One chunk applied to an f32 accumulator: the operand pairs of 32 consecutive k (01 R32). -/
def chunk (acc : Nat) (ps : List (Val × Val)) : Nat :=
  convert .f32 .rne 0 false (dotVal .rne (fmtValue f32Fmt acc) ps)

/-- The terms of a chunk that take no part in the residue check (01 R37). -/
def unchecked (ps : List (Val × Val)) : Nat :=
  (ps.filter fun p => match p.1, p.2 with | .fin .., .fin .. => false | _, _ => true).length

end Sys2Proof.Machine
end

