-- ==== Sys2Proof/Machine/Ops.lean ====
section
/-! DEFINITION. The named operations that the meanings share: cores, contexts and partitions, time, registers, the undo log,
notices and trace records, pegs, the receive queue, starting and ending a context, taking an exception and returning from
one. -/
namespace Sys2Proof.Machine
open Sys2Proof

/-- How a meaning ends early: a trap at issue with its cause and XVALUE (`none`: a free value, where no rule gives one; log
entry 11), a trap that an armed trigger causes (08 R258), or a stall at issue (09 R264). None has any other effect (08 R261),
but that `full`, the trap 0x12 of an undo log without room (11 R329), leaves what made room in it: `co` is the core at the append
that found none. -/
inductive Stop where
  | trap (cause : BitVec 8) (value : Option Word)
  | full (co : Core) (value : Option Word)
  | inject (cause : BitVec 8) (value : Word) (kind : Fin 4)
  | stall
  deriving DecidableEq, Repr

/-- How exec ends. -/
abbrev Ending := Host.Outcome State Fault Refusal
/-- A meaning's result. -/
abbrev Res := Except Stop State

/-- A trap with a given XVALUE. -/
def trapV {α : Type} (cause : BitVec 8) (v : Word) : Except Stop α := .error (.trap cause (some v))
/-- A trap whose XVALUE no rule gives. -/
def trapF {α : Type} (cause : BitVec 8) : Except Stop α := .error (.trap cause none)
/-- A stall at issue. -/
def stall {α : Type} : Except Stop α := .error .stall
/-- A check: the error unless the condition holds. -/
def need (b : Bool) (e : Except Stop Unit) : Except Stop Unit := if b then .ok () else e

/-! ## Cores and contexts -/

/-- The four contexts of a core. -/
def allCtx : List CtxNo := [0, 1, 2, 3]

def State.core (s : State) (k : Key) : Core := (aget s.cores k.val).getD Core.init
def State.setCore (s : State) (k : Key) (c : Core) : State := { s with cores := aset s.cores k.val c }
def State.updCore (s : State) (k : Key) (f : Core → Core) : State := s.setCore k (f (s.core k))
def Core.ctx (co : Core) (c : CtxNo) : Ctx := co.ctxs[c]
def Core.setCtx (co : Core) (c : CtxNo) (x : Ctx) : Core := { co with ctxs := co.ctxs.set c x }
def Core.updCtx (co : Core) (c : CtxNo) (f : Ctx → Ctx) : Core := co.setCtx c (f (co.ctx c))
def State.ctx (s : State) (k : Key) (c : CtxNo) : Ctx := (s.core k).ctx c
def State.updCtx (s : State) (k : Key) (c : CtxNo) (f : Ctx → Ctx) : State := s.updCore k fun co => co.updCtx c f

/-- The core and context whose instruction is executed. -/
def State.me (s : State) : Key := s.m.cur.1
def State.cc (s : State) : CtxNo := s.m.cur.2
def State.myCore (s : State) : Core := s.core s.me
def State.my (s : State) : Ctx := s.ctx s.me s.cc
def State.upd (s : State) (f : Ctx → Ctx) : State := s.updCtx s.me s.cc f
def State.updMine (s : State) (f : Core → Core) : State := s.updCore s.me f
def State.setFate (s : State) (f : Fate) : State := { s with m := { s.m with fate := f } }
/-- The next name for a request or engine. -/
def State.freshId (s : State) : Nat × State := (s.m.nextId, { s with m := { s.m with nextId := s.m.nextId + 1 } })
/-- A free value and the counter advanced (log entry 4). -/
def State.freeWord (s : State) : Word × State :=
  (Config.freeWord s.m.freeCtr, { s with m := { s.m with freeCtr := s.m.freeCtr + 1 } })
/-- The counter of free values advanced. -/
def State.bump (s : State) : State := { s with m := { s.m with freeCtr := s.m.freeCtr + 1 } }
def State.setMem (s : State) (m : Memory) : State := { s with sh := { s.sh with mem := m } }
def State.post (s : State) (m : Msg) : State := { s with sh := { s.sh with fabric := s.sh.fabric ++ [m] } }
/-- A message of a core or hod for a core of a device: in this package's fabric, or on its way to another package (16 R397). -/
def State.postTo (s : State) (src : Nat) (dev : BitVec 8) (m : Msg) : State :=
  s.post (if dev = s.device then m else .away dev src m)
def State.unpost (s : State) (i : Nat) : State := { s with sh := { s.sh with fabric := s.sh.fabric.eraseIdx i } }

/-! ## Partitions and time -/

def State.part (s : State) (n : Nat) : Part := (aget s.parts n).getD Part.init
def State.setPart (s : State) (n : Nat) (p : Part) : State := { s with parts := aset s.parts n p }
def State.updPart (s : State) (n : Nat) (f : Part → Part) : State := s.setPart n (f (s.part n))
/-- A pallet's core or a hod belongs to the partition (14 R340). -/
def Part.has (p : Part) (k : Key) : Bool :=
  if isHod k then p.hods.getLsbD (k.val - 4096) else p.pallets.getLsbD (palletOf k.val)
/-- The same of a partition of another package. -/
def Peer.has (p : Peer) (k : Key) : Bool :=
  if isHod k then p.hods.getLsbD (k.val - 4096) else p.pallets.getLsbD (palletOf k.val)
/-- The partition that holds a core or hod. -/
def State.partOf (s : State) (k : Key) : Option Nat :=
  (s.parts.find? fun e => decide (e.2.state ≠ .free) && e.2.has k).map (·.1)
/-- The same, 64 where none holds it. -/
def State.partNo (s : State) (k : Key) : Nat := (s.partOf k).getD 64
/-- Cores run and messages move (14 Table 14.1). -/
def Part.live (p : Part) : Bool := p.state == .active || p.state == .armed
/-- The core's partition runs, and the core is not being reset (17 R409). -/
def State.liveCore (s : State) (k : Key) : Bool :=
  (s.core k).resetting.isNone && (match s.partOf k with
    | some n => (s.part n).live
    | none => false)
/-- CONFIG.DEBUG of a core (02 Table 2.8). -/
def State.debug (s : State) (k : Key) : Bool := (s.part (s.partNo k)).config.getLsbD 63

/-- The timestamp counter, in nanoseconds: 1.8 cycles each (00 R4, R5). -/
def State.now (s : State) : Nat := (s.tsBase + (s.cycle * 5 / 9 : Nat)).toNat
/-- The running cycles of a partition: time in which it is stopped does not count (14 Table 14.8). -/
def Part.clock (p : Part) (cycle : Nat) : Nat := p.since.getD cycle - p.held
/-- The running time of the partition of a core, in cycles and nanoseconds. -/
def State.pclk (s : State) (k : Key) : Nat := (s.part (s.partNo k)).clock s.cycle
def State.pns (s : State) (k : Key) : Nat := s.pclk k * 5 / 9
/-- The first multiple of 1,000 ns that is at least 2,000 ns from now (14 R347, 17 R407). -/
def State.tick2 (s : State) : Nat := (s.now + 2000 + 999) / 1000 * 1000

/-- A core of the domain lies within the partition, taken across the job's span (14 R341): on another package, in that package's
partition of the same job (log entry 12). -/
def State.inSpan (s : State) (n : Nat) (o : Owner) : Bool :=
  let p := s.part n
  decide (p.state ≠ .free) && (if h : o.key < 4160 then
    (if o.dev = s.device then p.has ⟨o.key, h⟩
     else decide (o.dev.toNat < 192) && p.group.getLsbD o.dev.toNat &&
       s.peers.any fun q => decide (q.dev = o.dev ∧ q.job = p.job) && q.has ⟨o.key, h⟩)
    else false)

/-- An entry for a core of a partition's span; to a core outside it nothing goes (00 R7; log entry 107). -/
def State.postEntry (s : State) (n : Nat) (dst : Owner) (e : VWord) : State :=
  if s.inSpan n dst then s.post (.ent dst e false n) else s

/-- The cores of a rectangle (first row, first column, rows, columns). -/
def rectKeys (r : Nat × Nat × Nat × Nat) : List Key :=
  (List.range r.2.2.1).flatMap fun i => (List.range r.2.2.2).map fun j => coreKey ((r.1 + i) * 64 + r.2.1 + j)
/-- The cores of a rectangle that lie in the partition of a core: nothing reaches beyond it (00 R7). -/
def State.rectOf (s : State) (k : Key) (r : Nat × Nat × Nat × Nat) : List Key :=
  (rectKeys r).filter fun j => decide (s.partNo j = s.partNo k)
/-- The contexts in the superstep of a level, of the rectangle that a core lies in. -/
def State.gang (s : State) (k : Key) (rect : Nat × Nat × Nat × Nat) (n : Fin 4) : List (Key × CtxNo × SsFrame) :=
  (s.rectOf k rect).flatMap fun j => allCtx.filterMap fun d =>
    match (s.ctx j d).aux.ss with
    | some f => if f.level = n then some (j, d, f) else none
    | none => none

/-! ## Fields of words -/

/-- Bits [hi:lo] as a number. -/
def bits (w : Word) (hi lo : Nat) : Nat := w.toNat >>> lo % 2 ^ (hi + 1 - lo)
/-- A number placed at bit lo. -/
def at_ (n lo : Nat) : Word := BitVec.ofNat 64 (n <<< lo)
def bit (b : Bool) (lo : Nat) : Word := if b then at_ 1 lo else 0
/-- A signed value of a 64-bit word. -/
def sx (w : Word) : Int := w.toInt
/-- A PC with bit 0 zero, from the low bits of a word. -/
def pcOf (n : Nat) : PC := BitVec.ofNat 15 (n % 0x8000 / 2 * 2)

/-! ## Notices to the host -/

/-- A receive-queue entry (06 Table 6.6). -/
def entry (kind : Nat) (sdev : BitVec 8) (score : Nat) (shod : Bool) (sctx : Nat) (cause hpc : Nat)
    (a1 a2 tag spc mask : Word) : VWord :=
  let h : Nat := kind <<< 60 + sdev.toNat <<< 52 + (score % 4096) <<< 40 + (if shod then 1 <<< 39 else 0) +
    (sctx % 4) <<< 37 + (cause % 256) <<< 29 + (hpc % 0x8000) <<< 14
  BitVec.ofNat 512 (h + a1.toNat <<< 64 + a2.toNat <<< 128 + tag.toNat <<< 192 + spc.toNat <<< 256 +
    mask.toNat <<< 320)

/-- Word i of an entry. -/
def eword (e : VWord) (i : Nat) : Word := BitVec.ofNat 64 (e.toNat >>> (64 * i))
def ekind (e : VWord) : Nat := bits (eword e 0) 63 60
def ehpc (e : VWord) : Nat := bits (eword e 0) 28 14

/-- A held notice for a port. -/
def Held.isNotice (h : Held) (port : Fin 2) : Bool :=
  match h.what with
  | .notice p _ => decide (p = port)
  | _ => false

/-- A notice put into a port's queue. -/
def State.pushNotice (s : State) (port : Fin 2) (n : BitVec 1024) : State :=
  { s with ports := s.ports.set port { s.ports[port] with notices := s.ports[port].notices ++ [n] } }

/-- A notice offered to a port: queued, or held behind earlier ones and offered again every 1 µs when the queue of 256 is
full (16 R395). -/
def State.notice (s : State) (port : Fin 2) (n : BitVec 1024) : State :=
  if s.ports[port].notices.length < 256 && !(s.sh.held.any fun h => h.isNotice port) then s.pushNotice port n
  else { s with sh := { s.sh with held := s.sh.held ++ [⟨.notice port n, s.now + 1000, 64⟩] } }

/-- A KIND 7 host notice (16 Table 16.3). -/
def hostNotice (sdev : BitVec 8) (score : Nat) (shod : Bool) (cause sub : Nat) (a1 a2 tag spc mask : Word)
    (data : VWord) : BitVec 1024 :=
  BitVec.ofNat 1024
    ((entry 7 sdev score shod 0 cause 0 a1 (a2 ||| BitVec.ofNat 64 sub) tag spc mask).toNat + data.toNat <<< 512)

/-- An error report (17 Table 17.3) to the owner port of a partition. -/
def State.report (s : State) (part cls : Nat) (k : Option Key) (cause ctx count : Nat) (tag spc mask : Word)
    (data : VWord) : State :=
  let n := hostNotice (match k with | some _ => s.device | none => 0) ((k.map index).getD 0)
    ((k.map isHod).getD false) cause 9 (at_ part 0 ||| at_ cls 8) (at_ ctx 8 ||| at_ count 16) tag spc mask data
  s.notice (s.part part).owner n

/-- A report to the owner ports of every partition of the package (17 R411, R413, R414). -/
def State.reportAll (s : State) (cls count : Nat) (tag : Word) : State :=
  s.parts.foldl (fun s e => if e.2.state == .free then s else s.report e.1 cls none 0 0 count tag 0 0 0) s

/-! ## Counters and trace -/

/-- An error counter of a core counts, saturating (17 R415). -/
def Core.count (co : Core) (i : Fin 11) : Core :=
  { co with counters := co.counters.set i (min (co.counters[i] + 1) 0xFFFFFFFF) }

/-- n uncorrectable words counted for a core (17 R415). -/
def State.countUe (s : State) (k : Key) (n : Nat) : State :=
  s.updCore k fun co => { co with counters := co.counters.set 1 (min (co.counters[1] + n) 0xFFFFFFFF) }
/-- A part of the fly store is written whole: it is no longer in error (17 R404). -/
def State.flyClear (s : State) (k : Key) (c : CtxNo) (i : Fin 10) : State :=
  s.updCore k fun co => { co with flyUe := co.flyUe.filter fun e => e ≠ (c, i) }
/-- One corrected word counted; 256 within an hour are a class 7 report, at most once an hour for a core (17 R415). -/
def State.countOneCe (s : State) (k : Key) : State :=
  let hour := 3600000000000
  let co := s.core k
  let ts := (s.now :: co.ceTimes).take 256
  let rise := match ts[255]? with
    | some t => decide (s.now - t ≤ hour)
    | none => false
  let told := match co.ceTold with
    | some t => decide (s.now - t < hour)
    | none => false
  let s := s.setCore k { (co.count 0) with ceTimes := ts, ceTold := if rise && !told then some s.now else co.ceTold }
  match (if rise && !told then s.partOf k else none) with
  | some n => s.report n 7 (some k) 0 0 0 0 0 0 0
  | none => s

/-- LABELS.TOP (18 Table 18.2). -/
def Ctx.top (c : Ctx) : BitVec 16 := c.aux.labels.headD 0

/-- A record kept where the buffer of 1,024 has room. -/
def Trace.room (t : Trace) : Bool := decide (t.recs.length < 1024)
def Trace.put (t : Trace) (now : Nat) (r : BitVec 128) : Trace := { t with recs := t.recs ++ [r], last := some now }

/-- A record offered to the buffer at a time (18 R426 to R428). The first record after EN rises, and one 65,535 ns or more after
the record kept before it, is preceded by one of KIND 15; one that follows a loss by one of KIND 14, which comes after KIND 15, or
takes the one place that is left (log entry 86). The others carry the time since the record kept before them. A record that finds no
room is counted, one of KIND 15 too. -/
def Trace.keep (t : Trace) (now : Nat) (time : BitVec 128) (lost r : Nat → BitVec 128) : Trace :=
  let due := match t.last with
    | none => true
    | some l => decide (65535 ≤ now - l)
  let fits := t.room && !(decide (t.recs.length = 1023) && decide (0 < t.lost))
  let t := if due && fits then t.put now time else t
  let gap := fun (t : Trace) => min 65535 (now - t.last.getD now)
  let t := if 0 < t.lost && t.room then { (t.put now (lost (gap t))) with lost := 0 } else t
  let t := if due && !fits then { t with lost := t.lost + 1 } else t
  if t.room then t.put now (r (gap t)) else { t with lost := t.lost + 1 }

/-- The record of 18 Table 18.3. -/
def traceRec (kind ctx : Nat) (k : Key) (rate : Nat) (delta : Nat) (label : BitVec 16) (ssc : Nat) (data : Nat) :
    BitVec 128 :=
  BitVec.ofNat 128 (kind <<< 60 + ctx <<< 58 + (if isHod k then 1 <<< 57 else 0) + index k <<< 45 + rate <<< 42 +
    delta <<< 26 + label.toNat + data <<< 64 + ssc <<< 96)

/-- An event of a context offered to trace capture (18 R425 to R429). -/
def State.trace (s : State) (k : Key) (c : CtxNo) (kind : Nat) (pc : PC) (code aux : Nat) : State :=
  let co := s.core k
  let x := co.ctx c
  let ctl := co.csr.trctl
  let t := co.trace
  if !ctl.getLsbD 63 then s else
  let state := decide (kind ≤ 7)
  let elig := bits ctl 3 0 >>> c.val % 2 == 1 && bits ctl 15 8 >>> kind % 2 == 1 &&
    decide (x.top.toNat &&& bits ctl 31 16 = bits ctl 47 32 &&& bits ctl 31 16)
  let hit := !state || (elig && t.count.toNat % 2 ^ t.rate.val == 0)
  let t := if state && elig then { t with count := t.count + 1 } else t
  let t :=
    if !hit then t else
    let now := s.now
    let mk := fun kd delta ssc data => traceRec kd c.val k t.rate.val delta x.top ssc data
    let ssc := x.csr.sscount.toNat % 2 ^ 32
    t.keep now (mk 15 0 (now / 2 ^ 32 % 2 ^ 32) (now % 2 ^ 32)) (fun d => mk 14 d ssc (min t.lost 511 <<< 23))
      fun d => mk kind d ssc (pc.toNat + (code % 256) <<< 15 + (aux % 512) <<< 23)
  s.updCore k fun co => { co with trace := t }

/-! ## The undo log (11 R321, R328 to R331) -/

/-- What keeps a window retained: an explicit frame of a context, by its place in the context's list; a body; a
superstep. -/
inductive Keeper where
  | frame (i : Nat) | body | ss
  deriving DecidableEq, Repr

/-- The markers of a context that retain windows, with the window number (11 R328). -/
def Ctx.keepers (x : Ctx) (c : CtxNo) : List (Nat × BitVec 16 × CtxNo × Keeper) :=
  ((x.aux.frames.zipIdx.filter fun f => !f.1.isSealed && !f.1.unrec).map fun f => (f.1.marker, f.1.num, c, .frame f.2)) ++
  (match x.aux.body with | some (m, n) => [(m, n, c, .body)] | none => []) ++
  (match x.aux.ss with | some f => if f.recov then [(f.marker, f.num, c, .ss)] else [] | none => [])

/-- The oldest retained marker of a core. -/
def Core.oldest (co : Core) : Option (Nat × BitVec 16 × CtxNo × Keeper) :=
  (allCtx.flatMap fun c => (co.ctx c).keepers c).foldl
    (fun b e => match b with | none => some e | some x => if e.1 < x.1 then some e else some x) none

/-- Free entries of the ring of 8,192. -/
def Core.logFree (co : Core) : Nat := 8192 - co.log.length

/-- LOGTAIL advanced past closed entries when 256 or fewer are free (11 R328). -/
def Core.discard (co : Core) : Core :=
  if co.logFree ≤ 256 then
    match co.oldest with
    | some m => { co with log := co.log.take (co.logHead - m.1) }
    | none => { co with log := [] }
  else co

def Core.push (co : Core) (e : LogEntry) : Core := { co with log := e :: co.log, logHead := co.logHead + 1 }

/-- The superstep of a context is unrecoverable (11 R331). -/
def Ctx.unrecSs (x : Ctx) : Ctx :=
  match x.aux.ss with
  | some f => { x with aux := { x.aux with ss := some { f with recov := false } }, csr := { x.csr with ssunrec := true } }
  | none => x
/-- The context is in a superstep that is unrecoverable. -/
def Ctx.ssLost (x : Ctx) : Bool :=
  match x.aux.ss with
  | some f => !f.recov
  | none => false
/-- A superstep marker given up: every superstep that opened there is unrecoverable (11 R331). -/
def Core.unrecSs (co : Core) (mk : Nat) : Core :=
  allCtx.foldl (fun co c => co.updCtx c fun x =>
    match x.aux.ss with
    | some f => if f.marker = mk then x.unrecSs else x
    | none => x) co

/-- A retained marker forfeited (11 R330). -/
def Core.forfeit (co : Core) (e : Nat × BitVec 16 × CtxNo × Keeper) : Core :=
  match e.2.2.2 with
  | .ss => co.unrecSs e.1
  | .body => co.updCtx e.2.2.1 fun x => { x with aux := { x.aux with body := none } }
  | .frame i => co.updCtx e.2.2.1 fun x =>
      { x with aux := { x.aux with frames := lmod x.aux.frames i fun f => { f with unrec := true } } }

/-- An append by the core's own instruction (11 R329). The first argument bounds the supersteps given up. -/
def appendOwn : Nat → Core → LogEntry → Except Stop Core
  | 0, co, _ => .error (.full co none)
  | n + 1, co, e =>
    let co := co.discard
    if co.logFree > 256 then .ok (co.push e)
    else match co.oldest with
      | none => .ok (co.push e)
      | some m => match m.2.2.2 with
        | .ss => appendOwn n (co.unrecSs m.1) e
        | _ => .error (.full co (some (at_ m.2.1.toNat 0 ||| at_ m.2.2.1.val 16)))

/-- An append by another core or an engine (11 R330). -/
def appendEngine : Nat → Core → LogEntry → Core
  | 0, co, e => co.push e
  | n + 1, co, e =>
    let co := co.discard
    if co.logFree > 0 then co.push e
    else match co.oldest with
      | none => co.push e
      | some m => appendEngine n ((co.forfeit m).discard) e

/-- More steps than a core can have retained markers (11 R328: eight frames, a body and a superstep in each context). -/
def appendFuel : Nat := 64

/-- The core after what an append that found no room did before it gave up: LOGTAIL has advanced (11 R328) and supersteps are
unrecoverable (11 R329). -/
def Core.madeRoom (co found : Core) : Core :=
  let tail := found.logHead - found.log.length
  allCtx.foldl (fun co c => if (found.ctx c).ssLost then co.updCtx c Ctx.unrecSs else co)
    { co with log := co.log.take (co.logHead - tail) }
/-- A superstep that is unrecoverable at a core is so in each of its contexts, at every core of its rectangle (11 R331). -/
def State.spreadUnrec (s : State) (k : Key) : State :=
  allCtx.foldl (fun s c => match (s.ctx k c).aux.ss with
    | some f => if f.recov then s
      else (s.gang k f.rect f.level).foldl (fun s e => s.updCtx e.1 e.2.1 Ctx.unrecSs) s
    | none => s) s
/-- How many contexts of a core are in a superstep that is unrecoverable. -/
def Core.ssLosses (co : Core) : Nat := (allCtx.filter fun c => (co.ctx c).ssLost).length
/-- A core after appends to its log: a superstep that they made unrecoverable is so everywhere. -/
def State.setLogged (s : State) (k : Key) (co : Core) : State :=
  if co.ssLosses = (s.core k).ssLosses then s.setCore k co else (s.setCore k co).spreadUnrec k
def State.appendOwn (s : State) (e : LogEntry) : Res := do
  let co ← Machine.appendOwn appendFuel s.myCore e
  pure (s.setLogged s.me co)

/-- A window marker appended by the core's own instruction, with UWNUM counted (11 R322); the answer has the marker's place
and number. -/
def State.openWindow (s : State) (k : Key) (c : CtxNo) (ty : Fin 7) : Except Stop (State × Nat × BitVec 16) := do
  let num := (s.core k).wnum + 1
  let co ← Machine.appendOwn appendFuel (s.core k) ⟨.marker c ty num, 0⟩
  pure (s.setLogged k { co with wnum := num }, co.logHead - 1, num)

/-- The same by an event of the device, which never traps (11 R322, R330; log entry 13). -/
def State.openWindowE (s : State) (k : Key) (c : CtxNo) (ty : Fin 7) : State × Nat × BitVec 16 :=
  let num := (s.core k).wnum + 1
  let co := appendEngine appendFuel (s.core k) ⟨.marker c ty num, 0⟩
  (s.setLogged k { co with wnum := num }, co.logHead - 1, num)

/-! ## Writes to local stores -/

/-- Who causes a slice write (11 R321). -/
structure Writer where
  owner : Owner
  ctx : CtxNo
  engine : Bool
  deriving DecidableEq, Repr

/-- The 8-byte words that pieces (offset, length, value) touch, each once, in order. -/
def wordsOf (ps : List (Nat × Nat × Nat)) : List Nat :=
  (ps.flatMap fun p => if p.2.1 = 0 then [] else
    (List.range ((p.1 + p.2.1 - 1) / 8 - p.1 / 8 + 1)).map fun i => p.1 / 8 + i).eraseDups

/-- A byte offset is in some piece. -/
def covered (ps : List (Nat × Nat × Nat)) (o : Nat) : Bool := ps.any fun p => p.1 ≤ o && o < p.1 + p.2.1

/-- Whole words are covered: their errors clear (17 R404). -/
def wholeWord (ps : List (Nat × Nat × Nat)) (w : Nat) : Bool := (List.range 8).all fun i => covered ps (8 * w + i)

/-- The memory after the pieces are written in order. -/
def putPieces (m : Memory) (k : Key) (ps : List (Nat × Nat × Nat)) : Memory :=
  ps.foldl (fun m p => m.write (Loc.local_ k p.1) p.2.1 p.2.2) m

/-- The undo entries of a write: one for each changed word (06 R148, R163). CTX names a context of this core only
(11 Table 11.6). -/
def undoEntries (s : State) (k : Key) (w : Writer) (m' : Memory) (words : List Nat) : List LogEntry :=
  words.filterMap fun wd =>
    let old := s.sh.mem.read (Loc.local_ k (8 * wd)) 8
    if m'.read (Loc.local_ k (8 * wd)) 8 = old then none
    else some ⟨.slice (if w.owner = ⟨s.device, k.val⟩ then w.ctx else 0) (decide (w.owner ≠ ⟨s.device, k.val⟩)) w.owner.dev (BitVec.ofNat 12 (w.owner.key % 4096))
      (decide (4096 ≤ w.owner.key)) (BitVec.ofNat 20 (8 * wd)), BitVec.ofNat 64 old⟩

/-- The words that pieces cover whole are no longer in error (17 R404). -/
def clearErrors (l : List Nat) (k : Key) (ps : List (Nat × Nat × Nat)) : List Nat :=
  let ws := ((wordsOf ps).filter (wholeWord ps)).map fun w => Loc.local_ k (8 * w) / 8
  l.filter fun w => !ws.contains w

/-- Bytes written with no undo entry: into a hod's staging SRAM, or by a device write (06 R148). -/
def State.putRaw (s : State) (k : Key) (ps : List (Nat × Nat × Nat)) : State :=
  { s with sh := { s.sh with mem := putPieces s.sh.mem k ps, ue := clearErrors s.sh.ue k ps,
                             ce := clearErrors s.sh.ce k ps } }

/-- A write into a local store by the core's own instruction: undo entries first, then the bytes (06 R148, R156). -/
def State.putOwn (s : State) (ps : List (Nat × Nat × Nat)) : Res :=
  if isHod s.me then .ok (s.putRaw s.me ps) else do
    let m' := putPieces s.sh.mem s.me ps
    let es := undoEntries s s.me ⟨⟨s.device, s.me.val⟩, s.cc, false⟩ m' (wordsOf ps)
    let co ← es.foldlM (fun co e => Machine.appendOwn appendFuel co e) s.myCore
    pure ((s.setLogged s.me co).putRaw s.me ps)

/-- A write into a slice by another core or an engine (06 R148, 11 R330). -/
def State.putEngine (s : State) (k : Key) (w : Writer) (ps : List (Nat × Nat × Nat)) : State :=
  if isHod k then s.putRaw k ps else
    let m' := putPieces s.sh.mem k ps
    let es := undoEntries s k w m' (wordsOf ps)
    (s.setLogged k (es.foldl (fun co e => appendEngine appendFuel co e) (s.core k))).putRaw k ps

/-- A word in error among the bytes at a place of the byte store. -/
def State.badWord (s : State) (a n : Nat) : Option Nat :=
  (List.range ((a + n - 1) / 8 - a / 8 + 1)).findSome? fun i =>
    if s.sh.ue.contains (a / 8 + i) then some (a / 8 + i) else none

/-- Words stored with the check pattern that reads as uncorrectable (17 R404). -/
def State.poison (s : State) (ws : List Nat) : State :=
  { s with sh := { s.sh with ue := s.sh.ue ++ ws.filter fun w => !s.sh.ue.contains w } }

/-! ## Registers (02 R38, R40) -/

def Ctx.x (c : Ctx) (r : Reg) : Word := if r = 0 then 0 else c.regs.x[r]
def Ctx.v (c : Ctx) (r : Reg) : VWord := c.regs.v[r]
def Ctx.p (c : Ctx) (r : Reg8) : Word := if r = 0 then BitVec.allOnes 64 else c.regs.p[r]
def Ctx.g (c : Ctx) (r : Reg8) : BitVec 32 := c.regs.g[r]
def State.x (s : State) (r : Reg) : Word := s.my.x r
def State.v (s : State) (r : Reg) : VWord := s.my.v r
def State.p (s : State) (r : Reg8) : Word := s.my.p r

def Ctx.putX (c : Ctx) (r : Reg) (w : Word) : Ctx :=
  if r = 0 then c else { c with regs := { c.regs with x := c.regs.x.set r w } }
def Ctx.putV (c : Ctx) (r : Reg) (w : VWord) : Ctx := { c with regs := { c.regs with v := c.regs.v.set r w } }
def Ctx.putP (c : Ctx) (r : Reg8) (w : Word) : Ctx :=
  if r = 0 then c else { c with regs := { c.regs with p := c.regs.p.set r w } }
def Ctx.putG (c : Ctx) (r : Reg8) (w : BitVec 32) : Ctx := { c with regs := { c.regs with g := c.regs.g.set r w } }

/-- The register entry of debug mode: the part's previous value (11 Table 11.6, 04 R94). Where the log has no room the instruction
traps with 0x12, a vector instruction too, though 05 R125 names only 0x01 and 0x20 (11 R329; log entry 88). -/
def State.logReg (s : State) (cls : Fin 3) (r : Reg) (part : Fin 8) (old : Word) : Res :=
  if s.debug s.me then s.appendOwn ⟨.reg s.cc cls r part, old⟩ else .ok s

/-- x[r] = w (02 R40: x0 discards it, but the entry is appended). -/
def State.setX (s : State) (r : Reg) (w : Word) : Res := do
  let s' ← s.logReg 0 r 0 (s.x r)
  pure (s'.upd fun c => c.putX r w)

/-- p[r] = w. -/
def State.setP (s : State) (r : Reg8) (w : Word) : Res := do
  let s' ← s.logReg 2 (Fin.ofNat 32 r.val) 0 (s.p r)
  pure (s'.upd fun c => c.putP r w)

/-- v[r] = w: eight register entries in debug mode (11 R322). -/
def State.setV (s : State) (r : Reg) (w : VWord) : Res := do
  let old := s.v r
  let s' ← [0, 1, 2, 3, 4, 5, 6, 7].foldlM (fun s (i : Fin 8) => s.logReg 1 r i (eword old i.val)) s
  pure (s'.upd fun c => c.putV r w)

/-! ## The end of an instruction -/

/-- The PC of the successor of the instruction being executed: within its segment (02 R46, 03 R63). -/
def nextPc (pc : PC) (words : Nat) : PC :=
  BitVec.ofNat 15 (pc.toNat / 0x2000 * 0x2000 + (pc.toNat + 2 * words) % 0x2000)
def State.succ (s : State) : PC := nextPc s.my.pc s.m.ir.length

/-- The instruction retires and control continues at a PC. -/
def State.jump (s : State) (pc : PC) : State := (s.upd fun c => { c with pc := pc }).setFate .retired
/-- The instruction retires and control continues with its successor. -/
def State.retire (s : State) : State := s.jump s.succ
/-- The context parks in a waiting instruction (08 R233). -/
def State.park (s : State) (w : Wait) : State :=
  (s.upd fun c => { c with run := .parked w s.succ }).setFate .parked

/-- A retired instruction enters the step history of debug mode, with the undo entries appended since a place; its requests
have names from `name` up to the next one (18 R420). -/
def State.addHist (s : State) (k : Key) (c : CtxNo) (pc : PC) (since name : Nat) (irrev : Bool) : State :=
  if s.debug k then
    let seqs := (List.range ((s.core k).logHead - since)).map fun i => since + i
    s.updCtx k c fun x => { x with aux := { x.aux with hist := (⟨pc, name, s.m.nextId, seqs, irrev⟩ :: x.aux.hist).take 128 } }
  else s
/-- The history entry of the instruction that made the request of a name; none where it was taken back (18 R421). -/
def Ctx.updHist (x : Ctx) (name : Nat) (f : Hist → Hist) : Ctx :=
  match x.aux.hist.findIdx? fun h => decide (h.name ≤ name ∧ name < h.upto) with
  | some i => { x with aux := { x.aux with hist := lmod x.aux.hist i f } }
  | none => x
/-- The undo entries appended since a place belong to the instruction that made the request of a name (18 R420). -/
def State.lateHist (s : State) (k : Key) (c : CtxNo) (name since : Nat) : State :=
  let seqs := (List.range ((s.core k).logHead - since)).map fun i => since + i
  s.updCtx k c fun x => x.updHist name fun h => { h with seqs := h.seqs ++ seqs }
/-- The windows after an instruction has issued: those that were open cover one less (03 R76). -/
def Ctx.slide (x : Ctx) (old : List Window) : Ctx :=
  { x with aux := { x.aux with windows := (x.aux.windows.map fun w =>
      if old.any (fun o => decide (o.id = w.id)) then { w with left := w.left - 1 } else w).filter fun w => decide (0 < w.left) } }
/-- The context takes the debug stop that it was asked for (18 R418). -/
def State.debugStop (s : State) (k : Key) (c : CtxNo) (scope : Fin 3) : State :=
  let pc := (s.ctx k c).pc
  (s.updCtx k c fun x => { x with run := .stopped scope, aux := { x.aux with dbg := ⟨none, none, false⟩ } }).trace k c 8 pc
    scope.val 0

/-- The newest history entry is irrevocable from now on (18 R422). -/
def Ctx.irrevHist (x : Ctx) : Ctx :=
  { x with aux := { x.aux with hist := lmod x.aux.hist 0 fun h => { h with irrev := true } } }

/-- The newest history entry of every context of a core is irrevocable: a host record touched its slice (18 R422). -/
def State.irrevCore (s : State) (k : Key) : State :=
  s.updCore k fun co => { co with ctxs := co.ctxs.map Ctx.irrevHist }

/-! ## RGDEPTH (11 R323) -/

def Ctx.depth (c : Ctx) : Nat := c.aux.frames.length
def Ctx.rgdepth (c : Ctx) : Word :=
  let f := c.aux.frames.head?
  bit c.csr.txbody 8 ||| bit c.csr.ssunrec 7 ||| bit ((f.map (·.unrec)).getD false) 6 |||
    bit ((f.map (·.isSealed)).getD false) 5 ||| bit ((f.map (·.irv)).getD false) 4 ||| at_ (min c.depth 15) 0

/-! ## Course-fetch runs (09 R268) -/

/-- The run whose slaved context 0 this is. -/
def CourseRun.has (r : CourseRun) (k : Key) : Bool := decide (r.leader.val ≤ k.val ∧ k.val < r.leader.val + r.len)
def State.runOf (s : State) (k : Key) : Option CourseRun := s.sh.runs.find? fun r => r.has k
def CourseRun.member (r : CourseRun) (d : Nat) : Key := coreKey (r.leader.val + d)
/-- What the member at a distance executes again: the instruction that it issued last. -/
def CourseRun.redo (r : CourseRun) (d : Nat) : Option (PC × List Nat × Bool) :=
  if r.again.contains d then (r.last.find? fun e => e.1 = d).map (·.2) else none
/-- The forwarded instruction that is due at a distance and not issued yet: PC, words, whether the leader branched (09 R269); one that
is executed again goes first (18 R418). -/
def CourseRun.due (r : CourseRun) (d : Nat) : Option (PC × List Nat × Bool) :=
  if d = 0 then none else
  match r.redo d with
  | some e => some e
  | none => if r.done.contains d then none else (r.fwd.find? fun e => decide (e.1 + d = r.clock)).map (·.2)
/-- The oldest forwarded instruction that the follower at a distance has not issued. -/
def CourseRun.ahead (r : CourseRun) (d : Nat) : Option (PC × List Nat × Bool) :=
  match r.redo d with
  | some e => some e
  | none => (r.fwd.find? fun e => decide (r.clock < e.1 + d ∨ (r.clock = e.1 + d ∧ d ∉ r.done))).map (·.2)
/-- The follower at a distance has issued an instruction. -/
def CourseRun.issued (r : CourseRun) (d : Nat) (e : PC × List Nat × Bool) : CourseRun :=
  { r with last := (d, e) :: r.last.filter (fun q => q.1 ≠ d), again := r.again.filter (· ≠ d),
           done := if r.again.contains d then r.done else d :: r.done }
/-- A superstep rollback restarts the run (09 R271). -/
def CourseRun.restart (r : CourseRun) : CourseRun := { r with fwd := [], done := [], last := [], again := [] }
/-- The context is slaved to a run. -/
def State.slaved (s : State) (k : Key) (c : CtxNo) : Bool := decide (c = 0) && (s.runOf k).isSome

/-! ## Partition-fatal errors -/

/-- A partition-fatal error: a pre-emption is armed and the partition marked; an earlier T stands (17 R407). One that resumes is armed
at TR (evResumeStart). The report names the
PC of the consuming instruction, and the consumer's XPC, XCAUSE and RGDEPTH (17 Table 17.3). -/
def State.partFatal (s : State) (n : Nat) (k : Option Key) (ctx : Nat) (cause : BitVec 8) (v : Word) (pc : PC) : State :=
  let p := s.part n
  let s := s.setPart n
    { p with fatal := true, saveva := 0, savelen := 0,
             state := if p.state == .active then .armed else p.state,
             t := if p.state == .active || p.state == .resuming then s.tick2
               else if p.state == .armed then min p.t s.tick2 else p.t }
  let d := match k with
    | some k =>
      let x := s.ctx k (Fin.ofNat 4 ctx)
      x.csr.xpc.toNat + x.csr.xcause.toNat <<< 64 + x.rgdepth.toNat <<< 128
    | none => 0
  s.report n 2 k cause.toNat ctx 0 0 (at_ pc.toNat 0) v (BitVec.ofNat 512 d)

/-! ## Starting and ending contexts -/

/-- A lowest-numbered idle context. -/
def Core.idleCtx (co : Core) : Option CtxNo := allCtx.find? fun c => (co.ctx c).run == .idle

/-- How a context is started (02 R41, 08 R247). -/
structure Start where
  pc : PC
  a1 : Word
  a2 : Word
  x3 : Word
  x4 : Word
  cls : Fin 4
  mode : Mode
  txid : Word
  txbody : Bool
  recon : Option Bool
  deriving DecidableEq, Repr

/-- The context after a start under 02 R41: of the CSRs XVEC and UVEC keep their values, RGCAUSE (11 R323), and XCAUSE, XVALUE and XPC,
which R41 does not name (12 Table 12.10), while XSTATUS.UBUSY, SSCOUNT and PMODE take their reset values (log entry 87); what is still in flight (posted operations,
outstanding results, generations, released operations, unreported refusals) stays (04 R97, 10 R298), and so do a debug
stop that is asked for (18 R418) and armed triggers (08 R258: a context that was idle has none). -/
def Ctx.start (c : Ctx) (a : Start) : Ctx :=
  let r := Regs.init
  { regs := { r with x := (((r.x.set 1 a.a1).set 2 a.a2).set 3 a.x3).set 4 a.x4 }, pc := a.pc, run := .running,
    csr := { Csrs.init with
               cls := a.cls, mode := a.mode, xcause := c.csr.xcause, xvalue := c.csr.xvalue, xpc := c.csr.xpc,
               xvec := c.csr.xvec, uvec := c.csr.uvec, rgcause := c.csr.rgcause,
               txid := a.txid, txbody := a.txbody },
    aux := { Aux.init with
               deferred := c.aux.deferred.filter fun d => d.depth = 0, outs := c.aux.outs,
               posted := c.aux.posted, gens := c.aux.gens, refMask := c.aux.refMask, refCount := c.aux.refCount,
               refPc := c.aux.refPc, triggers := c.aux.triggers, recon := a.recon, dbg := c.aux.dbg } }

def State.startCtx (s : State) (k : Key) (c : CtxNo) (a : Start) : State :=
  let s := s.updCtx k c fun x => x.start a
  s.trace k c 0 a.pc a.cls.val 0

/-- Dispatchable: KIND 0, or KIND 1 with a handler PC (06 R178). -/
def dispatchable (e : VWord) : Bool := ekind e = 0 || (ekind e = 1 && ehpc e ≠ 0)

/-- An entry started in a context (06 R178). -/
def State.startEntry (s : State) (k : Key) (c : CtxNo) (i : RqItem) : State :=
  s.startCtx k c ⟨pcOf (ehpc i.e), eword i.e 1, eword i.e 2, 0, 0, 1, if i.sup then .supervisor else .user, 0, false,
    none⟩

/-- An entry with an uncorrectable word is consumed by the context that it starts: 0x21 at its first boundary, with an XVALUE that
no rule gives; a correctable word is counted (17 R403, R404). -/
def State.startErr (s : State) (k : Key) (c : CtxNo) (i : RqItem) : State :=
  match i.err with
  | some true => s.updCtx k c fun x => { x with aux := { x.aux with reports := x.aux.reports ++ [⟨0x21, none, x.pc⟩] } }
  | some false => s.countOneCe k
  | none => s

/-- How many entries of a kind of place the queue holds. -/
def placed (q : List RqItem) (p : Place) : Nat := (q.filter fun i => i.place == p).length

/-- The spill area in entries: SPSIZE × 64 (02 Table 2.8, 06 R176). -/
def Core.spillMax (co : Core) : Nat := bits co.csr.qtab 47 40 * 64
/-- Where the spill area begins, in offsets of the slice, and how long it is: the low 12 bits of the offset in SPBASE are ignored
(02 Table 2.8). -/
def Core.spillBase (co : Core) : Nat := bits co.csr.qtab 39 32 * 0x1000
def Core.spillLen (co : Core) : Nat := bits co.csr.qtab 47 40 * 0x1000

/-- Bytes of a core's local store read as unspecified bytes from now on. -/
def State.unspecify (s : State) (k : Key) (lo n : Nat) : State :=
  let t := s.setMem (s.sh.mem.fill (Loc.local_ k lo) (Loc.local_ k (lo + n)) (some s.m.freeCtr))
  { t with m := { t.m with freeCtr := t.m.freeCtr + 1 } }
/-- The spill area, as far as the local store reaches, reads as unspecified bytes (06 R176; log entry 7): one of a hod that lies beyond
its staging SRAM covers no byte and still holds its entries (log entry 132). -/
def State.spilled (s : State) (k : Key) : State :=
  let lo := min (s.core k).spillBase (localSize k)
  s.unspecify k lo (min (s.core k).spillLen (localSize k - lo))

/-- Spill entries moved into free arrival entries, oldest first (06 R176). -/
def settleRq : List RqItem → Nat → List RqItem
  | [], _ => []
  | i :: q, free =>
    match i.place, free with
    | .spill, n + 1 => { i with place := .arrival } :: settleRq q n
    | _, n => i :: settleRq q n

def Core.settle (co : Core) : Core := { co with rq := settleRq co.rq (48 - placed co.rq .arrival) }

/-- The attempts that wait for a context (09 R281). -/
def Core.txnWaiting (co : Core) : Nat := (co.attempts.filter fun a => a.stage == .ready || a.stage == .failed).length
/-- The context that a message starts: the lowest idle one that no waiting transaction takes (06 R178, 09 R281). -/
def Core.msgCtx (co : Core) : Option CtxNo := ((allCtx.filter fun c => (co.ctx c).run == .idle).drop co.txnWaiting).head?
/-- A context is stopped by the debugger (18 R418). -/
def Ctx.isStopped (c : Ctx) : Bool := match c.run with | .stopped _ => true | _ => false
def Core.anyStopped (co : Core) : Bool := allCtx.any fun c => (co.ctx c).isStopped

/-- An arrival at a core (06 R176, R178): started, queued or spilled; none when it is refused. -/
def State.arrive (s : State) (k : Key) (e : VWord) (sup : Bool) : Option State :=
  let co := s.core k
  match (if dispatchable e then co.msgCtx else none) with
  | some c => some (s.startEntry k c ⟨e, sup, .arrival, none⟩)
  | none =>
    if placed co.rq .arrival < 48 && placed co.rq .spill = 0 then
      some (s.setCore k { co with rq := co.rq ++ [⟨e, sup, .arrival, none⟩] })
    else if placed co.rq .spill < co.spillMax then
      some ((s.setCore k { co with rq := co.rq ++ [⟨e, sup, .spill, none⟩] }).spilled k)
    else none

/-- An entry that the device produces: held and offered again every 1 µs when refused (06 R176). -/
def State.offer (s : State) (k : Key) (e : VWord) (sup : Bool) : State :=
  match (if s.liveCore k then s.arrive k e sup else none) with
  | some s' => s'
  | none => { s with sh := { s.sh with held := s.sh.held ++ [⟨.entry k e sup, s.now + 1000, s.partNo k⟩] } }

/-- A return entry: it cannot be refused (06 R176). -/
def State.arriveRet (s : State) (k : Key) (e : VWord) : State :=
  s.updCore k fun co => { co with rq := co.rq ++ [⟨e, false, .ret, none⟩] }

/-- The oldest dispatchable entry started in an idle context, when no transaction waits for it (06 R178, 09 R281). -/
def State.dispatchMsg (s : State) (k : Key) : State :=
  let co := s.core k
  match co.msgCtx, co.rq.findIdx? fun i => dispatchable i.e with
  | some c, some j =>
    match co.rq[j]? with
    | some i => ((s.setCore k { co with rq := co.rq.eraseIdx j }.settle).startEntry k c i).startErr k c i
    | none => s
  | _, _ => s

/-- XVALUE of a report of refusals, and the report cleared (06 R188). -/
def Ctx.refValue (c : Ctx) : Word :=
  at_ c.aux.refMask.toNat 32 ||| at_ (min c.aux.refCount 65535) 16 ||| at_ (c.aux.refPc.getD 0).toNat 0
def Ctx.clearRef (c : Ctx) : Ctx := { c with aux := { c.aux with refMask := 0, refCount := 0, refPc := none } }

/-- An unreported refusal of an idle context becomes a KIND 6 entry (06 R188). Its MASK is the denial mask, its SPC the
first refused operation's PC, its TAG the count (log entry 14). -/
def State.reportRef (s : State) (k : Key) (c : CtxNo) : State :=
  let x := s.ctx k c
  if x.aux.refPc.isNone then s else
  let e := entry 6 s.device (index k) (isHod k) c.val 0x0B 0 0 0 (at_ (min x.aux.refCount 65535) 0)
    (at_ (x.aux.refPc.getD 0).toNat 0) (at_ x.aux.refMask.toNat 0)
  (s.updCtx k c Ctx.clearRef).offer k e false

/-- The counter of a cause (17 Table 17.5). -/
def State.countCause (s : State) (k : Key) (cause : BitVec 8) : State :=
  match cause.toNat with
  | 0x20 => s.updCore k fun co => co.count 2
  | 0x21 => s.updCore k fun co => co.count 1
  | 0x23 => s.updCore k fun co => co.count 4
  | 0x24 => s.updCore k fun co => co.count 5
  | _ => s
/-- A cause that reaches an idle context: it is counted, and a KIND 6 entry tells the cause and the PC of the instruction that it
concerns (17 R405, R415, 15 R381; log entry 14). -/
def State.tellIdle (s : State) (k : Key) (c : CtxNo) (cause : BitVec 8) (pc : PC) : State :=
  (s.countCause k cause).offer k
    (entry 6 s.device (index k) (isHod k) c.val cause.toNat 0 0 0 0 (at_ pc.toNat 0) 0) false
/-- A context that becomes idle: its triggers are cleared (08 R258), and it runs no transaction body and no recon entry any more
(11 R323). -/
def Ctx.toIdle (x : Ctx) : Ctx :=
  { x with run := .idle, csr := { x.csr with txbody := false },
           aux := { x.aux with triggers := [], windows := [], far := none, reports := [], recon := none, body := none } }
/-- A context becomes idle (04 R97): causes that waited for its next boundary, and an unreported refusal, are written to the queue
(17 R405, 06 R188), and a waiting message is started in it (06 R178). -/
def State.becomeIdle (s : State) (k : Key) (c : CtxNo) : State :=
  let x := s.ctx k c
  let s := (s.updCtx k c Ctx.toIdle).trace k c 1 x.pc 0 0
  let s := x.aux.reports.foldl (fun s r => s.tellIdle k c r.cause r.pc) s
  (s.reportRef k c).dispatchMsg k

/-- The device and the core index of a slice address (02 R48). -/
def devOf (a : Word) : BitVec 8 := BitVec.ofNat 8 (bits a 59 52)
def coreOf (a : Word) : Nat := bits a 31 20
/-- Device 0xFF names the issuing device (02 R48). -/
def State.resolve (s : State) (d : BitVec 8) : BitVec 8 := if d = 0xFF then s.device else d

/-- Every registration of a transfer is released. -/
def State.releaseRanges (s : State) (id : RangeOwner) (src : Key) : State :=
  { s with cores := s.cores.map fun e =>
      (e.1, { e.2 with ranges := e.2.ranges.filter fun r => !(decide (r.owner = id ∧ r.by_ = src.val)) }) }

/-- The name under which a transfer holds ranges. -/
def Req.rangeName (r : Req) : RangeOwner :=
  match r.op with
  | .cfetch .. => .cfetch r.id
  | _ => .copy r.id

/-- Deferred operations of a context that satisfy a test are discarded (06 R149). -/
def State.dropDeferred (s : State) (k : Key) (c : CtxNo) (p : Deferred → Bool) : State :=
  s.updCtx k c fun x => { x with aux := { x.aux with deferred := x.aux.deferred.filter fun d => !p d } }

/-- An attempt has a grant with FAIL (11 R317). -/
def Attempt.fail (a : Attempt) : Bool := a.got.any (·.2.2)
/-- The failed attempts of a transaction, this one among them (11 Table 11.2). -/
def Attempt.failures (a : Attempt) : Nat := a.fails + if a.fail then 1 else 0

/-- A recon context that becomes idle without a restart submission withdraws its transaction, and completes its attempt
(11 R309, R315, R317). -/
def State.endRecon (s : State) (k : Key) (c : CtxNo) : State :=
  match (s.core k).attempts.find? fun a => a.stage == .recon c with
  | none => s
  | some a =>
    let again := (s.ctx k c).aux.recon == some true
    let s := s.updCore k fun co => { co with attempts := co.attempts.filter fun b => !(b.stage == .recon c) }
    if again then s else
    let n := s.partNo k
    let s := s.updPart n fun p => { p with lane := { p.lane with pending := p.lane.pending.filter fun q => q ≠ a.key } }
    if a.txn.compl = 0 then s else
    s.postEntry n ⟨s.resolve (devOf a.txn.compl), coreOf a.txn.compl⟩
      (entry 5 s.device (index k) (isHod k) 0 0 0 a.key (at_ 1 0 ||| at_ (min a.failures 255) 8) a.txn.desc 0 0)

/-! ## Taking an exception, and returning from one (08 R261, R262) -/


/-- SEGSTAT.ST of the segment of a PC (02 Table 2.8). -/
def Core.segSt (co : Core) (pc : PC) : Nat := co.csr.seg[pc.toNat / 0x2000 % 4].toNat % 4

/-- A course-fetch run broken by a trap or upcall of a member, at the faulting instruction's PC: every other member's context 0
becomes idle and its core receives a KIND 7 entry (09 R271, 15 Table 15.7). -/
def State.breakRun (s : State) (k : Key) (cause : BitVec 8) (pc : PC) : State :=
  match s.runOf k with
  | none => s
  | some r =>
    let s := { s with sh := { s.sh with runs := s.sh.runs.filter fun q => q.leader ≠ r.leader } }
    (List.range r.len).foldl (fun s d =>
      let j := coreKey (r.leader.val + d)
      if j = k then s else
      (s.becomeIdle j 0).offer j
        (entry 7 s.device k.val false 0 cause.toNat 0 0 1 (at_ k.val 0) (at_ pc.toNat 0) 0) false) s

/-- A context halts: it becomes idle; what its open region deferred is lost, and the locks of a transaction body that it
ran stay held (17 Table 17.2; log entry 28). -/
def State.stopHere (s : State) (k : Key) (c : CtxNo) : State :=
  let s := (s.dropDeferred k c fun d => decide (d.depth ≠ 0)).endRecon k c
  (s.updCore k fun co => { co with attempts := co.attempts.map fun a => if a.stage == .body c then { a with stage := .lost } else a }).becomeIdle k c

/-- The context cannot take the trap: it halts, and the host is told (08 R261, 17 R405). -/
def State.haltCtx (s : State) (k : Key) (c : CtxNo) (cause : BitVec 8) (v : Word) (spc : PC) : State :=
  (s.report (s.partNo k) 1 (some k) cause.toNat c.val 0 0 (at_ spc.toNat 0) v 0).stopHere k c

/-- The context after trap entry (08 R261): XCAUSE, XVALUE and XPC are written, PMODE takes the mode, the mode becomes
supervisor, control goes to XVEC; windows close (03 R79), and a hod's far access is over: the next is translated anew
(15 R366). -/
def Ctx.enterTrap (x : Ctx) (cause : BitVec 8) (v : Word) (pc : PC) : Ctx :=
  { x with
    pc := x.csr.xvec.pc, run := .running,
    csr := { x.csr with
               xcause := cause, xvalue := v, xpc := pc, pmode := x.csr.mode, mode := .supervisor },
    aux := { x.aux with windows := [], far := none } }

/-- The context after upcall entry (08 R261): the mode stays user. -/
def Ctx.enterUpcall (x : Ctx) (cause : BitVec 8) (v : Word) (pc : PC) : Ctx :=
  { x with
    pc := x.csr.uvec.pc, run := .running,
    csr := { x.csr with ucause := cause, uvalue := v, upc := pc, ubusy := true },
    aux := { x.aux with windows := [], far := none } }

/-- The part of 08 R261 after the rollback test: upcall, halt or trap. A trap or upcall of a slaved context breaks its run
(09 R271). `pc` is what XPC takes, `spc` the PC of the instruction that the cause concerns. -/
def State.vector (s : State) (k : Key) (c : CtxNo) (cause : BitVec 8) (v : Word) (pc spc : PC) : State :=
  let s := if s.slaved k c then s.breakRun k cause spc else s
  let x := s.ctx k c
  if cause = 0x0D && x.csr.mode == .user && !x.csr.ubusy && x.csr.uvec.valid then
    (s.updCtx k c fun x => x.enterUpcall cause v pc).trace k c 2 pc cause.toNat 0
  else if !x.csr.xvec.valid || (s.core k).segSt x.csr.xvec.pc ≠ 2 then s.haltCtx k c cause v spc
  else (s.updCtx k c fun x => x.enterTrap cause v pc).trace k c 2 pc cause.toNat 0

/-- The level of 11 Table 11.8 that a cause from 0x20 to 0x24 rolls back. -/
inductive Level where
  | region | body | superstep | fatal | vector
  deriving DecidableEq, Repr

/-- 11 Table 11.8 with the bounds of 17 R406: a superstep is rolled back where it is recoverable at every core of its rectangle
and no core has rolled it back 15 times. -/
def State.level (s : State) (k : Key) (c : CtxNo) : Level :=
  let x := s.ctx k c
  match x.aux.frames.head? with
  | some f => if f.isSealed || f.unrec then .vector else .region
  | none =>
    if x.csr.txbody then (if x.aux.body.isSome && decide (x.aux.bodyRetry < 255) then .body else .vector)
    else match x.aux.ss with
      | some f => if (s.gang k f.rect f.level).any fun e => !e.2.2.recov || decide ((s.core e.1).ssRolls ≥ 15) then .fatal
        else .superstep
      | none => .vector

/-- A context begins to roll back: it issues nothing more, a waiting instruction is abandoned, windows close
(11 R325, 03 R79). One that the debugger has stopped is stopped again where the rollback leads (18 R418). -/
def Ctx.beginRoll (x : Ctx) (r : Roll) : Ctx :=
  { x with run := .rolling r,
           aux := { x.aux with windows := [], far := none,
                               dbg := if x.isStopped then { x.aux.dbg with want := some 0 } else x.aux.dbg } }


/-- A superstep rollback begins at every core of its rectangle (09 R279). -/
def State.beginSs (s : State) (k : Key) (c : CtxNo) (cause : BitVec 8) : State :=
  match (s.ctx k c).aux.ss with
  | none => s
  | some f =>
    (s.gang k f.rect f.level).foldl (fun s e =>
      let origin := decide (e.1 = k ∧ e.2.1 = c)
      s.updCtx e.1 e.2.1 fun x => x.beginRoll (.superstep (if origin then cause else 0x25) origin)) s

/-- The one exception operation: a cause reaches a context with the PC that its XPC takes and the PC of the instruction that it
concerns (08 R261, 11 R324). -/
def State.deliver (s : State) (k : Key) (c : CtxNo) (cause : BitVec 8) (v : Word) (pc spc : PC) : State :=
  let s := s.countCause k cause
  if 0x20 ≤ cause.toNat && cause.toNat ≤ 0x24 then
    match s.level k c with
    | .region => s.updCtx k c fun x => x.beginRoll (.region cause)
    | .body => s.updCtx k c fun x => x.beginRoll (.body cause)
    | .superstep => s.beginSs k c cause
    | .fatal => (s.partFatal (s.partNo k) (some k) c.val cause v spc).stopHere k c
    | .vector => s.vector k c cause v pc spc
  else s.vector k c cause v pc spc

/-- A trap of the instruction being executed: XPC is its PC and it has no other effect (08 R261). -/
def State.raise (s : State) (cause : BitVec 8) (v : Option Word) : State :=
  let (w, s) := match v with
    | some w => (w, s)
    | none => s.freeWord
  (s.deliver s.me s.cc cause w s.my.pc s.my.pc).setFate (.trapped cause)

/-- A trigger fires: it is cleared and counted, and its cause is raised (08 R258, 17 R415). -/
def State.fireTrigger (s : State) (k : Key) (c : CtxNo) (kind : Fin 4) : State :=
  (s.updCtx k c fun x => { x with aux := { x.aux with triggers := x.aux.triggers.filter fun t => t.1 ≠ kind } }).updCore k
    fun co => co.count 7

/-- A trigger of a kind is armed (08 R258). -/
def Ctx.trigger (c : Ctx) (k : Fin 4) : Option Word := (c.aux.triggers.find? fun t => t.1 = k).map (·.2)

/-- The context is slaved to a run that another core leads (09 R268). -/
def State.follower (s : State) (k : Key) (c : CtxNo) : Bool :=
  decide (c = 0) && (match s.runOf k with
    | some r => decide (r.leader ≠ k)
    | none => false)

/-- The PC at which a context goes on after an instruction boundary at which it stands as `x`: that of the next instruction to issue.
A follower's is the oldest forwarded instruction that it has not issued or, where there is none, the next of its leader (09 R268,
R269); a waiting instruction is abandoned and issues again (08 R233). -/
def State.resumePc (s : State) (k : Key) (c : CtxNo) (x : Ctx) : PC :=
  match x.run, (if s.follower k c then s.runOf k else none) with
  | .running, some r =>
    ((r.ahead (k.val - r.leader.val)).map (·.1)).getD (match (s.ctx r.leader 0).run with
      | .parked _ succ => succ
      | _ => (s.ctx r.leader 0).pc)
  | _, _ => x.pc

/-- The checker stage finds the retiring instruction wrong: trigger 1 is armed (08 R258), or its logic failed (17 Table 17.1). -/
def Ctx.faulty (x : Ctx) : Bool := x.aux.flaw || (x.trigger 1).isSome

/-- Such an instruction does not commit: cause 0x20, with an XVALUE that no rule gives (log entry 11). -/
def State.blocked (s : State) (k : Key) (c : CtxNo) : State :=
  let t := if (s.ctx k c).aux.flaw then s.updCtx k c fun x => { x with aux := { x.aux with flaw := false } }
    else s.fireTrigger k c 1
  let r := t.freeWord
  (r.2.deliver k c 0x20 r.1 (r.2.ctx k c).pc (r.2.ctx k c).pc).setFate (.trapped 0x20)

/-- A waiting instruction retires (08 R233). A follower's PC stays that of the instruction (09 R268). -/
def State.wake (s : State) (k : Key) (c : CtxNo) : State :=
  let pc := (s.ctx k c).pc
  match (s.ctx k c).run with
  | .parked _ succ =>
    if (s.ctx k c).faulty then s.blocked k c
    else (s.addHist k c pc (s.core k).logHead s.m.nextId false).updCtx k c fun x =>
      { x with run := .running, pc := if s.follower k c then pc else succ }
  | _ => s

/-- How exec ends: the state of the meaning, or the trap, or the unchanged state marked as stalled. -/
def conclude (s : State) (r : Res) : Host.Outcome State Fault Refusal :=
  match r with
  | .ok t => .next t
  | .error .stall => .next (s.setFate .stalled)
  | .error (.trap c v) => .next (s.raise c v)
  | .error (.full co v) => .next ((s.setLogged s.me (s.myCore.madeRoom co)).raise 0x12 v)
  | .error (.inject c v k) => .next ((s.fireTrigger s.me s.cc k).raise c (some v))

/-- An event ends: the new state, or, where the event is not enabled, the same state (log entry 3). -/
def fire (s : State) (r : Option State) : Host.Outcome State Fault Refusal :=
  .next ((r.getD s).setFate .quiet)

/-- XVALUE of a fault of the instruction as a whole: its base word and that word's position (03 R85). -/
def State.baseWord (s : State) : Word := at_ (s.m.ir.getLastD 0) 0 ||| at_ (s.m.ir.length - 1) 16

/-- The state that ERET leaves, or its trap (08 R262). -/
def State.eret (s : State) : Res := do
  let x := s.my
  let (t, newmode) ← (if x.csr.mode = .supervisor then pure (x.csr.xpc, x.csr.pmode)
    else if x.csr.ubusy then pure (x.csr.upc, Mode.user) else trapV 0x02 s.baseWord)
  need (s.myCore.segSt t = 2) (trapV 0x06 (at_ t.toNat 0))
  pure ((s.upd fun x =>
    { x with pc := t, csr := { x.csr with ubusy := if x.csr.mode = .user then false else x.csr.ubusy, mode := newmode },
             aux := { x.aux with windows := [] } }).setFate .retired)

/-! ## Irrevocable actions (06 R150, 11 R327) -/

/-- The region and every enclosing one are sealed: the deferred operations are released, a seal marker is appended, each
frame is marked. -/
def State.sealAll (s : State) : Res := do
  let (s, _) ← s.openWindow s.me s.cc 5
  pure (s.upd fun x =>
    { x with aux := { x.aux with frames := x.aux.frames.map fun f => { f with isSealed := true },
                                 deferred := x.aux.deferred.map fun d => { d with depth := 0 } } })

/-- An irrevocable action is about to be performed: 0x11 in a region not opened irrevocable, else the region is sealed. -/
def State.irrevocable (s : State) : Res :=
  match s.my.aux.frames.head? with
  | none => .ok s
  | some f => if !f.irv then trapF 0x11 else if f.isSealed then .ok s else s.sealAll

/-! ## Pegs and reports -/

/-- A cause is left for the context's next instruction boundary (08 R261), with the PC of the instruction that it concerns. -/
def State.later (s : State) (k : Key) (c : CtxNo) (cause : BitVec 8) (v : Option Word) (spc : PC) : State :=
  s.updCtx k c fun x => { x with aux := { x.aux with reports := x.aux.reports ++ [⟨cause, v, spc⟩] } }

/-- The context rolls back: a fault found while its results and tiles settle is discarded (11 R325). -/
def Ctx.isRolling (x : Ctx) : Bool := match x.run with | .rolling _ => true | _ => false

/-- A decrement of a peg by an engine or a barrier: below zero it is not applied and raises 0x09 (08 R234). Sources: 1
copy, 2 stream, 3 kiln tile, 4 barrier release, 5 CFETCH. A context that waits on the peg can be chosen from the next cycle
(R236). `spc` is the PC of the instruction whose work the source did. -/
def State.pegDec (s : State) (k : Key) (c : CtxNo) (g : Reg8) (source : Nat) (spc : PC) : State :=
  let n := (s.ctx k c).g g
  if n = 0 then s.later k c 0x09 (some (at_ g.val 0 ||| at_ source 4)) spc
  else s.updCtx k c fun x =>
    let x := x.putG g (n - 1)
    if n = 1 then { x with aux := { x.aux with wakeAt := x.aux.wakeAt.set g (s.cycle + 1) } } else x

end Sys2Proof.Machine
end

