-- ==== Sys2Proof/Machine/Operands.lean ====
section
/-! DEFINITION. Operand forms: effective element types, addresses and their checks, format windows, the range-lock table,
and reads and writes of the local store. -/
namespace Sys2Proof.Machine
open Sys2Proof

/-! ## Types, predicates, rounding modes -/

/-- Cause 0x01 for the instruction as a whole. -/
def State.illegal {α : Type} (s : State) : Except Stop α := trapV 0x01 s.baseWord

/-- XVALUE of a fault of the first prefix of a kind in the instruction being executed; where it has none, of the base word
(03 R85). -/
def State.prefixWord (s : State) (kind : Nat) : Word :=
  let e := findExt kind s.m.ir 0
  if e.2 < s.m.ir.length then at_ e.1 0 ||| at_ e.2 16 else s.baseWord

/-- Cause 0x01 for a field that a prefix of a kind holds (03 R85; log entry 9). -/
def State.illegalIn {α : Type} (s : State) (kind : Nat) : Except Stop α := trapV 0x01 (s.prefixWord kind)

/-- XVALUE of a fault of bits of an immediate without base bits: the first IMX that holds one of them (03 R85; log entry 97). -/
def State.immWord (s : State) (v : Nat) : Word :=
  let e := findImx (imxOf 0 v) s.m.ir 0
  if e.2 < s.m.ir.length then at_ e.1 0 ||| at_ e.2 16 else s.baseWord

/-- Cause 0x01 for bits of an immediate. -/
def State.illegalImm {α : Type} (s : State) (v : Nat) : Except Stop α := trapV 0x01 (s.immWord v)

/-- The effective type (05 R120), in a set that the entry accepts (01 R12); the base word is at fault, wherever the type comes
from. -/
def State.effType (s : State) (ty : Option ETy) (ok : ETy → Bool) : Except Stop ETy :=
  match ty.orElse fun _ => etyOf s.my.csr.vtype.toNat with
  | some t => if ok t then .ok t else s.illegal
  | none => s.illegal

def setNum (t : ETy) : Bool := t.isFp || t.isInt
def setW8 (t : ETy) : Bool := decide (8 ≤ t.width)
def setAny (_ : ETy) : Bool := true

/-- The mode of VCTL.RM (01 R27); 6 and 7 are never held. -/
def rmOf : Nat → Rm
  | 1 => .rtz | 2 => .rdn | 3 => .rup | 4 => .rna | 5 => .sr | _ => .rne

/-- The rounding mode in force (05 R122). -/
def State.rm (s : State) (r : Option Rm) : Rm := r.getD (rmOf s.my.csr.rm.toNat)

/-! ## Addresses (02 R48 to R50) -/

/-- Bit 63: slice space. -/
def isSlice (a : Word) : Bool := a.getLsbD 63
def winOf (a : Word) : Nat := bits a 62 60
def offOf (a : Word) : Nat := bits a 19 0

/-- CONFIG.DOMSIZE of the executing core. -/
def State.domsize (s : State) : Nat := bits (s.part (s.partNo s.me)).config 39 32

/-- The format of a presented address (02 R49): 0x0E with the address, 0x0B for a device outside the domain. -/
def State.checkFormat (s : State) (a : Word) : Except Stop Unit :=
  if isSlice a then
    if bits a 51 32 ≠ 0 ∨ (0xC0 ≤ (devOf a).toNat ∧ (devOf a).toNat ≠ 0xFF) then trapV 0x0E a
    else if (devOf a).toNat ≠ 0xFF ∧ s.domsize ≤ (devOf a).toNat then trapF 0x0B
    else .ok ()
  else if bits a 62 57 ≠ 0 then trapV 0x0E a else .ok ()

/-- The core that owns a slice address. -/
def State.owner (s : State) (a : Word) : Owner := ⟨s.resolve (devOf a), coreOf a⟩

/-- The address names the executing core's own local store (02 R50, 06 R154). -/
def State.isOwn (s : State) (a : Word) : Bool :=
  isSlice a && decide (s.resolve (devOf a) = s.device) &&
    (if isHod s.me then decide (coreOf a = 0) && decide (winOf a = 0) else decide (coreOf a = s.me.val))

/-- The locality check of LD, ST and VMEM (02 R50, 06 R154): 0x04. -/
def State.checkLocal (s : State) (a : Word) : Except Stop Unit :=
  if s.isOwn a || (isHod s.me && !isSlice a) then .ok () else trapV 0x04 a

/-- The owner key of an own-package slice owner. -/
def ownerKey (o : Owner) : Key := coreKey o.key

/-! ## The range-lock table (06 R147, 10 R301) -/

/-- Two ranges of bytes overlap. -/
def overlap (a b c d : Nat) : Bool := decide (a < d) && decide (c < b) && decide (a < b) && decide (c < d)

/-- An engine range still counts. -/
def Range.on (r : Range) (cycle : Nat) : Bool :=
  match r.till with
  | some t => decide (cycle < t)
  | none => true

/-- The landing zone of an attempt that is not complete locks its 24 tiles (11 R315), but not for its own context. -/
def landingOff (t : Txn) : Nat := offOf t.disp
def Attempt.ctxOf (a : Attempt) : Option CtxNo :=
  match a.stage with
  | .body k => some k
  | .recon k => some k
  | .committing k _ _ => k
  | _ => none

/-- A range of offsets of a core meets a landing zone whose own context is not the given one: one in which bytes of a grant have
landed (11 R315). -/
def Core.landingHit (co : Core) (c : Option CtxNo) (lo hi : Nat) : Bool :=
  co.attempts.any fun a => !(a.got.isEmpty && a.part_.isEmpty) && decide (a.ctxOf ≠ c ∨ c = none) &&
    overlap lo hi (landingOff a.txn) (landingOff a.txn + 0x18000)

/-- The mark of a tile by its lock manager: a write grant held, or read grants only (10 R301). -/
def Core.tileMark (co : Core) (tile : Nat) : Option Bool :=
  let g := co.lkm.queue.filter fun r => r.granted && decide (r.tile = tile)
  if g.isEmpty then none else some (g.any (·.write))

/-- The tiles of a range of offsets. -/
def tilesOf (lo hi : Nat) : List Nat :=
  if hi ≤ lo then [] else (List.range ((hi - 1) / 0x1000 - lo / 0x1000 + 1)).map fun i => lo / 0x1000 + i

/-- The bytes of a live-range table at an offset: its header and as many entries as COUNT says (08 Table 8.9; DEDUCED). -/
def State.tableLen (s : State) (k : Key) (off : Nat) : Nat := 64 + 8 * (s.sh.mem.read (Loc.local_ k off) 1 % 128)

/-- A range of offsets meets write-locked bytes (first answer) or any locked bytes (second), for an access of context c;
`self` names the engine whose own ranges do not count (06 R147). The tiles of a hod's lock manager are far tiles (10 R303). -/
def State.lockHit (s : State) (k : Key) (c : Option CtxNo) (self : Option RangeOwner) (lo hi : Nat) : Bool × Bool :=
  let co := s.core k
  let rs := co.ranges.filter fun r => r.on s.cycle && decide (some r.owner ≠ self) && overlap lo hi r.lo r.hi
  let marks := if isHod k then [] else (tilesOf lo hi).filterMap fun t => co.tileMark t
  let land := co.landingHit c lo hi
  let chk := allCtx.any fun d => match (co.ctx d).csr.chk with
    | some o => overlap lo hi o.toNat (o.toNat + s.tableLen k o.toNat)
    | none => false
  (rs.any (·.write) || marks.any (fun b => b) || land, !rs.isEmpty || !marks.isEmpty || land || chk)

/-- The lowest offset of a range that is locked against a write (`write`) or a read, if any. -/
def State.lowestHit (s : State) (k : Key) (c : Option CtxNo) (self : Option RangeOwner) (write : Bool) (lo hi : Nat) :
    Nat :=
  ((List.range (hi - lo)).find? fun i =>
    let h := s.lockHit k c self (lo + i) (lo + i + 1)
    if write then h.2 else h.1).getD 0 + lo

/-- The first argument of checks by bytes: raw ranges (offset, length) are free of locks for a thread access. -/
def State.locksFree (s : State) (store : Bool) (rs : List (Nat × Nat)) : Bool :=
  rs.all fun r =>
    let h := s.lockHit s.me (some s.cc) none r.1 (r.1 + r.2)
    !(if store then h.2 else h.1)

/-- A range to register conflicts with a range of another engine or of a transaction, one of the two being write-locked
(10 R300). -/
def State.conflict (s : State) (k : Key) (self : Option RangeOwner) (write : Bool) (lo hi : Nat) : Bool :=
  let co := s.core k
  (co.ranges.any fun r => r.on s.cycle && decide (some r.owner ≠ self) && (r.write || write) && overlap lo hi r.lo r.hi) ||
    (!isHod k && (tilesOf lo hi).any fun t => match co.tileMark t with | some w => w || write | none => false) ||
    co.landingHit none lo hi

/-- The lowest offset of a range at which it conflicts: the start of a range it meets, or its own start. -/
def State.conflictAt (s : State) (k : Key) (self : Option RangeOwner) (write : Bool) (lo hi : Nat) : Nat :=
  let co := s.core k
  let cands := lo :: (co.ranges.map (·.lo) ++ (tilesOf lo hi).map (· * 0x1000) ++ co.attempts.map fun a => landingOff a.txn)
  ((cands.filter fun o => decide (lo ≤ o ∧ o < hi) && s.conflict k self write o (o + 1)).foldl min hi)

/-- A range registered for an engine. -/
def State.register (s : State) (k : Key) (r : Range) : State :=
  s.updCore k fun co => { co with ranges := co.ranges ++ [r] }
/-- An engine's ranges released. -/
def State.unregister (s : State) (k : Key) (src : Nat) (o : RangeOwner) : State :=
  s.updCore k fun co => { co with ranges := co.ranges.filter fun r => !(decide (r.owner = o) && decide (r.by_ = src)) }
/-- Engine entries in use of the 32. -/
def State.rangesUsed (s : State) (k : Key) : Nat := ((s.core k).ranges.filter fun r => r.on s.cycle).length

/-! ## Format windows (02 R51 to R54) -/

def winEn (d : Word) : Bool := d.getLsbD 63
def winSrc (d : Word) : Nat := bits d 62 59
def winDst (d : Word) : Nat := bits d 58 55
def winSbase (d : Word) : Nat := bits d 39 20 / 64 * 64
def winDbase (w : Nat) (d : Word) : Nat :=
  if w = 1 ∨ (w = 7 ∧ winSrc d = 13) then bits d 19 0 / 64 * 64 else bits d 19 0

/-- The window is enabled and its types are allowed (02 R52, R53). -/
def winOk (w : Nat) (d : Word) : Bool :=
  winEn d && (if w = 6 then decide (8 ≤ winSrc d ∧ winSrc d ≤ 11)
    else if w = 7 then decide (winSrc d ≤ 13 ∧ winSrc d ≠ 6 ∧ 7 ≤ winDst d ∧ winDst d ≤ 9) else true)

/-- The decoded type of a window (02 Table 2.6). -/
def winType (w : Nat) (d : Word) : ETy :=
  if w = 6 then (if winSrc d = 9 then .f16 else .bf16) else (etyOf (winDst d)).getD .bf16

/-- The raw ranges (offset, length) behind decoded element e, and its decoded code given a reader of bytes
(02 Table 2.6). Through window 6 every element needs both stored values of its group and the byte of its metadata, a position
that decodes to +0 too (02 R53; log entry 90). -/
def winElem (w : Nat) (d : Word) (rd : Nat → Nat → Nat) (e : Nat) : List (Nat × Nat) × Nat :=
  let db := winDbase w d
  let sb := winSbase d
  let src := (etyOf (winSrc d)).getD .bf16
  let dst := winType w d
  if src = .q4n then
    let b := db + 8512 * (e / 16384)
    let i := e % 16384
    let v := q4nValue (rd (b + i / 2) 1 >>> (4 * (i % 2)) % 16) (rd (b + 8192 + i / 64) 1) (rd (b + 8448) 4)
    ([(b + i / 2, 1), (b + 8192 + i / 64, 1), (b + 8448, 4)], if dst = .bf16 then v else cvtRne .bf16 dst v)
  else if src = .e2m1 then
    ([(db + e / 2, 1), (sb + e / 32, 1)],
      convert dst .rne 0 false (mxValue (valueOf .e2m1 (rd (db + e / 2) 1 >>> (4 * (e % 2)) % 16)) (rd (sb + e / 32) 1)))
  else
    let sw := src.width / 8
    if w = 6 then
      let j := e / 4
      let nib := rd (sb + j / 2) 1 >>> (4 * (j % 2)) % 16
      let p0 := nib % 4
      let p1 := nib / 4
      ([(db + 2 * j * sw, 2 * sw), (sb + j / 2, 1)],
        if p1 ≤ p0 then nanOf dst
        else if e % 4 = p0 then cvtRne src dst (rd (db + 2 * j * sw) sw)
        else if e % 4 = p1 then cvtRne src dst (rd (db + (2 * j + 1) * sw) sw)
        else 0)
    else ([(db + e * sw, sw)], cvtRne src dst (rd (db + e * sw) sw))

/-- n decoded bytes at a decoded offset, with the raw ranges behind them; none where 02 R53 fails. -/
def winRead (w : Nat) (d : Word) (rd : Nat → Nat → Nat) (off n : Nat) : Option (Nat × List (Nat × Nat)) :=
  if !winOk w d || n = 0 then none else
  let dw := (winType w d).width / 8
  let e0 := off / dw
  let es := (List.range ((off + n - 1) / dw - e0 + 1)).map fun i => winElem w d rd (e0 + i)
  let raw := es.flatMap (·.1)
  if raw.all fun r => decide (r.1 + r.2 ≤ 0x100000) then
    some (packLanes (8 * dw) (es.map (·.2)) >>> (8 * (off % dw)) % 2 ^ (8 * n), raw)
  else none

/-- Bytes of the local store of a core or hod. -/
def State.peek (s : State) (k : Key) (off n : Nat) : Nat := s.sh.mem.read (Loc.local_ k off) n

/-- n bytes of an owner's slice through a window, by the descriptor given (02 R54). -/
def State.readVia (s : State) (k : Key) (w : Nat) (d : Word) (off n : Nat) : Option (Nat × List (Nat × Nat)) :=
  if w = 0 then (if off + n ≤ localSize k then some (s.peek k off n, [(off, n)]) else none)
  else winRead w d (s.peek k) off n

/-- The descriptor of a window (02 R51: WIN0 is raw). -/
def Core.win (co : Core) (w : Nat) : Word := co.csr.win[w % 8]

/-- The lowest and highest raw byte of ranges. -/
def hull (rs : List (Nat × Nat)) : Nat × Nat :=
  (rs.foldl (fun m r => min m r.1) 0x100000, rs.foldl (fun m r => max m (r.1 + r.2)) 0)

/-! ## Far memory of hods (06 R154) -/

/-- A far address at its block's physical address, once the access is translated. -/
def State.farPhys (s : State) (va : Word) (write : Bool) : Option Nat :=
  match s.my.aux.far with
  | some f => if f.write = write then
      match f.phys with
      | some l => (aget l (va.toNat / 0x10000)).map fun p => p + va.toNat % 0x10000
      | none => none
    else none
  | none => none

/-- A far range as ranges that each lie in one block of 64 KiB; an access has at most 64 bytes. -/
def farSplit (a : Word) (n : Nat) : List (Word × Nat) :=
  let r := 0x10000 - a.toNat % 0x10000
  if n ≤ r then [(a, n)] else [(a, r), (a + BitVec.ofNat 64 r, n - r)]

/-- The blocks that ranges lie in, each with the first address named there. -/
def blocksOf (vas : List (Word × Nat)) : List (Nat × Nat) :=
  vas.foldl (fun l a => if l.any (fun b => decide (b.1 = a.1.toNat / 0x10000)) then l
    else l ++ [(a.1.toNat / 0x10000, a.1.toNat)]) []

/-- The context parks until its translation slice answers (06 R154). -/
def State.farStart (s : State) (vas : List (Word × Nat)) (write : Bool) : State :=
  let (id, s) := s.freshId
  (s.park .far).upd fun c => { c with aux := { c.aux with far := some ⟨id, blocksOf vas, write, none, [], []⟩ } }

/-- The far access is over. -/
def State.farEnd (s : State) : State := s.upd fun c => { c with aux := { c.aux with far := none } }

/-! ## Transaction bodies (06 R151) -/

/-- The raw bytes lie in a tile of the declared set's landing zone, for a store in a write tile. -/
def State.bodyOk (s : State) (store : Bool) (rs : List (Nat × Nat)) : Bool :=
  if !s.my.csr.txbody then true else
  match s.myCore.attempts.find? fun a => a.stage == .body s.cc with
  | none => false
  | some a =>
    rs.all fun r => (tilesOf r.1 (r.1 + r.2)).all fun t =>
      let i := t - landingOff a.txn / 0x1000
      decide (landingOff a.txn / 0x1000 ≤ t) &&
        ((!store && decide (i < a.txn.reads.length)) || (decide (16 ≤ i) && decide (i - 16 < a.txn.writes.length)))

/-- Every instruction of majors 15, 22, 28 and stream forms trap in a body (06 R151). -/
def State.noBody (s : State) : Except Stop Unit :=
  if s.my.csr.txbody then trapF 0x13 else .ok ()

/-! ## Reads and writes of LD, ST and VMEM (06 R146) -/

/-- One piece of a load: address and length, checked in the order of 06 R146 steps 1 to 4 and 6, 7; the answer holds the
raw ranges and the value. A far piece of a hod answers with its physical place. -/
inductive Piece where
  | raw (rs : List (Nat × Nat)) (val : Nat)
  | far (va : Word) (n : Nat)
  deriving DecidableEq, Repr

/-- Steps 1 to 4 for addresses with an alignment, each step over all of them in order (06 R145, R146). -/
def State.checkAccesses (s : State) (store : Bool) (as_ : List Word) (n align : Nat) : Except Stop Unit := do
  as_.forM s.checkFormat
  as_.forM s.checkLocal
  match as_.find? fun a => store && isSlice a && decide (winOf a ≠ 0) with
  | some a => trapV 0x19 a
  | none => pure ()
  match as_.find? fun a => decide (a.toNat % align ≠ 0) with
  | some a => trapV 0x03 a
  | none => pure ()
  match as_.find? fun a => isSlice a && decide (localSize s.me < offOf a + n) with
  | some a => trapV 0x0E a
  | none => pure ()

def State.checkAccess (s : State) (store : Bool) (a : Word) (n align : Nat) : Except Stop Unit :=
  s.checkAccesses store [a] n align

/-- The bytes behind a checked load address (02 R53). -/
def State.loadPiece (s : State) (a : Word) (n : Nat) : Except Stop Piece :=
  if !isSlice a then .ok (.far a n)
  else match s.readVia s.me (winOf a) (s.myCore.win (winOf a)) (offOf a) n with
    | some (v, rs) => .ok (.raw rs v)
    | none => trapV 0x0E a

/-- The raw ranges of a piece; none for far memory. -/
def Piece.raws : Piece → List (Nat × Nat)
  | .raw rs _ => rs
  | .far _ _ => []

/-- The first word in error among raw ranges of the local store. -/
def State.badRaw (s : State) (rs : List (Nat × Nat)) : Option Nat :=
  rs.findSome? fun r => if r.2 = 0 then none else s.badWord (Loc.local_ s.me r.1) r.2

/-- The slice address of a raw word in error, in the address space of an access (17 R404). -/
def badAddr (a : Word) (place : Nat) : Word :=
  (a &&& 0x8FFFFFFFFFF00000) ||| at_ (place * 8 % 0x100000) 0

/-- The correctable words among bytes at places of the byte store are counted for a core, each once (06 R152, 17 R415). -/
def State.countCeAt (s : State) (k : Key) (ps : List (Nat × Nat)) : State :=
  let ws := (ps.flatMap fun p => if p.2 = 0 then [] else
    ((List.range ((p.1 + p.2 - 1) / 8 - p.1 / 8 + 1)).map (p.1 / 8 + ·)).filter fun w => s.sh.ce.contains w).eraseDups
  ws.foldl (fun s _ => s.countOneCe k) s

/-- The words in error among bytes at places of the byte store. -/
def State.badPlaces (s : State) (ps : List (Nat × Nat)) : List Nat :=
  (ps.flatMap fun p => if p.2 = 0 then [] else
    ((List.range ((p.1 + p.2 - 1) / 8 - p.1 / 8 + 1)).map (p.1 / 8 + ·)).filter fun w => s.sh.ue.contains w).eraseDups

/-- The bytes of 64, by place, of whose two nibbles a store writes just one: it reads the other (06 R161). -/
def halfBytes (t : ETy) (on : List Nat) : List Nat :=
  if t.width = 4 then (List.range 64).filter fun j => on.contains (2 * j) != on.contains (2 * j + 1) else []

/-- The correctable words of raw ranges of a local store are counted. -/
def State.countCe (s : State) (k : Key) (rs : List (Nat × Nat)) : State :=
  s.countCeAt k (rs.map fun r => (Loc.local_ k r.1, r.2))

/-- The far pieces of a load, by blocks. -/
def fars (ps : List (Word × Piece)) : List (Word × Nat) :=
  ps.flatMap fun p => match p.2 with | .far a n => farSplit a n | .raw .. => []

/-- Locks, body tiles and stored errors of the pieces of a read, after every address is checked (06 R146, R152). -/
def State.checkReads (s : State) (ps : List (Word × Piece)) : Except Stop Unit := do
  let rs := ps.flatMap fun p => p.2.raws
  if !s.bodyOk false rs || (s.my.csr.txbody && !(fars ps).isEmpty) then trapF 0x13
  match ps.find? fun p => !s.locksFree false p.2.raws with
  | some p => trapV 0x05 p.1
  | none => pure ()
  match ps.findSome? fun p => (s.badRaw p.2.raws).map fun w => badAddr p.1 w with
  | some v => trapV 0x21 v
  | none => pure ()

/-- The checks of a load: those of a read, and the trigger of FAULTINJ kind 0, which imitates the real error (08 R258). -/
def State.checkLoads (s : State) (ps : List (Word × Piece)) : Except Stop Unit := do
  s.checkReads ps
  match s.my.trigger 0 with
  | some t => (match ps.find? fun p => p.2.raws.any fun r => overlap r.1 (r.1 + r.2) (offOf t) (offOf t + 8) with
    | some p => .error (.inject 0x21 (badAddr p.1 (Loc.local_ s.me (offOf t) / 8)) 0)
    | none => pure ())
  | none => pure ()

/-- The bytes of far ranges that follow one another, each read at its own block's place (10 R304). -/
def State.farVal (s : State) : List (Word × Nat) → Nat
  | [] => 0
  | f :: fs => (match s.farPhys f.1 false with
    | some ph => s.sh.mem.read ph f.2
    | none => 0) + 256 ^ f.2 * s.farVal fs

/-- The value of a piece: a far piece is read at its stacks (10 R304). -/
def State.pieceVal (s : State) (p : Piece) : Nat :=
  match p with
  | .raw _ v => v
  | .far va n => s.farVal (farSplit va n)

/-- Not every range is translated yet: the context must first wait. -/
def State.farPending (s : State) (write : Bool) (fars : List (Word × Nat)) : Bool :=
  fars.any fun f => (s.farPhys f.1 write).isNone

/-- The lines of 64 bytes (place, length) that bytes of far memory lie in: a line with a word in error is returned poisoned, whichever
of its bytes are read (17 Table 17.1). -/
def farLines (ph n : Nat) : Nat × Nat := (ph / 64 * 64, (ph % 64 + n + 63) / 64 * 64)

/-- The line of far memory that holds a place is returned poisoned. -/
def State.lineBad (s : State) (ph : Nat) : Bool := (s.badWord (ph / 64 * 64) 64).isSome
/-- A byte of the byte store reads in error: its word does, or its line in far memory (17 R403). -/
def State.badAt (s : State) (a : Nat) : Bool := if a < Loc.farEnd then s.lineBad a else (s.badWord a 1).isSome

/-- A poisoned line of far memory reaches a hod's load: the address of its word in error (17 R403, R404). -/
def State.farBad (s : State) (fs : List (Word × Nat)) : Option Word :=
  fs.findSome? fun f => match s.farPhys f.1 false with
    | some ph => (s.badWord (farLines ph f.2).1 (farLines ph f.2).2).map fun w =>
        at_ (f.1.toNat / 0x10000 * 0x10000 + w * 8 % 0x10000) 0
    | none => none

/-- The mark that the lock manager of a far block's owner sets on the tile of a far address (10 R303). -/
def State.farMark (s : State) (va : Word) : Option Bool :=
  match s.my.aux.far with
  | some f => match aget f.owners (va.toNat / 0x10000) with
    | some h => (s.core (hodKey h)).tileMark (va.toNat / 0x1000)
    | none => none
  | none => none

/-- A far range touches a tile that is write-locked or, for a store, locked at all (10 R303). -/
def State.farLocked (s : State) (store : Bool) (f : Word × Nat) : Bool :=
  ([f.1, f.1 + BitVec.ofNat 64 (f.2 - 1)] : List Word).any fun a => match s.farMark a with
    | some w => w || store
    | none => false

/-- The load of pieces: waits for translation, or goes on with the values (06 R154). -/
def State.withLoads (s : State) (ps : List (Word × Piece)) (go : State → List Nat → Res) : Res := do
  s.checkLoads ps
  let fs := fars ps
  if s.farPending false fs then pure (s.farStart fs false)
  else match fs.find? (s.farLocked false), s.farBad fs with
    | some f, _ => trapV 0x05 f.1
    | none, some a => trapV 0x21 a
    | none, none => do
      let s := s.countCe s.me (ps.flatMap fun p => p.2.raws)
      let s' ← go s (ps.map fun p => s.pieceVal p.2)
      pure (if fs.isEmpty then s' else s'.farEnd)

/-- A piece (address, length, value) of a far store by blocks, at their places. -/
def State.farPut (s : State) (p : Word × Nat × Nat) : List (Nat × Nat × Nat) :=
  let l := farSplit p.1 p.2.1
  l.filterMap fun f => (s.farPhys f.1 true).map fun ph => (ph, f.2, p.2.2 / 256 ^ ((f.1 - p.1).toNat))

/-- Pieces (place, length, value) written to the stacks: a word that they cover whole is no longer in error (17 R404). -/
def State.putPlaces (s : State) (ps : List (Nat × Nat × Nat)) : State :=
  let ws := (wordsOf ps).filter (wholeWord ps)
  { s with sh := { s.sh with mem := ps.foldl (fun m p => m.write p.1 p.2.1 p.2.2) s.sh.mem,
                             ue := s.sh.ue.filter fun w => !ws.contains w,
                             ce := s.sh.ce.filter fun w => !ws.contains w } }

/-- Stores: the ranges (address, length) are checked in order, then the pieces (address, length, value), which depend on the
bytes in place, are written as one (06 R146, R156). A far store is translated before it has any effect (15 R379). -/
def State.withStoresOf (s : State) (chk : List (Word × Nat)) (pieces : State → List (Word × Nat × Nat)) : Res := do
  let own := chk.filter fun p => isSlice p.1
  let far := (chk.filter fun p => !isSlice p.1).flatMap fun p => farSplit p.1 p.2
  let raw := own.map fun p => (offOf p.1, p.2)
  if !s.bodyOk true raw || (s.my.csr.txbody && !far.isEmpty) then trapF 0x13
  match own.find? fun p => !s.locksFree true [(offOf p.1, p.2)] with
  | some p => trapV 0x05 p.1
  | none => pure ()
  if s.farPending true far then do
    let _ ← s.irrevocable
    pure (s.farStart far true)
  else match far.find? (s.farLocked true) with
  | some f => trapV 0x05 f.1
  | none => do
    let s ← (if far.isEmpty then .ok s else s.irrevocable)
    let ps := pieces s
    let s ← s.putOwn ((ps.filter fun p => isSlice p.1).map fun p => (offOf p.1, p.2.1, p.2.2))
    pure (if far.isEmpty then s.retire
      else (s.putPlaces ((ps.filter fun p => !isSlice p.1).flatMap s.farPut)).farEnd.retire)

/-- The stores of pieces (address, length, value). -/
def State.withStores (s : State) (ps : List (Word × Nat × Nat)) : Res :=
  s.withStoresOf (ps.map fun p => (p.1, p.2.1)) fun _ => ps

end Sys2Proof.Machine
end

