-- ==== Sys2Proof/Machine/Flags.lean ====
section
/-! DEFINITION. The status, control and special registers: the CSR map with its rights, the value each CSR reads as, and
what a write changes, field by field (02 R55 to R59, 08 R260, 09 R275, 10 R297, 11 R323, 18 R424). -/
namespace Sys2Proof.Machine
open Sys2Proof

/-- A right of 02 Table 2.4. -/
inductive Right where
  | no | r | rw
  deriving DecidableEq, Repr

/-- User and supervisor rights of a CSR number; none for a number absent from the table (02 R55, R56). -/
def csrRights (n : Nat) : Option (Right × Right) :=
  if n = 0 then some (.r, .rw)
  else if n ≤ 4 then some (.no, .rw)
  else if n ≤ 0xC then some (.rw, .rw)
  else if n ≤ 0x10 then some (.r, .r)
  else if n = 0x11 then some (.r, .rw)
  else if n ≤ 0x13 then some (.rw, .rw)
  else if n ≤ 0x17 then some (.r, .r)
  else if n ≤ 0x19 then some (.rw, .rw)
  else if n < 0x100 then none
  else if n ≤ 0x102 then some (.r, .r)
  else if n = 0x103 then none
  else if n ≤ 0x10B then some (.r, .rw)
  else if n < 0x110 then none
  else if n ≤ 0x117 then some (.rw, .rw)
  else if n ≤ 0x11B then some (.r, .r)
  else if n = 0x11C then some (.r, .rw)
  else if n = 0x11D then some (.no, .rw)
  else if n = 0x11E then some (.r, .rw)
  else if n = 0x11F then some (.rw, .rw)
  else none

/-- XSTATUS (02 Table 2.8). -/
def Ctx.xstatus (x : Ctx) (c : CtxNo) : Word :=
  at_ c.val 14 ||| at_ x.csr.cls.val 12 ||| bit x.csr.ubusy 5 ||| bit (x.csr.pmode = .supervisor) 4 |||
    bit (x.csr.mode = .supervisor) 3

def vecWord (v : Vec) : Word := bit v.valid 63 ||| at_ v.pc.toNat 0

/-- COREID (02 Table 2.8). -/
def State.coreid (s : State) (k : Key) : Word :=
  let dev := (s.part (s.partNo k)).device.toNat
  if isHod k then bit true 63 ||| at_ dev 40 ||| at_ (dieOf k) 38 ||| at_ (index k) 0
  else at_ dev 40 ||| at_ (dieOf k) 38 ||| at_ (palletOf k.val) 24 ||| at_ (kilnOf k.val) 15 |||
    at_ (qslotOf k.val) 12 ||| at_ k.val 0

/-- PATHCk: posted operations outstanding on a path (10 R297). -/
def Ctx.pathc (x : Ctx) (k : Nat) : Nat := (x.aux.posted.filter fun p => decide (p.path.val = k)).length

/-- The value of a CSR of a context (02 R57, R58). -/
def State.csrRead (s : State) (k : Key) (c : CtxNo) (n : Nat) : Word :=
  let x := s.ctx k c
  let co := s.core k
  match n with
  | 0x000 => x.xstatus c
  | 0x001 => at_ x.csr.xcause.toNat 0
  | 0x002 => x.csr.xvalue
  | 0x003 => at_ x.csr.xpc.toNat 0
  | 0x004 => vecWord x.csr.xvec
  | 0x005 => vecWord x.csr.uvec
  | 0x006 => at_ x.csr.ucause.toNat 0
  | 0x007 => x.csr.uvalue
  | 0x008 => at_ x.csr.upc.toNat 0
  | 0x009 => at_ x.csr.vtype.toNat 0
  | 0x00A => bit x.csr.ftz 3 ||| at_ x.csr.rm.toNat 0
  | 0x00B => x.csr.rndkey
  | 0x00C => x.csr.rndctr
  | 0x00D => at_ x.csr.rgcause.toNat 0
  | 0x00E => x.rgdepth
  | 0x00F => at_ x.csr.rgretry.toNat 0
  | 0x010 => x.csr.txid
  | 0x011 => x.csr.sscount
  | 0x012 => at_ x.csr.slotbase.toNat 0
  | 0x013 => at_ x.csr.slotwin.toNat 0
  | 0x014 => at_ (x.pathc 0) 0
  | 0x015 => at_ (x.pathc 1) 0
  | 0x016 => at_ (x.pathc 2) 0
  | 0x017 => at_ (x.pathc 3) 0
  | 0x018 => bit x.csr.chk.isSome 63 ||| at_ x.csr.chkoff.toNat 0
  | 0x019 => at_ x.aux.labels.length 16 ||| at_ x.top.toNat 0
  | 0x100 => s.coreid k
  | 0x101 => 0x10000
  | 0x102 => (s.part (s.partNo k)).config
  | 0x118 => at_ co.csr.seg[0].toNat 0 ||| at_ co.csr.seg[1].toNat 8 ||| at_ co.csr.seg[2].toNat 16 |||
      at_ co.csr.seg[3].toNat 24
  | 0x119 => at_ (co.logHead % 8192 * 16) 0
  | 0x11A => at_ ((co.logHead - co.log.length) % 8192 * 16) 0
  | 0x11B => at_ co.wnum.toNat 0
  | 0x11C => co.csr.qtab
  | 0x11D => co.csr.trctl ||| at_ co.trace.rate.val 4
  | 0x11E => at_ co.csr.msgmax.toNat 0
  | 0x11F => at_ co.csr.kweight.toNat 0
  | n =>
    if 0x104 ≤ n ∧ n ≤ 0x107 then co.csr.dm[n % 4]
    else if 0x108 ≤ n ∧ n ≤ 0x10B then co.csr.brect[n % 4]
    else if 0x110 ≤ n ∧ n ≤ 0x117 then co.csr.win[n % 8]
    else 0

/-- The bits of a word that a mask selects, over the old word. -/
def fields (mask old new : Word) : Word := (new &&& mask) ||| (old &&& ~~~mask)

def vecOf (w : Word) : Vec := ⟨w.getLsbD 63, pcOf w.toNat⟩

/-- The writable fields of a window descriptor (02 Table 2.5); window 6 decodes to f16 exactly for f16 sources. The types of windows 1 to
5 are read-only and stay, so WIN1 does not read as the word that 12 Table 12.4 gives (log entry 111). -/
def winWrite (i : Nat) (old new : Word) : Word :=
  if i = 0 then 0
  else if i = 6 then
    let w := fields 0xF80000FFFFFFFFFF old new
    fields 0x0780000000000000 w (at_ (if winSrc w = 9 then 9 else 8) 55)
  else if i = 7 then fields 0xFF8000FFFFFFFFFF old new
  else fields 0x800000FFFFFFFFFF old new

/-- A rectangle of BRECT: first row, first column, rows, columns (02 Table 2.8). -/
def brectOf (w : Word) : Nat × Nat × Nat × Nat := (bits w 27 22, bits w 21 16, bits w 14 8, bits w 6 0)

/-- The CSRs of a context after a write (02 R58, R59, 01 R27, 09 R275). -/
def Ctx.csrWrite (x : Ctx) (n : Nat) (w : Word) : Ctx :=
  let c := x.csr
  match n with
  | 0x000 => { x with csr := { c with ubusy := w.getLsbD 5, pmode := if w.getLsbD 4 then .supervisor else .user } }
  | 0x001 => { x with csr := { c with xcause := BitVec.ofNat 8 w.toNat } }
  | 0x002 => { x with csr := { c with xvalue := w } }
  | 0x003 => { x with csr := { c with xpc := pcOf w.toNat } }
  | 0x004 => { x with csr := { c with xvec := vecOf w } }
  | 0x005 => { x with csr := { c with uvec := vecOf w } }
  | 0x006 => { x with csr := { c with ucause := BitVec.ofNat 8 w.toNat } }
  | 0x007 => { x with csr := { c with uvalue := w } }
  | 0x008 => { x with csr := { c with upc := pcOf w.toNat } }
  | 0x009 => { x with csr := { c with vtype := BitVec.ofNat 4 w.toNat } }
  | 0x00A => { x with csr := { c with
                                ftz := w.getLsbD 3,
                                rm := if bits w 2 0 < 6 then BitVec.ofNat 3 w.toNat else c.rm } }
  | 0x00B => { x with csr := { c with rndkey := w } }
  | 0x00C => { x with csr := { c with rndctr := w } }
  | 0x011 => { x with csr := { c with sscount := w } }
  | 0x012 => { x with csr := { c with slotbase := BitVec.ofNat 20 (w.toNat / 8 * 8) } }
  | 0x013 => { x with csr := { c with slotwin := if bits w 9 0 ≤ 512 then BitVec.ofNat 10 w.toNat else c.slotwin } }
  | 0x018 => { x with csr := { c with
                                chk := if w.getLsbD 63 then some (BitVec.ofNat 20 (w.toNat / 64 * 64)) else none,
                                chkoff := BitVec.ofNat 20 (w.toNat / 64 * 64) } }
  | 0x019 => if w.getLsbD 31 then { x with aux := { x.aux with labels := [] } } else x
  | _ => x

/-- The CSRs of a core after a write (02 R58, R59, R51, 18 R424). A write of BRECT with no rows or no columns whose other
dimension passes row or column 63 leaves the CSR unchanged too, which R59 leaves open (log entry 94). -/
def Core.csrWrite (co : Core) (n : Nat) (w : Word) : Core :=
  let c := co.csr
  match n with
  | 0x11C => if bits w 39 20 / 4096 * 4096 + bits w 47 40 * 4096 ≤ 0x100000
      then { co with csr := { c with qtab := w &&& 0xFFFFFFFFFFFF } } else co
  | 0x11D => { co with csr := { c with trctl := w &&& 0xC000FFFFFFFFFF0F },
                       trace := if w.getLsbD 63 && !c.trctl.getLsbD 63 then { co.trace with last := none }
                         else co.trace }
  | 0x11E => if 1 ≤ bits w 6 0 ∧ bits w 6 0 ≤ 64 then { co with csr := { c with msgmax := BitVec.ofNat 7 w.toNat } }
      else co
  | 0x11F => if bits w 3 0 = 0 then co else { co with csr := { c with kweight := BitVec.ofNat 4 w.toNat } }
  | n =>
    if 0x104 ≤ n ∧ n ≤ 0x107 then
      { co with csr := { c with dm := c.dm.set (n % 4) (w &&& 0x800000000000FFFF) (Nat.mod_lt _ (by decide)) } }
    else if 0x108 ≤ n ∧ n ≤ 0x10B then
      let r := brectOf w
      if r.1 + r.2.2.1 ≤ 64 ∧ r.2.1 + r.2.2.2 ≤ 64 then
        { co with csr := { c with brect := c.brect.set (n % 4) (w &&& 0xFFF7F7F) (Nat.mod_lt _ (by decide)) } }
      else co
    else if 0x110 ≤ n ∧ n ≤ 0x117 then
      { co with csr := { c with win := c.win.set (n % 8) (winWrite (n % 8) c.win[n % 8] w) (Nat.mod_lt _ (by decide)) } }
    else co

/-- A CSR written, field by field (02 R55, R57). A hod's DMn.EN stays 0 (08 R239). The spill area that QTAB names reads as
unspecified bytes (06 R176). -/
def State.csrPut (s : State) (k : Key) (c : CtxNo) (n : Nat) (w : Word) : State :=
  if n < 0x100 then s.updCtx k c fun x => x.csrWrite n w
  else
    let t := s.updCore k fun co => co.csrWrite n (if isHod k && decide (0x104 ≤ n ∧ n ≤ 0x107) then w &&& 0x7FFFFFFFFFFFFFFF else w)
    if n = 0x11C then t.spilled k else t

/-! ## Live-range tables (08 R255) -/

/-- The checks of a live-range table at a slice offset: the trap's XVALUE offset, if any. -/
def State.badTable (s : State) (off : Nat) : Option Nat :=
  let h := BitVec.ofNat 64 (s.peek s.me off 8)
  let n := bits h 6 0
  if n = 0 ∨ 64 < n ∨ bits h 63 7 ≠ 0 ∨ s.peek s.me (off + 8) 56 ≠ 0 ∨ localSize s.me < off + s.tableLen s.me off then some off
  else ((List.range n).map fun i => off + 64 + 8 * i).find? fun o =>
    let e := BitVec.ofNat 64 (s.peek s.me o 8)
    let lo := bits e 19 0
    let len := bits e 52 32
    !(decide (lo % 64 = 0) && decide (len % 64 = 0) && decide (64 ≤ len) && decide (lo + len ≤ 0x100000) &&
      decide (bits e 31 20 = 0) && decide (bits e 63 53 = 0))

/-- A slice address of the executing core. -/
def State.ownAddr (s : State) (off : Nat) : Word :=
  bit true 63 ||| at_ 0xFF 52 ||| at_ (if isHod s.me then 0 else s.me.val) 20 ||| at_ off 0

/-- Bytes of the executing core's local store that an instruction consumes hold an uncorrectable word: 0x21 with the word's
address, named as the given address is (17 R404). -/
def State.checkWords (s : State) (a : Word) (off n : Nat) : Except Stop Unit :=
  match s.badRaw [(off, n)] with
  | some w => trapV 0x21 (badAddr a w)
  | none => .ok ()

/-- The checks that CHKPT and a CSR write make of a table at an offset, named by an address (08 R255). -/
def State.checkTable (s : State) (a : Word) (off : Nat) : Except Stop Unit := do
  s.checkWords a off (min (s.tableLen s.me off) (localSize s.me - off))
  match s.badTable off with
  | some o => trapV 0x0E ((a &&& 0xFFFFFFFFFFF00000) ||| at_ o 0)
  | none => pure ()

end Sys2Proof.Machine
end

