-- ==== Sys2Proof/Machine/Alu.lean ====
section
/-! DEFINITION. Majors 1 to 5: integer arithmetic, shifts, products, divisions, comparisons, immediates (04 R100 to R102). -/
namespace Sys2Proof.Machine
open Sys2Proof

/-- x[A] = f(x[T], x[B]) (04 R100, R92). -/
def alu3 (f : Word → Word → Word) (o : R3) (s : State) : Res := do
  let s' ← s.setX o.a (f (s.x o.t) (s.x o.b))
  pure s'.retire

/-- x[A] = f(x[B]) (04 R100). -/
def alu2 (f : Word → Word) (o : R2) (s : State) : Res := do
  let s' ← s.setX o.a (f (s.x o.b))
  pure s'.retire

/-- x[A] = f(x[T], value) (04 R102). -/
def alui (f : Word → Word → Word) (o : RI) (s : State) : Res := do
  let s' ← s.setX o.a (f (s.x o.t) (BitVec.ofInt 64 o.imm))
  pure s'.retire

/-- The shift amount b[5:0]. -/
def sh (b : Word) : Nat := b.toNat % 64
def truth (b : Bool) : Word := if b then 1 else 0

/-- Leading zeros of the low n bits. -/
def clzN (w : Word) : Nat → Nat
  | 0 => 0
  | n + 1 => if w.getLsbD n then 0 else 1 + clzN w n

/-- Number of 1 bits of the low n bits. -/
def popN (w : Word) : Nat → Nat
  | 0 => 0
  | n + 1 => (if w.getLsbD n then 1 else 0) + popN w n

/-- Trailing zeros, from bit i on, n bits left. -/
def ctzN (w : Word) (i : Nat) : Nat → Nat
  | 0 => 0
  | n + 1 => if w.getLsbD i then 0 else 1 + ctzN w (i + 1) n

/-- Bytes reversed, n left. -/
def swapN (w : Nat) : Nat → Nat → Nat
  | 0, r => r
  | n + 1, r => swapN (w / 256) n (r * 256 + w % 256)

/-- The quotients and remainders of R101. -/
def divS (a b : Word) : Word :=
  if b = 0 then BitVec.allOnes 64 else BitVec.ofInt 64 (Int.tdiv a.toInt b.toInt)
def remS (a b : Word) : Word := if b = 0 then a else BitVec.ofInt 64 (Int.tmod a.toInt b.toInt)
def divU (a b : Word) : Word := if b = 0 then BitVec.allOnes 64 else BitVec.ofNat 64 (a.toNat / b.toNat)
def remU (a b : Word) : Word := if b = 0 then a else BitVec.ofNat 64 (a.toNat % b.toNat)

/-- A divide issues only when the core's divider is free, and holds it 36 cycles (04 R93). -/
def divide (f : Word → Word → Word) (o : R3) (s : State) : Res := do
  if s.cycle < s.myCore.divFree then stall
  alu3 f o (s.updMine fun co => { co with divFree := s.cycle + 36 })

/-- R100. -/
def execAdd (o : R3) (s : State) : Ending := conclude s (alu3 (fun a b => a + b) o s)
/-- R100. -/
def execSub (o : R3) (s : State) : Ending := conclude s (alu3 (fun a b => a - b) o s)
/-- R100. -/
def execAnd (o : R3) (s : State) : Ending := conclude s (alu3 (fun a b => a &&& b) o s)
/-- R100. -/
def execOr (o : R3) (s : State) : Ending := conclude s (alu3 (fun a b => a ||| b) o s)
/-- R100. -/
def execXor (o : R3) (s : State) : Ending := conclude s (alu3 (fun a b => a ^^^ b) o s)
/-- R100. -/
def execAndn (o : R3) (s : State) : Ending := conclude s (alu3 (fun a b => a &&& ~~~b) o s)
/-- R100. -/
def execMov (o : R2) (s : State) : Ending := conclude s (alu2 (fun b => b) o s)
/-- R100. -/
def execNeg (o : R2) (s : State) : Ending := conclude s (alu2 (fun b => 0 - b) o s)
/-- R100. -/
def execSll (o : R3) (s : State) : Ending := conclude s (alu3 (fun a b => a <<< sh b) o s)
/-- R100. -/
def execSrl (o : R3) (s : State) : Ending := conclude s (alu3 (fun a b => a >>> sh b) o s)
/-- R100. -/
def execSra (o : R3) (s : State) : Ending := conclude s (alu3 (fun a b => a.sshiftRight (sh b)) o s)
/-- R100. -/
def execRol (o : R3) (s : State) : Ending := conclude s (alu3 (fun a b => a <<< sh b ||| a >>> ((64 - sh b) % 64)) o s)
/-- R100. -/
def execClz (o : R2) (s : State) : Ending := conclude s (alu2 (fun b => at_ (clzN b 64) 0) o s)
/-- R100. -/
def execCtz (o : R2) (s : State) : Ending := conclude s (alu2 (fun b => at_ (ctzN b 0 64) 0) o s)
/-- R100. -/
def execPop (o : R2) (s : State) : Ending := conclude s (alu2 (fun b => at_ (popN b 64) 0) o s)
/-- R100. -/
def execBswap (o : R2) (s : State) : Ending := conclude s (alu2 (fun b => BitVec.ofNat 64 (swapN b.toNat 8 0)) o s)
/-- R100. -/
def execMul (o : R3) (s : State) : Ending := conclude s (alu3 (fun a b => a * b) o s)
/-- R100. -/
def execMulh (o : R3) (s : State) : Ending := conclude s (alu3 (fun a b => BitVec.ofInt 64 (a.toInt * b.toInt / 2 ^ 64)) o s)
/-- R100. -/
def execMulhu (o : R3) (s : State) : Ending := conclude s (alu3 (fun a b => BitVec.ofNat 64 (a.toNat * b.toNat / 2 ^ 64)) o s)
/-- R100. -/
def execMulhsu (o : R3) (s : State) : Ending := conclude s (alu3 (fun a b => BitVec.ofInt 64 (a.toInt * b.toNat / 2 ^ 64)) o s)
/-- R101. -/
def execDiv (o : R3) (s : State) : Ending := conclude s (divide divS o s)
/-- R101. -/
def execDivu (o : R3) (s : State) : Ending := conclude s (divide divU o s)
/-- R101. -/
def execRem (o : R3) (s : State) : Ending := conclude s (divide remS o s)
/-- R101. -/
def execRemu (o : R3) (s : State) : Ending := conclude s (divide remU o s)
/-- R100. -/
def execMin (o : R3) (s : State) : Ending := conclude s (alu3 (fun a b => if a.toInt ≤ b.toInt then a else b) o s)
/-- R100. -/
def execMax (o : R3) (s : State) : Ending := conclude s (alu3 (fun a b => if a.toInt ≤ b.toInt then b else a) o s)
/-- R100. -/
def execMinu (o : R3) (s : State) : Ending := conclude s (alu3 (fun a b => if a.toNat ≤ b.toNat then a else b) o s)
/-- R100. -/
def execMaxu (o : R3) (s : State) : Ending := conclude s (alu3 (fun a b => if a.toNat ≤ b.toNat then b else a) o s)
/-- R100. -/
def execSlt (o : R3) (s : State) : Ending := conclude s (alu3 (fun a b => truth (decide (a.toInt < b.toInt))) o s)
/-- R100. -/
def execSltu (o : R3) (s : State) : Ending := conclude s (alu3 (fun a b => truth (decide (a.toNat < b.toNat))) o s)
/-- R100. -/
def execSeq (o : R3) (s : State) : Ending := conclude s (alu3 (fun a b => truth (decide (a = b))) o s)
/-- R100. -/
def execSne (o : R3) (s : State) : Ending := conclude s (alu3 (fun a b => truth (decide (a ≠ b))) o s)
/-- R102. -/
def execAddi (o : RI) (s : State) : Ending := conclude s (alui (fun a v => a + v) o s)
/-- R102. -/
def execAndi (o : RI) (s : State) : Ending := conclude s (alui (fun a v => a &&& v) o s)
/-- R102. -/
def execOri (o : RI) (s : State) : Ending := conclude s (alui (fun a v => a ||| v) o s)
/-- R102. -/
def execXori (o : RI) (s : State) : Ending := conclude s (alui (fun a v => a ^^^ v) o s)
/-- R102. -/
def execSlli (o : RI) (s : State) : Ending := conclude s (alui (fun a v => a <<< sh v) o s)
/-- R102. -/
def execSrli (o : RI) (s : State) : Ending := conclude s (alui (fun a v => a >>> sh v) o s)
/-- R102. -/
def execSrai (o : RI) (s : State) : Ending := conclude s (alui (fun a v => a.sshiftRight (sh v)) o s)
/-- R102. -/
def execSlti (o : RI) (s : State) : Ending := conclude s (alui (fun a v => truth (decide (a.toInt < v.toInt))) o s)

end Sys2Proof.Machine
end

