-- ==== Sys2Proof/Machine/Control.lean ====
section
/-! DEFINITION. Majors 16 to 21, 24 and 25: LI, branches, LOOP, jumps, fenced transfers (04 R110 to R118). -/
namespace Sys2Proof.Machine
open Sys2Proof

/-- A target in the current segment, from a byte offset within it (04 R111). -/
def inSegment (pc : PC) (t : Int) : PC :=
  BitVec.ofNat 15 (pc.toNat / 0x2000 * 0x2000 + (t % 0x2000).toNat)

/-- A relative target: off half-words from the instruction's PC (04 R111). -/
def relTarget (pc : PC) (off : Int) : PC := inSegment pc ((pc.toNat % 0x2000 : Nat) + 2 * off)

/-- The direction of a branch or LOOP: on a follower of a course-fetch run the leader's (04 R95), else the condition's (04 R112
to R114). -/
def State.taken (s : State) (i : Instr) : Bool :=
  s.m.lead.getD (match i with
    | .beqz a _ => decide (s.x a = 0)
    | .bnez a _ => decide (s.x a ≠ 0)
    | .loop a _ => decide (1 < (s.x a).toNat)
    | .beq a b _ => decide (s.x a = s.x b)
    | .bne a b _ => decide (s.x a ≠ s.x b)
    | .blt a b _ => decide ((s.x a).toInt < (s.x b).toInt)
    | .bge a b _ => decide ((s.x b).toInt ≤ (s.x a).toInt)
    | .bltu a b _ => decide ((s.x a).toNat < (s.x b).toNat)
    | .bgeu a b _ => decide ((s.x b).toNat ≤ (s.x a).toNat)
    | _ => false)

/-- A branch (04 R111 to R113). -/
def branch (taken : Bool) (off : Int) (s : State) : Res :=
  .ok (if taken then s.jump (relTarget s.my.pc off) else s.retire)

/-- The link value: the PC of the successor (04 R111). -/
def State.link (s : State) : Word := at_ s.succ.toNat 0

/-- R110. -/
def execLi (a : Reg) (imm : Int) (s : State) : Ending :=
  conclude s (do
    let s' ← s.setX a (BitVec.ofInt 64 imm)
    pure s'.retire)
/-- R112. -/
def execBeqz (a : Reg) (off : Int) (s : State) : Ending := conclude s (branch (s.taken (.beqz a off)) off s)
/-- R112. -/
def execBnez (a : Reg) (off : Int) (s : State) : Ending := conclude s (branch (s.taken (.bnez a off)) off s)
/-- R114; a follower's count changes as the leader branched (04 R95). -/
def execLoop (a : Reg) (dist : Nat) (s : State) : Ending :=
  conclude s (do
    let taken := s.taken (.loop a dist)
    let s' ← s.setX a (if taken then s.x a - 1 else 0)
    pure (if taken then s'.jump (relTarget s.my.pc (-(dist : Int))) else s'.retire))
/-- R113. -/
def execBeq (a b : Reg) (off : Int) (s : State) : Ending := conclude s (branch (s.taken (.beq a b off)) off s)
/-- R113. -/
def execBne (a b : Reg) (off : Int) (s : State) : Ending := conclude s (branch (s.taken (.bne a b off)) off s)
/-- R113. -/
def execBlt (a b : Reg) (off : Int) (s : State) : Ending := conclude s (branch (s.taken (.blt a b off)) off s)
/-- R113. -/
def execBge (a b : Reg) (off : Int) (s : State) : Ending := conclude s (branch (s.taken (.bge a b off)) off s)
/-- R113. -/
def execBltu (a b : Reg) (off : Int) (s : State) : Ending := conclude s (branch (s.taken (.bltu a b off)) off s)
/-- R113. -/
def execBgeu (a b : Reg) (off : Int) (s : State) : Ending := conclude s (branch (s.taken (.bgeu a b off)) off s)
/-- R115. -/
def execJ (off : Int) (s : State) : Ending := conclude s (branch true off s)
/-- R115: the link value goes to x1. -/
def execJal (off : Int) (s : State) : Ending :=
  conclude s (do
    let s' ← s.setX 1 s.link
    branch true off s')
/-- R116, R118: within the segment; a misaligned target traps, on a follower the leader's target stands (04 R95). -/
def execJalr (a b : Reg) (off : Int) (s : State) : Ending :=
  conclude s (do
    let t := s.x b + BitVec.ofInt 64 off
    let target := inSegment s.my.pc (bits t 12 0)
    if s.m.lead.isNone && t.getLsbD 0 then trapV 0x03 (at_ (bits t 14 0) 0)
    let s' ← s.setX a s.link
    pure (s'.jump target))
/-- The fenced transfers (04 R117, R118); a follower fetches nothing, so its check is the leader's (04 R95). -/
def fenced (lnk : Option Reg) (t : Word) (s : State) : Res := do
  let v := at_ (bits t 14 0) 0
  if s.m.lead.isNone && t.getLsbD 0 then trapV 0x03 v
  if s.m.lead.isNone && decide (s.myCore.segSt (BitVec.ofNat 15 t.toNat) ≠ 2) then trapV 0x06 v
  let s' ← (match lnk with
    | some a => s.setX a s.link
    | none => .ok s)
  pure (s'.jump (BitVec.ofNat 15 t.toNat))
/-- R116, R117: RET is a fenced transfer and may reach another segment, as R117 states, though 02 R46 names only JF and CALLF
(log entry 95). -/
def execRet (b : Reg) (s : State) : Ending := conclude s (fenced none (s.x b) s)
/-- R116, R117. -/
def execJf (b : Reg) (off : Int) (s : State) : Ending := conclude s (fenced none (s.x b + BitVec.ofInt 64 off) s)
/-- R116, R117. -/
def execCallf (a b : Reg) (off : Int) (s : State) : Ending :=
  conclude s (fenced (some a) (s.x b + BitVec.ofInt 64 off) s)

end Sys2Proof.Machine
end

