-- ==== Sys2Proof/Machine/Csr.lean ====
section
/-! DEFINITION. Major 7: the CSR instructions (04 R108, R109). -/
namespace Sys2Proof.Machine
open Sys2Proof

/-- The rights of the current mode, checked in the order of R109. -/
def State.csrCheck (s : State) (n : Nat) : Except Stop Right :=
  match csrRights n with
  | none => s.illegalIn 0
  | some (u, v) =>
    match (if s.my.csr.mode = .user then u else v) with
    | .no => trapV 0x02 s.baseWord
    | acc => .ok acc

/-- The table that a value of CHKTAB names is read and checked; its correctable words are counted (08 R255, 17 R415). -/
def State.readTable (s : State) (w : Word) : Res := do
  let off := bits w 19 0 / 64 * 64
  s.checkTable (s.ownAddr 0) off
  pure (s.countCe s.me [(off, s.tableLen s.me off)])

/-- A CSR written by an instruction: CHKTAB is checked first, a CSR entry holds the old value, the fields change
(04 R94, R108, 08 R255). -/
def State.csrWriteI (s : State) (n : Fin 512) (w : Word) : Res := do
  let s ← (if n = 0x018 && w.getLsbD 63 then s.readTable w else .ok s)
  let s ← s.appendOwn ⟨.csr s.cc n, s.csrRead s.me s.cc n.val⟩
  pure (s.csrPut s.me s.cc n.val w)

/-- A read and write with the new value a function of the old (04 R108). The CSR entry is appended whatever the mode (R94), before
a write that R109 ignores too. -/
def csrRw (dst : Option Reg) (n : Fin 512) (f : Word → Word) (s : State) : Res := do
  let acc ← s.csrCheck n.val
  let old := s.csrRead s.me s.cc n.val
  let s ← (if acc = .rw then s.csrWriteI n (f old) else s.appendOwn ⟨.csr s.cc n, old⟩)
  match dst with
  | some a => do
    let s' ← s.setX a old
    pure s'.retire
  | none => pure s.retire

/-- R108. -/
def execCsrr (a : Reg) (n : Fin 512) (s : State) : Ending :=
  conclude s (do
    let _ ← s.csrCheck n.val
    let s' ← s.setX a (s.csrRead s.me s.cc n.val)
    pure s'.retire)
def execCsrw (n : Fin 512) (b : Reg) (s : State) : Ending := conclude s (csrRw none n (fun _ => s.x b) s)
def execCsrs (a : Reg) (n : Fin 512) (b : Reg) (s : State) : Ending :=
  conclude s (csrRw (some a) n (fun old => old ||| s.x b) s)
def execCsrc (a : Reg) (n : Fin 512) (b : Reg) (s : State) : Ending :=
  conclude s (csrRw (some a) n (fun old => old &&& ~~~(s.x b)) s)
def execCsrx (a : Reg) (n : Fin 512) (b : Reg) (s : State) : Ending :=
  conclude s (csrRw (some a) n (fun _ => s.x b) s)

end Sys2Proof.Machine
end

