-- ==== Sys2Proof/Machine/StreamOps.lean ====
section
/-! DEFINITION. What the stream instructions and the stream forms share (06 R166 to R173): the pattern, the extent, pops,
pushes, the end of a stream, the transfer unit's lines, course links. -/
namespace Sys2Proof.Machine
open Sys2Proof

/-- P(n): the element position, dimension 0 fastest (06 R166). -/
def patPos : List (Nat × Int) → Nat → Int
  | [], _ => 0
  | (c, st) :: r, n => (n % c : Nat) * st + patPos r (n / c)

/-- The lowest and highest element position. -/
def patLo : List (Nat × Int) → Int
  | [] => 0
  | (c, st) :: r => min 0 ((c - 1 : Nat) * st) + patLo r
def patHi : List (Nat × Int) → Int
  | [] => 0
  | (c, st) :: r => max 0 ((c - 1 : Nat) * st) + patHi r

/-- N, the product of the counts. -/
def patTotal : List (Nat × Int) → Nat
  | [] => 1
  | (c, _) :: r => c * patTotal r

/-- The place of element n in bits from the start of the presented slice. -/
def Stream.bitOff (t : Stream) (n : Nat) : Nat := ((offOf t.base * 8 : Int) + patPos t.dims n * t.ety.width).toNat
def Stream.byteOff (t : Stream) (n : Nat) : Nat := t.bitOff n / 8
/-- Bytes of an element. -/
def Stream.bytes (t : Stream) : Nat := (t.ety.width + 7) / 8
/-- The address of element n. -/
def Stream.addr (t : Stream) (n : Nat) : Word := (t.base &&& 0xFFFFFFFFFFF00000) ||| at_ (t.byteOff n) 0

/-- How many lines of 64 bytes buffered elements take, in order. -/
def Stream.lines (t : Stream) : List (Nat × Nat × Bool) → Nat
  | [] => 0
  | [_] => 1
  | a :: b :: r => (if t.byteOff a.1 / 64 = t.byteOff b.1 / 64 then 0 else 1) + t.lines (b :: r)

def State.strm (s : State) (k : Key) (i : Reg8) : Option Stream := (s.core k).strms[i]
def State.setStrm (s : State) (k : Key) (i : Reg8) (t : Option Stream) : State :=
  s.updCore k fun co => { co with strms := co.strms.set i t }

/-- The code of element n as the slice holds it now, with whether a word is in error. Where the window of the stream no longer
decodes it, the code is `z` (log entry 118). -/
def State.strmElem (s : State) (k : Key) (t : Stream) (n : Nat) (z : Word) : Nat × Bool :=
  let sh := t.bitOff n % 8
  match s.readVia k (winOf t.base) ((s.core k).win (winOf t.base)) (t.byteOff n) t.bytes with
  | some (v, rs) =>
    (v >>> sh % 2 ^ t.ety.width, rs.any fun r => (s.badWord (Loc.local_ k r.1) r.2).isSome)
  | none => (z.toNat % 2 ^ t.ety.width, false)

/-- The stream has returned or written everything (06 R168). -/
def Stream.complete (t : Stream) : Bool := decide (t.cursor = t.total) && (!t.write || t.buf.isEmpty)

/-- A stream is replaced by a later one of itself; at its completion the extent lock is released and the peg falls
(06 R168). -/
def State.putStrm (s : State) (k : Key) (i : Reg8) (old t : Stream) : State :=
  let s := s.setStrm k i (some t)
  if t.complete && !old.complete then
    let s := s.unregister k 0 (.strm i)
    if t.pegen then s.pegDec k t.ctx t.peg 2 (s.ctx k t.ctx).pc else s
  else s

/-- The instruction words at a PC of a core, within its segment. -/
def State.wordsAt (s : State) (k : Key) (pc : PC) (n : Nat) : List Nat :=
  (List.range n).map fun i => s.sh.mem.read (Loc.imem k.val (nextPc pc i).toNat) 2

/-- The words that a context issues next: at its PC or, in a follower of a course-fetch run, the forwarded ones that are due. -/
def State.wordsNext (s : State) (k : Key) (c : CtxNo) : List Nat :=
  match (if s.follower k c then s.runOf k else none) with
  | some r => ((r.due (k.val - r.leader.val)).map (·.2.1)).getD []
  | none => s.wordsAt k (s.ctx k c).pc 5

/-- The binding context stands at a vector pop of the stream. -/
def State.popStands (s : State) (k : Key) (i : Reg8) (t : Stream) : Bool :=
  match decode (s.wordsNext k t.ctx) with
  | .ok (.vld _ (.strm j) _, _) => decide (j = i)
  | _ => false

/-! ## The transfer unit (06 R168, 09 R285) -/

/-- The elements from n on that lie in the line of element n, at most `m` of them. -/
def Stream.run (t : Stream) (line : Nat) (n : Nat) : Nat → List Nat
  | 0 => []
  | m + 1 => if t.byteOff n / 64 = line then n :: t.run line (n + 1) m else []

/-- A read stream may take another line: it keeps up to four lines ahead of the cursor (09 R285). A vector pop that waits takes
the elements of lines already read, so that others can follow (06 R168; log entry 50). -/
def Stream.wants (t : Stream) (pop : Bool) : Bool :=
  !t.write && !t.err && decide (max t.fetched t.cursor < (if t.cpy then t.landed else t.total)) &&
    (decide (t.lines t.buf < 4) || (pop && decide (t.buf.length < t.ety.lanes)))

/-- The raw ranges behind element n. -/
def State.strmRaws (s : State) (k : Key) (t : Stream) (n : Nat) : List (Nat × Nat) :=
  match s.readVia k (winOf t.base) ((s.core k).win (winOf t.base)) (t.byteOff n) t.bytes with
  | some (_, rs) => rs
  | none => []

/-- The transfer unit reads the next line. An element that its window no longer decodes takes a free code (log entry 118). -/
def State.fillLine (s : State) (k : Key) (i : Reg8) : Option State :=
  match s.strm k i with
  | some t =>
    if t.wants (s.popStands k i t) then
      let n := max t.fetched t.cursor
      let ns := t.run (t.byteOff n / 64) n (min 128 ((if t.cpy then t.landed else t.total) - n))
      let es := ns.map fun j => (j, s.strmElem k t j (Config.freeWord (s.m.freeCtr + (j - n))))
      let s := { s with m := { s.m with freeCtr := s.m.freeCtr + ns.length } }
      some ((s.countCe k (ns.flatMap (s.strmRaws k t))).setStrm k i (some { t with fetched := n + ns.length, buf := t.buf ++ es }))
    else none
  | none => none

/-- The pieces of pushed elements (a nibble leaves the other nibble of its byte). -/
def State.strmPieces (s : State) (k : Key) (t : Stream) (es : List (Nat × Nat × Bool)) : List (Nat × Nat × Nat) :=
  (es.foldl (fun (a : Memory × List (Nat × Nat × Nat)) e =>
    let o := t.byteOff e.1
    let v := if t.ety.width = 4 then
        let b := (a.1.get (Loc.local_ k o)).toNat
        if t.bitOff e.1 % 8 = 0 then b / 16 * 16 + e.2.1 % 16 else b % 16 + e.2.1 % 16 * 16
      else e.2.1
    (a.1.write (Loc.local_ k o) t.bytes v, a.2 ++ [(o, t.bytes, v)])) (s.sh.mem, [])).2

/-- The bytes (offset, length) of which elements of 4 bits fill one nibble only: their store reads the other. -/
def Stream.halves (t : Stream) (es : List (Nat × Nat × Bool)) : List (Nat × Nat) :=
  if t.ety.width ≠ 4 then [] else
  let os := es.map fun e => t.bitOff e.1
  (os.filter fun o => !os.contains (if o % 8 = 0 then o + 4 else o - 4)).map fun o => (o / 8, 1)
/-- Elements of a write stream written by an engine, which read the other nibble where they fill half a byte (06 R152, 17 R404). -/
def State.putElems (s : State) (k : Key) (w : Writer) (t : Stream) (es : List (Nat × Nat × Bool)) : State :=
  let rd := t.halves es
  ((s.countCe k rd).putEngine k w (s.strmPieces k t es)).poison (s.badPlaces (rd.map fun q => (Loc.local_ k q.1, q.2)))
/-- The transfer unit writes the oldest line of pushed elements, as stores of the binding context. -/
def State.drainLine (s : State) (k : Key) (i : Reg8) : Option State :=
  match s.strm k i with
  | some t =>
    match t.buf with
    | [] => none
    | e :: _ =>
      if !t.write then none else
      let line := t.byteOff e.1 / 64
      let es := t.buf.takeWhile fun d => decide (t.byteOff d.1 / 64 = line)
      let s := s.putElems k ⟨⟨s.device, k.val⟩, t.ctx, true⟩ t es
      some (s.putStrm k i t { t with buf := t.buf.drop es.length })
  | none => none

/-! ## Pops and pushes (06 R159, R168) -/

/-- The stream that the context holds under a register, bound in a direction (02 R43). -/
def State.held (s : State) (i : Reg8) : Except Stop Stream :=
  match s.strm s.me i with
  | some t => if t.ctx = s.cc && (s.myCore.linkBy.isNone || i.val < 6) then .ok t else trapF 0x08
  | none => trapF 0x08

/-- m elements popped: their codes, past the end zero. A write stream is not popped, nor is a read stream pushed: 0x08 (log entry
117). -/
def State.popStrm (s : State) (i : Reg8) (t : Stream) (m : Nat) : Except Stop (State × List Nat) := do
  if t.write || t.err || t.cursor = t.total then trapF 0x08
  s.noBody
  let n := min m (t.total - t.cursor)
  if t.fetched < t.cursor + n then stall
  let es := t.buf.take n
  match es.find? fun e => e.2.2 with
  | some e => trapV 0x21 (t.addr e.1 &&& ~~~7)
  | none => pure ()
  match s.my.trigger 0 with
  | some g =>
    (match es.find? fun e => overlap (t.byteOff e.1) (t.byteOff e.1 + t.bytes) (offOf g) (offOf g + 8) with
      | some e => .error (.inject 0x21 (t.addr e.1 &&& ~~~7) 0)
      | none => pure ())
  | none => pure ()
  pure (s.putStrm s.me i t { t with cursor := t.cursor + n, buf := t.buf.drop n },
    es.map (·.2.1) ++ List.replicate (m - n) 0)

/-- Elements pushed: (place after the cursor, code); the cursor advances by m. The stream's own lock does not count (06 R147).
Of a push over more than four lines the rest is handed over as lines are written, and the context issues nothing before that
(09 R285; log entry 50). -/
def State.pushStrm (s : State) (i : Reg8) (t : Stream) (m : Nat) (es : List (Nat × Nat)) : Res := do
  if !t.write || t.cursor = t.total then trapF 0x08
  s.noBody
  let n := min m (t.total - t.cursor)
  let new := (es.filter fun e => decide (e.1 < n)).map fun e => (t.cursor + e.1, e.2, false)
  match new.find? fun e => (s.lockHit s.me (some s.cc) (some (.strm i)) (t.byteOff e.1) (t.byteOff e.1 + t.bytes)).2 with
  | some e => trapV 0x05 (t.addr e.1)
  | none => pure ()
  if 4 ≤ t.lines t.buf then stall
  pure (s.putStrm s.me i t { t with cursor := t.cursor + n, buf := t.buf ++ new })

/-- A write stream of a context holds more than four lines: a push is not over yet. -/
def State.pushing (s : State) (k : Key) (c : CtxNo) : Bool :=
  (s.core k).strms.toList.any fun o => match o with
    | some t => t.write && decide (t.ctx = c) && decide (4 < t.lines t.buf)
    | none => false

/-- The course links are on, and the register is one of theirs. -/
def State.isLink (s : State) (i : Reg8) : Bool := s.myCore.linkBy.isSome && decide (6 ≤ i.val)

/-- The neighbour of a core on its course, in the same partition (06 R173). -/
def State.neighbour (s : State) (east : Bool) : Option Key :=
  let c := s.me.val
  if isHod s.me then none
  else if east then (if colOf c = 63 then none else some (coreKey (c + 1)))
  else if colOf c = 0 then none else some (coreKey (c - 1))
def State.linkOk (s : State) (east : Bool) : Bool :=
  match s.neighbour east with
  | some k => decide (s.partOf k = s.partOf s.me)
  | none => false

/-- The checks of a link access: held by this context, a neighbour, no body, the region rules (06 R150, R173). -/
def State.checkLink (s : State) (east : Bool) : Except Stop Unit := do
  if s.myCore.linkBy ≠ some s.cc || !s.linkOk east then trapF 0x08
  s.noBody

/-- A word from the west link. -/
def State.linkPop (s : State) : Except Stop (State × Word) :=
  match s.myCore.west with
  | [] => stall
  | w :: r => do
    let s ← s.irrevocable
    pure (s.updMine fun co => { co with west := r }, w)

/-- The words in the east link's buffer of four: those under way and those that wait in the neighbour (log entry 31). -/
def State.eastHeld (s : State) : Nat :=
  s.myCore.east.length + match s.neighbour true with
    | some k => (s.core k).west.length
    | none => 0

/-- A word onto the east link. -/
def State.linkPush (s : State) (w : Word) : Res := do
  if 4 ≤ s.eastHeld then stall
  let s ← s.irrevocable
  pure (s.updMine fun co => { co with east := co.east ++ [w] })

end Sys2Proof.Machine
end

