-- ==== Sys2Proof/Machine/LoadStore.lean ====
section
/-! DEFINITION. Majors 8 and 9: loads, stores, LDA, STL, ZLN, and the forwarding form of the course links
(06 R155 to R159, R173, R174). -/
namespace Sys2Proof.Machine
open Sys2Proof

/-- The address operand (06 R145). -/
def State.addr (s : State) (m : MAddr) : Word := s.x m.b + BitVec.ofInt 64 m.off

/-- The value of n loaded bytes in a register (06 Table 6.3). -/
def extend (sgn : Bool) (n v : Nat) : Word :=
  if sgn then BitVec.ofInt 64 (Int.bmod v (2 ^ (8 * n))) else BitVec.ofNat 64 v

/-- A load of n bytes in address form (06 R155). -/
def loadAddr (sgn : Bool) (n : Nat) (a : Reg) (m : MAddr) (s : State) : Res := do
  let ad := s.addr m
  s.checkAccess false ad n n
  let p ← s.loadPiece ad n
  s.withLoads [(ad, p)] fun s vs => do
    let s' ← s.setX a (extend sgn n (vs.headD 0))
    pure s'.retire

/-- The type of a scalar stream form: its width must equal the access, and not be a 4-bit type (06 R159). -/
def scalarOk (t : Stream) (n : Nat) : Except Stop Unit := need (decide (t.ety.width = 8 * n)) (trapF 0x08)

/-- A scalar pop, or a pop of the west link (06 R159, R173). -/
def loadStrm (sgn : Bool) (n : Nat) (a : Reg) (i : Reg8) (s : State) : Res :=
  if s.isLink i then do
    if i.val ≠ 6 || n ≠ 8 then trapF 0x08
    s.checkLink false
    let r ← s.linkPop
    let s' ← r.1.setX a r.2
    pure s'.retire
  else do
    let t ← s.held i
    scalarOk t n
    let r ← s.popStrm i t 1
    let s' ← r.1.setX a (extend sgn n (r.2.headD 0))
    pure s'.retire

/-- LD (06 R155, R159). -/
def load (sgn : Bool) (n : Nat) (a : Reg) (m : MSrc) (s : State) : Res :=
  match m with
  | .addr m => loadAddr sgn n a m s
  | .strm i => loadStrm sgn n a i s

/-- A store of n bytes in address form (06 R155, R156). -/
def storeAddr (n : Nat) (v : Word) (m : MAddr) (s : State) : Res := do
  let ad := s.addr m
  s.checkAccess true ad n n
  s.withStores [(ad, n, v.toNat % 2 ^ (8 * n))]

/-- A scalar push, or a push of the east link (06 R159, R173). -/
def storeStrm (n : Nat) (v : Word) (i : Reg8) (s : State) : Res :=
  if s.isLink i then do
    if i.val ≠ 7 || n ≠ 8 then trapF 0x08
    s.checkLink true
    let s' ← s.linkPush v
    pure s'.retire
  else do
    let t ← s.held i
    scalarOk t n
    let s' ← s.pushStrm i t 1 [(0, v.toNat % 2 ^ (8 * n))]
    pure s'.retire

/-- ST (06 R155, R159). -/
def store (n : Nat) (a : Reg) (m : MSrc) (s : State) : Res :=
  match m with
  | .addr m => storeAddr n (s.x a) m s
  | .strm i => storeStrm n (s.x a) i s

/-- An outstanding result that is a remote load or atomic (FLD, FLDV, AMO): those that LDA, STL, `.rel` and FENCE wait
for. -/
def Out.isRemote (o : Out) : Bool := o.due.isSome && o.dest != .trecon
/-- Every earlier FLD, FLDV and AMO of the context has settled (06 R158). -/
def Ctx.remoteSettled (x : Ctx) : Bool := !(x.aux.outs.any Out.isRemote)
/-- An operation is posted (06 R186). -/
def ROp.isPost : ROp → Bool
  | .post _ => true
  | _ => false
/-- A posted operation of the context is still in the injection queue, or waits for an entry. -/
def State.postWaiting (s : State) (k : Key) (c : CtxNo) : Bool :=
  ((s.core k).injq.any fun r => decide (r.ctx = c) && r.host.isNone && !r.left && r.op.isPost) ||
    (s.ctx k c).aux.deferred.any fun d => decide (d.depth = 0) && d.req.op.isPost

/-- R155. -/
def execLdb (a : Reg) (m : MSrc) (s : State) : Ending := conclude s (load true 1 a m s)
/-- R155. -/
def execLdbu (a : Reg) (m : MSrc) (s : State) : Ending := conclude s (load false 1 a m s)
/-- R155. -/
def execLdh (a : Reg) (m : MSrc) (s : State) : Ending := conclude s (load true 2 a m s)
/-- R155. -/
def execLdhu (a : Reg) (m : MSrc) (s : State) : Ending := conclude s (load false 2 a m s)
/-- R155. -/
def execLdw (a : Reg) (m : MSrc) (s : State) : Ending := conclude s (load true 4 a m s)
/-- R155. -/
def execLdwu (a : Reg) (m : MSrc) (s : State) : Ending := conclude s (load false 4 a m s)
/-- R155. -/
def execLdd (a : Reg) (m : MSrc) (s : State) : Ending := conclude s (load false 8 a m s)
/-- R158: issues when every earlier remote load and atomic is written or replaced. -/
def execLda (a : Reg) (m : MAddr) (s : State) : Ending :=
  conclude s (do
    if !s.my.remoteSettled then stall
    loadAddr false 8 a m s)
/-- R155. -/
def execStb (a : Reg) (m : MSrc) (s : State) : Ending := conclude s (store 1 a m s)
/-- R155. -/
def execSth (a : Reg) (m : MSrc) (s : State) : Ending := conclude s (store 2 a m s)
/-- R155. -/
def execStw (a : Reg) (m : MSrc) (s : State) : Ending := conclude s (store 4 a m s)
/-- R155. -/
def execStd (a : Reg) (m : MSrc) (s : State) : Ending := conclude s (store 8 a m s)
/-- R158: issues when the four path counts are zero, no posted operation waits and every remote load has settled. -/
def execStl (a : Reg) (m : MAddr) (s : State) : Ending :=
  conclude s (do
    if !s.my.aux.posted.isEmpty || s.postWaiting s.me s.cc || !s.my.remoteSettled then stall
    storeAddr 8 (s.x a) m s)
/-- R157. -/
def execZln (m : MAddr) (s : State) : Ending :=
  conclude s (do
    let ad := s.addr m
    s.checkAccess true ad 64 64
    s.withStores [(ad, 64, 0)])
/-- R174: one word from the west link to x[A] and onto the east link. -/
def execLddForward (a : Reg) (s : State) : Ending :=
  conclude s (do
    s.checkLink false
    s.checkLink true
    if 4 ≤ s.eastHeld then stall
    let r ← s.linkPop
    let s' ← r.1.linkPush r.2
    let s'' ← s'.setX a r.2
    pure s''.retire)

end Sys2Proof.Machine
end

