-- ==== Sys2Proof/Machine/Requests.lean ====
section
/-! DEFINITION. Requests: the injection queue, the deferred buffer, the checks of remote addresses, the order in which
requests leave (06 R144 to R150, R175, R186, R187, R191, 10 R291 to R298). -/
namespace Sys2Proof.Machine
open Sys2Proof

/-! ## Making a request -/

/-- The current generation of a destination (06 R191). -/
def Ctx.gen (x : Ctx) (d : Dest) : BitVec 4 := ((x.aux.gens.find? fun g => g.1 = d).map (·.2)).getD 0
/-- The generation of a destination after a timeout (06 R191). -/
def Ctx.bumpGen (x : Ctx) (d : Dest) : Ctx :=
  { x with aux := { x.aux with gens := (d, x.gen d + 1) :: x.aux.gens.filter fun g => g.1 ≠ d } }

/-- A request of the executing context under a name. -/
def State.mkReq (s : State) (id : Nat) (ord : Ord) (op : ROp) (dest : Dest) : Req :=
  { id := id, dev := s.device, src := s.me, ctx := s.cc, pc := s.my.pc, mode := s.my.csr.mode, ord := ord, op := op, dest := dest,
    gen := s.my.gen dest, left := false, part := s.partNo s.me, host := none, htag := 0, notify := false }

/-- Released operations wait for injection entries: every later request waits behind them (06 R149). -/
def Ctx.releasing (x : Ctx) : Bool := x.aux.deferred.any fun d => d.depth = 0

/-- A request takes an injection entry, or stalls (06 R175). The answer has its name. -/
def State.request (s : State) (ord : Ord) (op : ROp) (dest : Dest) : Except Stop (State × Nat) := do
  if 16 ≤ s.myCore.injq.length || s.my.releasing then stall
  let (id, s) := s.freshId
  let r := s.mkReq id ord op dest
  pure (s.updMine fun co => { co with injq := co.injq ++ [r] }, id)

/-- In an explicit region that is not sealed the operation is deferred, 0x0F where the buffer is full (06 R149, 11 R326);
elsewhere it is requested. -/
def State.requestOrDefer (s : State) (bytes : Nat) (ord : Ord) (op : ROp) : Except Stop (State × Nat) :=
  match s.my.aux.frames.head? with
  | some f =>
    if f.isSealed then s.request ord op .trecon
    else do
      if 4096 < (s.my.aux.deferred.map (·.bytes)).foldl (· + ·) bytes then trapF 0x0F
      let (id, s) := s.freshId
      let d : Deferred := ⟨s.my.depth, s.mkReq id ord op .trecon, bytes⟩
      pure (s.upd fun x => { x with aux := { x.aux with deferred := x.aux.deferred ++ [d] } }, id)
  | none => s.request ord op .trecon

/-- A result becomes outstanding, with its lookahead window (03 R76, 06 R191). The promise is 3 µs on the package and
12 µs elsewhere, of the partition's running time, counted from the instruction's issue (log entry 122). -/
def State.expect (s : State) (id : Nat) (d : Dest) (la : Nat) (own : Bool) (acq atomic : Bool)
    (lines : List (Owner × Nat)) : State :=
  let o : Out := { id := id, dest := d, gen := s.my.gen d, due := some (s.pns s.me + if own then 3000 else 12000),
                   pc := s.my.pc, acq := acq, lines := lines, atomic := atomic }
  let w : List Window := match d with
    | .reg r => [⟨id, r, s.my.pc, la⟩]
    | .trecon => []
  s.upd fun x => { x with aux := { x.aux with outs := x.aux.outs ++ [o], windows := x.aux.windows ++ w } }

/-! ## Remote addresses -/

/-- Steps 1 to 4 of 06 R146 for a remote address. -/
def State.checkFar (s : State) (store : Bool) (a : Word) (align : Nat) : Except Stop Unit := do
  s.checkFormat a
  if !isSlice a then trapV 0x04 a
  if store && decide (winOf a ≠ 0) then trapV 0x19 a
  if a.toNat % align ≠ 0 then trapV 0x03 a

/-- The same with the body check of step 6. -/
def State.checkRemote (s : State) (store : Bool) (a : Word) (align : Nat) : Except Stop Unit := do
  s.checkFar store a align
  s.noBody

/-- The checks of a target or handle word (06 R180, R181). -/
def State.checkTarget (s : State) (queue : Bool) (w : Word) : Except Stop Unit := do
  if !isSlice w || decide (bits w 62 60 ≠ 0 ∨ bits w 51 32 ≠ 0) || (!queue && decide (bits w 19 15 ≠ 0)) then trapV 0x0E w
  s.checkFormat w
  if !queue && w.getLsbD 0 then trapV 0x03 w
  s.noBody

/-- The cores of a posted operation's rectangle, destination j at place j (06 R185). -/
def rectOwners (o : Owner) (rows cols : Nat) : List Owner :=
  (List.range (rows * cols)).map fun j => ⟨o.dev, o.key + j / cols * 64 + j % cols⟩

/-- The owners that an operation goes to, in order. -/
def State.owners (s : State) (op : ROp) : List Owner :=
  match op with
  | .send _ w _ _ _ => [s.owner w]
  | .post (.st a _ _) | .post (.nib a _ _) | .post (.timed a _ _) | .post (.amoq a _ _ _ _) => [s.owner a]
  | .post (.mc a r c _ _ _) | .post (.rd a r c _ _ _ _) => rectOwners (s.owner a) r c
  | .load a _ | .loadv a _ _ | .amo a _ _ _ _ => [s.owner a]
  | .trecon .. | .copy _ | .cfetch .. | .tsub .. => []

/-- The key of an owner of this package. -/
def Owner.local_ (o : Owner) (s : State) : Option Key :=
  if o.dev = s.device then (if h : o.key < 4160 then some ⟨o.key, h⟩ else none) else none

/-- The line of the bytes that a load reads. Through a window its owner finds the bytes by the descriptor that it holds when it
performs the load (02 R54), so that they may lie in any line of its slice: 16384 stands for each of them. -/
def State.loadLines (s : State) (a : Word) : List (Owner × Nat) :=
  [(s.owner a, if winOf a = 0 then offOf a / 64 else 16384)]

/-- Two requests have bytes in one line. -/
def sameLine (l m : List (Owner × Nat)) : Bool :=
  l.any fun a => m.any fun b => decide (a.1 = b.1) && decide (a.2 = b.2 ∨ a.2 = 16384 ∨ b.2 = 16384)

/-- The 64-byte lines that an operation's bytes lie in (10 R291). -/
def State.linesOf (s : State) (op : ROp) : List (Owner × Nat) :=
  match op with
  | .post (.st a _ _) | .post (.nib a _ _) | .post (.timed a _ _) | .post (.amoq a _ _ _ _)
  | .post (.mc a _ _ _ _ _) | .post (.rd a _ _ _ _ _ _) | .amo a _ _ _ _ =>
    (s.owners op).map fun o => (o, offOf a / 64)
  | .load a _ | .loadv a _ _ => s.loadLines a
  | _ => []

/-! ## Leaving the injection queue -/

/-- The conditions of `.f` and `.rel` (06 R187). -/
def Ctx.relReady (x : Ctx) (id : Nat) (rel : Bool) : Bool :=
  x.aux.posted.isEmpty && (!rel || !(x.aux.outs.any fun o => o.isRemote && decide (o.id < id)))

/-- An entry of the queue is a held `.o` send to a core. -/
def Req.heldO (r : Req) (s : State) (c : CtxNo) (o : Owner) : Bool :=
  r.left && decide (r.ctx = c ∧ r.ord = .o) && (match r.op with | .send .. => decide (o ∈ s.owners r.op) | _ => false)

/-- No `.o` posted operation or send of a context to a core is unanswered (10 R294, 06 R200). -/
def State.oClear (s : State) (k : Key) (c : CtxNo) (os : List Owner) : Bool :=
  !(os.any fun o => ((s.ctx k c).aux.posted.any fun p => p.ordered && p.lines.any fun l => decide (l.1 = o)) ||
    (s.core k).injq.any fun r => r.heldO s c o)

/-! ### Planes (16 R397; 17 R411, R412) -/

/-- The plane whose cable a port holds; a standby port that serves none holds none. -/
def SlaupPort.plane (x : SlaupPort) (p : Fin 18) : Nat := (x.standbyFor.getD p).val
/-- The live port that leads to a plane. -/
def State.portOn (s : State) (q : Nat) : Option (Fin 18) :=
  (List.finRange 18).find? fun p => s.slaup[p].up && !s.slaup[p].dead && decide (s.slaup[p].plane p = q)
/-- The name of a port of the domain in link-state flits: device and plane (log entry 112). -/
def hopName (dev : BitVec 8) (q : Nat) : Nat := dev.toNat * 32 + q
/-- A route on a plane to a device crosses no hop that is known to be dead: of this package's ports, or of the ones that link-state
flits told. -/
def State.planeLive (s : State) (dev : BitVec 8) (q : Nat) : Bool :=
  (s.portOn q).isSome && !(s.dom.pairs.any fun e => decide (e.1 = hopName dev q))
/-- The plane that a packet takes (R412): its own, else the next live one of its path's four, else the next live one modulo 16;
none where no plane is live. -/
def State.reroute (s : State) (dev : BitVec 8) (q : Nat) : Option Nat :=
  (((List.range 4).map fun i => q / 4 * 4 + (q + i) % 4) ++ ((List.range 16).map fun i => (q + i) % 16)).find? (s.planeLive dev)
/-- The plane of an operation before any rerouting (16 R397); within a path the line chooses it (log entry 23). -/
def State.homePlane (s : State) (op : ROp) (src : Key) (path : Option (Fin 4)) : Nat :=
  match op, path with
  | .post (.timed a _ _), _ => coreOf a % 16
  | .post _, some p => 4 * p.val + ((s.linesOf op).headD (⟨0, 0⟩, 0)).2 % 4
  | _, _ => index src % 16
/-- The plane on which a posted operation travels: 16 on the package. -/
def State.postPlane (s : State) (r : Req) (p : Fin 4) : Nat :=
  let o := (s.owners r.op).headD ⟨s.device, 0⟩
  if o.dev = s.device then 16 else
  let q := s.homePlane r.op r.src (some p)
  (s.reroute o.dev q).getD q

/-! ### Order -/

/-- The paths below their limit (10 R297). -/
def Ctx.pathsFree (x : Ctx) : List (Fin 4) :=
  ([0, 1, 2, 3] : List (Fin 4)).filter fun p => decide ((x.aux.posted.filter fun q => q.path = p).length < 1024)

/-- An earlier remote load or atomic of a context for one of the lines is unsettled (10 R291). -/
def Ctx.lineBusy (x : Ctx) (id : Nat) (ls : List (Owner × Nat)) : Bool :=
  x.aux.outs.any fun o => decide (o.id < id) && sameLine o.lines ls

/-- The path on which a posted operation leaves now, if it may leave (06 R186, R187, 10 R291, R297, R298). The path of an `.o`
operation is that of its first destination; at every destination it is performed after the earlier `.o` operations: one that is
outstanding on another path is awaited. Where a line changes plane, what is outstanding on the old one is awaited (17 R412). -/
def State.pathFor (s : State) (k : Key) (r : Req) : Option (Fin 4) :=
  let x := s.ctx k r.ctx
  let ls := s.linesOf r.op
  let same := x.aux.posted.filter fun p => sameLine p.lines ls ||
    (p.ordered && decide (r.ord = .o) && p.lines.any fun l => ls.any fun m => decide (m.1 = l.1))
  if x.lineBusy r.id ls then none else
  let fixed : Option (Fin 4) := match r.op, r.ord with
    | .post (.timed a _ _), _ => some (Fin.ofNat 4 (coreOf a))
    | _, .o => some (Fin.ofNat 4 (((s.owners r.op).headD ⟨0, 0⟩).key))
    | _, _ => none
  let want : Option (Fin 4) := match fixed with
    | some p => some p
    | none => same.head?.map (·.path)
  match want with
  | some p =>
    if same.all (fun q => decide (q.path = p ∧ q.plane = s.postPlane r p)) && x.pathsFree.contains p then some p else none
  | none =>
    let l := x.pathsFree
    l[Config.pick s.m.freeCtr % l.length]?

/-- The owner of a copy's first source byte where that is a slice (06 R200). -/
def State.copyOwner (s : State) (op : ROp) : List Owner :=
  match op with
  | .copy d => if isSlice d.src then [s.owner d.src] else []
  | _ => []

/-- No `.o` send of a context to one of some cores is unanswered. -/
def State.sendsClear (s : State) (k : Key) (c : CtxNo) (os : List Owner) : Bool :=
  !(os.any fun o => (s.core k).injq.any fun r => r.heldO s c o)

/-- A request may leave: it is the context's oldest that has not left, and its ordering code lets it. An `.o` posted operation
follows the earlier `.o` sends to its destinations (R187). -/
def State.mayLeave (s : State) (k : Key) (r : Req) : Bool :=
  let x := s.ctx k r.ctx
  let first := ((s.core k).injq.find? fun q => !q.left && decide (q.ctx = r.ctx)).map (·.id) == some r.id
  first && (match r.op with
    | .post _ => (match r.ord with
        | .f => x.relReady r.id false
        | .rel => x.relReady r.id true
        | .o => s.sendsClear k r.ctx (s.owners r.op)
        | _ => true) && (s.pathFor k r).isSome
    | .send .. => (match r.ord with
        | .rel => x.relReady r.id true
        | .o => s.oClear k r.ctx (s.owners r.op)
        | _ => true)
    | .copy _ => (match r.ord with
        | .rel => x.relReady r.id true
        | .o => s.oClear k r.ctx (s.copyOwner r.op)
        | _ => true)
    | .load .. | .loadv .. | .amo .. =>
        let ls := s.linesOf r.op
        !(x.aux.posted.any fun p => sameLine p.lines ls) && !x.lineBusy r.id ls
    | _ => true)

/-- An entry is held until the request is answered (06 R175). -/
def ROp.holds : ROp → Bool
  | .send .. | .tsub .. | .post (.nib ..) => true
  | _ => false

/-- An operation whose reply a stopping partition awaits (06 R153). -/
def ROp.awaited : ROp → Bool
  | .load .. | .loadv .. | .amo .. | .trecon .. => true
  | _ => false

/-- The partition of a core or request runs, or is stopping and awaits this reply. -/
def State.runs (s : State) (n : Nat) (op : ROp) : Bool :=
  let p := s.part n
  p.live || (p.state == .stopping && op.awaited)

/-- The request at a place of a queue leaves (06 R175, R186). -/
def State.depart (s : State) (k : Key) (i : Nat) : Option State :=
  match (s.core k).injq[i]? with
  | none => none
  | some r =>
    if r.left || !(s.part (s.partNo k)).live || !s.mayLeave k r then none else
    let q := if r.op.holds then lmod (s.core k).injq i fun r => { r with left := true } else (s.core k).injq.eraseIdx i
    let path := s.pathFor k r
    let s := s.updCore k fun co => { co with injq := q }
    match r.op with
    | .post _ =>
      match path with
      | none => none
      | some p =>
        let os := s.owners r.op
        let rec_ : Posted := { id := r.id, path := p, plane := s.postPlane r p, lines := s.linesOf r.op, missing := os.length, denied := 0,
                               ordered := decide (r.ord = .o), pc := r.pc }
        let s := { s with m := { s.m with freeCtr := s.m.freeCtr + 1 } }
        let s := s.updCtx k r.ctx fun x => { x with aux := { x.aux with posted := x.aux.posted ++ [rec_] } }
        some (os.zipIdx.foldl (fun s e => s.post (.req r e.1 e.2)) s)
    | _ => some (s.post (.req r ((s.owners r.op).headD ⟨s.device, k.val⟩) 0))

/-! ## Answers -/

/-- The owner does not take an operation: the core is outside the sender's partition, or is being reset (06 R182, R188,
R192; 17 R410). -/
def State.denied (s : State) (part : Nat) (dst : Owner) : Bool :=
  !s.inSpan part dst || (match (if h : dst.key < 4160 then some (⟨dst.key, h⟩ : Key) else none) with
    | some k => (s.core k).resetting.isSome
    | none => true)

/-- A register takes the result of the request of a name. Its register entries in debug mode count as appends of the core's own
instruction (11 R322, 18 R423) and belong to the instruction that made the request (18 R420); where the log has no room for them the
register stays and the stop tells why (11 R329; log entry 99). -/
def State.putResult (s : State) (k : Key) (c : CtxNo) (id : Nat) (r : RegName) (v : VWord) : Res := do
  let x := s.ctx k c
  let es : List LogEntry := match r with
    | .x i => [⟨.reg c 0 i 0, x.x i⟩]
    | .p i => [⟨.reg c 2 (Fin.ofNat 32 i.val) 0, x.p i⟩]
    | .v i => ([0, 1, 2, 3, 4, 5, 6, 7] : List (Fin 8)).map fun p => ⟨.reg c 1 i p, eword (x.v i) p.val⟩
  let co ← (if s.debug k then es else []).foldlM (fun co e => Machine.appendOwn appendFuel co e) (s.core k)
  let t := (s.setLogged k co).updCtx k c fun x => match r with
    | .x i => x.putX i (eword v 0)
    | .p i => x.putP i (eword v 0)
    | .v i => x.putV i v
  pure (t.lateHist k c id (s.core k).logHead)

/-- An outstanding result is settled. -/
def Ctx.settle (x : Ctx) (id : Nat) : Ctx := { x with aux := { x.aux with outs := x.aux.outs.filter fun o => o.id ≠ id } }

/-- A cause that a request of a context meets after it retired: at the next boundary, or told by an entry where the context is
idle (17 R405, 15 R381; log entry 14). -/
def State.reportLater (s : State) (k : Key) (c : CtxNo) (cause : BitVec 8) (v : Option Word) (pc : PC) : State :=
  if (s.ctx k c).run == .idle then s.tellIdle k c cause pc else s.later k c cause v pc

/-- A result that became a fault: raised at the next boundary, XVALUE the instruction's PC (06 R192); discarded in a
rollback (11 R325). -/
def State.faultResult (s : State) (k : Key) (c : CtxNo) (o : Out) (cause : BitVec 8) (v : Option Word) : State :=
  let t := s.updCtx k c fun x => x.settle o.id
  if (s.ctx k c).isRolling then t else t.reportLater k c cause v o.pc

/-- An outstanding result is written to its register and settled (06 R192). -/
def State.settleResult (s : State) (k : Key) (c : CtxNo) (o : Out) (r : RegName) (v : VWord) : State :=
  match s.putResult k c o.id r v with
  | .ok t => t.updCtx k c fun x => x.settle o.id
  | .error (.trap cause w) => s.faultResult k c o cause w
  | .error (.full co w) => (s.setLogged k ((s.core k).madeRoom co)).faultResult k c o 0x12 w
  | .error _ => s.updCtx k c fun x => x.settle o.id

/-- A receive-queue entry that returns a send (06 R176, R177): its sender's fields name the core that refused (log entry 120). -/
def Req.returned (r : Req) (s : State) (dst : Owner) (kind cause : Nat) : VWord :=
  match r.op with
  | .send _ w a1 a2 _ => entry kind dst.dev (dst.key % 4096) (decide (4096 ≤ dst.key)) 0 cause 0 a1 a2 w (at_ r.pc.toNat 0) 0
  | .tsub t _ => entry kind s.device 0 false 0 cause 0 t.arg1 t.arg2 t.desc (at_ r.pc.toNat 0) 0
  | _ => entry kind dst.dev (dst.key % 4096) (decide (4096 ≤ dst.key)) 0 cause 0 0 0 0 (at_ r.pc.toNat 0) 0

/-- The entry of an injection queue is freed. -/
def State.freeEntry (s : State) (k : Key) (id : Nat) : State :=
  s.updCore k fun co => { co with injq := co.injq.filter fun r => !(r.left && decide (r.id = id)) }

end Sys2Proof.Machine
end

