-- ==== Sys2Proof/Machine/VMem.lean ====
section
/-! DEFINITION. Major 10: vector loads and stores (06 R160 to R165). -/
namespace Sys2Proof.Machine
open Sys2Proof

/-- The lanes of a type that a predicate register governs. -/
def State.lanesOn (s : State) (t : ETy) (pr : Reg8) : List Nat := (List.range t.lanes).filter fun i => active t (s.p pr) i

/-- v[A] takes codes in its active lanes. -/
def State.putLanes (s : State) (a : Reg) (t : ETy) (pr : Reg8) (l : List Nat) : Res :=
  s.setV a (merge t (s.p pr) (s.v a) (pack t l))

/-- Codes that no rule gives, for a stream whose element width is not the lane width (log entry 16). -/
def State.freeCodes (s : State) (w n : Nat) : State × List Nat :=
  ({ s with m := { s.m with freeCtr := s.m.freeCtr + n } },
    (List.range n).map fun i => (Config.freeWord (s.m.freeCtr + i)).toNat % 2 ^ w)

/-- R161: all 64 bytes are checked and read; the active lanes are written. -/
def vldAddr (a : Reg) (m : MAddr) (t : ETy) (pr : Reg8) (s : State) : Res := do
  let ad := s.addr m
  s.checkAccess false ad 64 (max 1 (t.width / 8))
  let p ← s.loadPiece ad 64
  s.withLoads [(ad, p)] fun s vs => do
    let s' ← s.putLanes a t pr (unpack t (BitVec.ofNat 512 (vs.headD 0)))
    pure s'.retire

/-- R168: L elements go into lanes 0 to L − 1. -/
def vldStrm (a : Reg) (i : Reg8) (t : ETy) (pr : Reg8) (s : State) : Res := do
  if s.isLink i then trapF 0x08
  let st ← s.held i
  let r ← s.popStrm i st t.lanes
  let q := if st.ety.width = t.width then r else r.1.freeCodes t.width t.lanes
  let s' ← q.1.putLanes a t pr q.2
  pure s'.retire

/-- The pieces of a 64-byte store: the bytes of active lanes, a byte with one active nibble keeping the other. -/
def vstPieces (ad : Word) (t : ETy) (on : List Nat) (v : VWord) (old : Nat → Nat) : List (Word × Nat × Nat) :=
  if t.width = 4 then
    (List.range 64).filterMap fun j =>
      let lo := on.contains (2 * j)
      let hi := on.contains (2 * j + 1)
      if lo || hi then
        let b := old j
        let n := laneOf v.toNat 8 j
        some (ad + BitVec.ofNat 64 j, 1, (if lo then n % 16 else b % 16) + 16 * (if hi then n / 16 else b / 16))
      else none
  else on.map fun i => (ad + BitVec.ofNat 64 (i * t.width / 8), t.width / 8, laneOf v.toNat t.width i)

/-- Where a byte of the local store or of far memory that a store is about to change stands. -/
def State.oldPlace (s : State) (a : Word) : Option Nat :=
  if isSlice a then some (Loc.local_ s.me (offOf a)) else s.farPhys a true
/-- What it holds. -/
def State.oldByte (s : State) (a : Word) : Nat :=
  match s.oldPlace a with
  | some p => s.sh.mem.read p 1
  | none => 0

/-- R161; the bytes of which it writes one nibble it reads: their correctable words are counted, the others stay in error (R152, 17
R404). -/
def vstAddr (a : Reg) (m : MAddr) (t : ETy) (pr : Reg8) (s : State) : Res := do
  let ad := s.addr m
  s.checkAccess true ad 64 (max 1 (t.width / 8))
  let rd := (halfBytes t (s.lanesOn t pr)).filterMap fun j => (s.oldPlace (ad + BitVec.ofNat 64 j)).map fun p => (p, 1)
  let u ← ((s.countCeAt s.me rd).withStoresOf [(ad, 64)] fun s =>
    vstPieces ad t (s.lanesOn t pr) (s.v a) fun j => s.oldByte (ad + BitVec.ofNat 64 j))
  pure (u.poison (s.badPlaces rd))

/-- R168: the active lanes within the stream are written, the cursor passes all. -/
def vstStrm (a : Reg) (i : Reg8) (t : ETy) (pr : Reg8) (s : State) : Res := do
  if s.isLink i then trapF 0x08
  let st ← s.held i
  let q := if st.ety.width = t.width then (s, unpack t (s.v a)) else s.freeCodes st.ety.width t.lanes
  let s' ← q.1.pushStrm i st t.lanes ((s.lanesOn t pr).map fun i => (i, q.2.getD i 0))
  pure s'.retire

/-- Lane addresses of the strided and indexed forms (06 Table 6.4). -/
def strided (ad stride : Word) (i : Nat) : Word := ad + BitVec.ofNat 64 i * stride
def indexed (ad : Word) (t : ETy) (idx : VWord) (i : Nat) : Word :=
  ad + BitVec.ofNat 64 (laneOf idx.toNat t.width i * (t.width / 8))

/-- A load of one address for each active lane (06 R145, R162, R163). -/
def laneLoads (a : Reg) (t : ETy) (pr : Reg8) (at_ : Nat → Word) (s : State) : Res := do
  let on := s.lanesOn t pr
  let n := t.width / 8
  s.checkAccesses false (on.map at_) n n
  let ps ← on.mapM fun i => do
    let p ← s.loadPiece (at_ i) n
    pure (at_ i, p)
  s.withLoads ps fun s vs => do
    let l := (on.zip vs).foldl (fun l e => l.set e.1 e.2) (List.replicate t.lanes 0)
    let s' ← s.putLanes a t pr l
    pure s'.retire

/-- A store of one address for each active lane, in ascending lane order. -/
def laneStores (a : Reg) (t : ETy) (pr : Reg8) (at_ : Nat → Word) (s : State) : Res := do
  let on := s.lanesOn t pr
  let n := t.width / 8
  s.checkAccesses true (on.map at_) n n
  s.withStores (on.map fun i => (at_ i, n, laneOf (s.v a).toNat t.width i))

/-- Codes 2 to 9 (06 Table 6.4). -/
def setIdx (t : ETy) : Bool := decide (2 ≤ t.code ∧ t.code ≤ 9)

/-- R160, R161, R168. -/
def execVld (a : Reg) (m : MSrc) (md : Md) (s : State) : Ending :=
  conclude s (do
    let t ← s.effType md.ty setAny
    match m with
    | .addr m => vldAddr a m t md.pr s
    | .strm i => vldStrm a i t md.pr s)
/-- R160, R161, R168. -/
def execVst (a : Reg) (m : MSrc) (md : Md) (s : State) : Ending :=
  conclude s (do
    let t ← s.effType md.ty setAny
    match m with
    | .addr m => vstAddr a m t md.pr s
    | .strm i => vstStrm a i t md.pr s)
/-- R162. -/
def execVldb (a : Reg) (m : MAddr) (md : Md) (s : State) : Ending :=
  conclude s (do
    let t ← s.effType md.ty setW8
    let ad := s.addr m
    s.checkAccess false ad (t.width / 8) (t.width / 8)
    let p ← s.loadPiece ad (t.width / 8)
    s.withLoads [(ad, p)] fun s vs => do
      let s' ← s.putLanes a t md.pr (List.replicate t.lanes (vs.headD 0))
      pure s'.retire)
/-- R162. -/
def execVlds (a : Reg) (m : MAddr) (t : Reg) (md : Md) (s : State) : Ending :=
  conclude s (do
    let ty ← s.effType md.ty setW8
    laneLoads a ty md.pr (strided (s.addr m) (s.x t)) s)
/-- R162. -/
def execVsts (a : Reg) (m : MAddr) (t : Reg) (md : Md) (s : State) : Ending :=
  conclude s (do
    let ty ← s.effType md.ty setW8
    laneStores a ty md.pr (strided (s.addr m) (s.x t)) s)
/-- R163. -/
def execVgath (a : Reg) (m : MAddr) (t : Reg) (md : Md) (s : State) : Ending :=
  conclude s (do
    let ty ← s.effType md.ty setIdx
    laneLoads a ty md.pr (indexed (s.addr m) ty (s.v t)) s)
/-- R163. -/
def execVscat (a : Reg) (m : MAddr) (t : Reg) (md : Md) (s : State) : Ending :=
  conclude s (do
    let ty ← s.effType md.ty setIdx
    laneStores a ty md.pr (indexed (s.addr m) ty (s.v t)) s)
/-- R164: with no active lane only the alignment is checked. -/
def execVstc (a : Reg) (m : MAddr) (md : Md) (s : State) : Ending :=
  conclude s (do
    let t ← s.effType md.ty setW8
    let ad := s.addr m
    let n := t.width / 8
    let on := s.lanesOn t md.pr
    if on.isEmpty then
      if ad.toNat % n ≠ 0 then trapV 0x03 ad
      pure s.retire
    else do
      s.checkAccess true ad (on.length * n) n
      s.withStoresOf [(ad, on.length * n)] fun s =>
        on.zipIdx.map fun e => (ad + BitVec.ofNat 64 (e.2 * n), n, laneOf (s.v a).toNat t.width e.1))

end Sys2Proof.Machine
end

