-- ==== Sys2Proof/Machine/VAlu.lean ====
section
/-! DEFINITION. Majors 11 to 13: vector arithmetic, logic, comparison, reduction, lane movement, conversion
(05 R119 to R137). -/
namespace Sys2Proof.Machine
open Sys2Proof

/-- RNDCTR after an instruction that rounds under SR over lanes of a type (01 R31, 05 R122). -/
def State.advance (s : State) (rm : Rm) (n : Nat) : State :=
  if rm = .sr then s.upd fun c => { c with csr := { c.csr with rndctr := c.csr.rndctr + BitVec.ofNat 64 ((n + 3) / 4) } }
  else s

/-- The draw of lane j (01 R31). -/
def State.rnd (s : State) (rm : Rm) (j : Nat) : Nat :=
  if rm = .sr then draw s.my.csr.rndkey s.my.csr.rndctr j else 0

/-- A source operand's value, subnormals taken as zero under FTZ (01 R16). -/
def State.val (s : State) (t : ETy) (c : Nat) : Val := valueOf t (flush t s.my.csr.ftz c)

/-- A value rounded to a lane (05 R122). -/
def State.round (s : State) (t : ETy) (rm : Rm) (j : Nat) (v : Val) : Nat := convert t rm (s.rnd rm j) s.my.csr.ftz v

/-- v[A] takes f of the lane number and of the lanes of v[T], v[B], v[A] in its active lanes (05 R121). -/
def lanes3 (t : ETy) (o : V3) (f : Nat → Nat → Nat → Nat → Nat) (s : State) : Res :=
  s.putLanes o.a t o.md.pr ((List.range t.lanes).map fun i =>
    f i (laneOf (s.v o.t).toNat t.width i) (laneOf (s.v o.b).toNat t.width i) (laneOf (s.v o.a).toNat t.width i))

/-- The same with one source. -/
def lanes2 (t : ETy) (o : V2) (f : Nat → Nat → Nat) (s : State) : Res :=
  s.putLanes o.a t o.md.pr ((List.range t.lanes).map fun i => f i (laneOf (s.v o.b).toNat t.width i))

/-- The functions of R127 that round once: floating lanes by an exact operation, integer lanes by an exact operation and a
reduction to the type (`m` is MB = 1, which floating types refuse). -/
def arith (o : V3) (m : Bool) (fp : Rm → Val → Val → Val → Val) (int : Int → Int → Int → Int)
    (narrow : ETy → Int → Nat) (s : State) : Res := do
  let t ← s.effType o.md.ty setNum
  if t.isFp then
    if m then s.illegalIn 3
    let rm := s.rm none
    let s' ← lanes3 t o (fun i a b c => s.round t rm i (fp rm (s.val t a) (s.val t b) (s.val t c))) s
    pure (s'.advance rm t.lanes).retire
  else do
    let s' ← lanes3 t o (fun _ a b c => narrow t (int (intOf t a) (intOf t b) (intOf t c))) s
    pure s'.retire

/-- A result modulo 2^w, or clamped when saturating. -/
def wrapOr (sat : Bool) (t : ETy) (i : Int) : Nat := if sat then clampTo t i else wrap t.width i
/-- The low or the high half of a product. -/
def halfOf (hi : Bool) (t : ETy) (i : Int) : Nat := wrap t.width (if hi then i / 2 ^ t.width else i)

/-- VMIN and VMAX of two lanes (05 R127): −0 is below +0, and the only change to a value is that a NaN gives the default NaN: a
subnormal passes as it stands, whatever FTZ is (log entry 46). -/
def minMax (t : ETy) (mx : Bool) (a b : Nat) : Nat :=
  if t.isFp then
    let x := valueOf t a
    let y := valueOf t b
    if isNan x || isNan y then nanOf t
    else if ltVal true x y then (if mx then b else a) else (if mx then a else b)
  else if intOf t a ≤ intOf t b then (if mx then b else a) else (if mx then a else b)

/-- VMIN, VMAX. They never round (05 R127), so RNDCTR stands in mode SR too, though 01 R31 speaks of every elementwise
instruction; VABS, VNEG and VBMAX alike (log entry 100). -/
def extreme (o : V3) (mx : Bool) (s : State) : Res := do
  let t ← s.effType o.md.ty setNum
  let s' ← lanes3 t o (fun _ a b _ => minMax t mx a b) s
  pure s'.retire

/-- The bitwise functions (05 R129). -/
def bitwise (o : V3) (f : Nat → Nat → Nat) (s : State) : Res := do
  let t ← s.effType o.md.ty setAny
  let s' ← lanes3 t o (fun _ a b _ => f a b) s
  pure s'.retire

/-- The shifts: by b mod w, b unsigned (05 R129). -/
def shift (o : V3) (f : ETy → Nat → Nat → Nat) (s : State) : Res := do
  let t ← s.effType o.md.ty ETy.isInt
  let s' ← lanes3 t o (fun _ a b _ => f t a (b % t.width)) s
  pure s'.retire

/-- VABS and VNEG: floating lanes change their sign bit, NaN gives the default NaN; integer lanes are exact, then reduced
(05 R129). -/
def signOp (o : V2) (m : Bool) (fp : Nat → Nat → Nat) (int : Int → Int) (s : State) : Res := do
  let t ← s.effType o.md.ty setNum
  if t.isFp then
    if m then s.illegalIn 3
    let s' ← lanes2 t o (fun _ b => if isNan (valueOf t b) then nanOf t else fp (2 ^ (t.width - 1)) b) s
    pure s'.retire
  else do
    let s' ← lanes2 t o (fun _ b => wrapOr m t (int (intOf t b))) s
    pure s'.retire

/-- R127. -/
def execVadd (o : V3) (m : Bool) (s : State) : Ending :=
  conclude s (arith o m (fun rm a b _ => addVal rm a b) (fun a b _ => a + b) (wrapOr m) s)
/-- R127. -/
def execVsub (o : V3) (m : Bool) (s : State) : Ending :=
  conclude s (arith o m (fun rm a b _ => addVal rm a (negVal b)) (fun a b _ => a - b) (wrapOr m) s)
/-- R127. -/
def execVmul (o : V3) (m : Bool) (s : State) : Ending :=
  conclude s (arith o m (fun _ a b _ => mulVal a b) (fun a b _ => a * b) (halfOf m) s)
/-- R127: fused, one rounding. -/
def execVfma (o : V3) (s : State) : Ending :=
  conclude s (arith o false (fun rm a b c => addVal rm c (mulVal a b)) (fun a b c => c + a * b) (wrapOr false) s)
/-- R127: fused, one rounding. -/
def execVfms (o : V3) (s : State) : Ending :=
  conclude s (arith o false (fun rm a b c => addVal rm c (negVal (mulVal a b))) (fun a b c => c - a * b) (wrapOr false) s)
/-- R127. -/
def execVmin (o : V3) (s : State) : Ending := conclude s (extreme o false s)
/-- R127. -/
def execVmax (o : V3) (s : State) : Ending := conclude s (extreme o true s)
/-- R127: every lane, bit for bit. -/
def execVsel (o : V3) (s : State) : Ending :=
  conclude s (do
    let t ← s.effType o.md.ty setAny
    let s' ← s.setV o.a (merge t (s.p o.md.pr) (s.v o.b) (s.v o.t))
    pure s'.retire)
/-- R129. -/
def execVand (o : V3) (s : State) : Ending := conclude s (bitwise o Nat.land s)
/-- R129. -/
def execVor (o : V3) (s : State) : Ending := conclude s (bitwise o Nat.lor s)
/-- R129. -/
def execVxor (o : V3) (s : State) : Ending := conclude s (bitwise o Nat.xor s)
/-- R129. -/
def execVshl (o : V3) (s : State) : Ending := conclude s (shift o (fun t a n => a <<< n % 2 ^ t.width) s)
/-- R129: copies of the sign for i types, zeros for z types. -/
def execVshr (o : V3) (s : State) : Ending :=
  conclude s (shift o (fun t a n => wrap t.width (intOf t a / 2 ^ n)) s)
/-- R129. -/
def execVabs (o : V2) (m : Bool) (s : State) : Ending :=
  conclude s (signOp o m (fun h b => b % h) (fun i => Int.natAbs i) s)
/-- R129. -/
def execVneg (o : V2) (m : Bool) (s : State) : Ending :=
  conclude s (signOp o m (fun h b => if b < h then b + h else b - h) (fun i => -i) s)

/-- The outcome of a comparison (05 Table 5.5). -/
def compare (cond : Fin 8) (nan lt eq : Bool) : Bool :=
  if nan then cond.val = 1 || cond.val = 6
  else match cond.val with
    | 0 => eq | 1 => !eq | 2 => lt | 3 => lt || eq | 4 => !(lt || eq) | 5 => !lt | 6 => false | _ => true

/-- R130. -/
def execVcmp (a : Reg8) (t b : Reg) (md : Md) (cond : Fin 8) (s : State) : Ending :=
  conclude s (do
    let ty ← s.effType md.ty setNum
    let l := (List.range ty.lanes).map fun i =>
      let x := laneOf (s.v t).toNat ty.width i
      let y := laneOf (s.v b).toNat ty.width i
      active ty (s.p md.pr) i &&
        (if ty.isFp then
          let u := s.val ty x
          let v := s.val ty y
          compare cond (isNan u || isNan v) (ltVal false u v) (!ltVal false u v && !ltVal false v u)
        else compare cond false (decide (intOf ty x < intOf ty y)) (decide (intOf ty x = intOf ty y)))
    let s' ← s.setP a (predOf ty l)
    pure s'.retire)

/-- One level of the tree of R34; `i` is the number of the next step. -/
def treeLevel (f : Nat → Nat → Nat → Nat) : List Nat → Nat → List Nat
  | a :: b :: r, i => f i a b :: treeLevel f r (i + 1)
  | l, _ => l
/-- The tree of R34, n levels. -/
def tree (f : Nat → Nat → Nat → Nat) : Nat → List Nat → Nat → Nat
  | 0, l, _ => l.headD 0
  | n + 1, l, i => tree f n (treeLevel f l i) (i + l.length / 2)

/-- The identity of an inactive lane (01 R34). -/
def identOf (t : ETy) (op : Fin 3) : Nat :=
  match t.fmt with
  | some f => if op = 0 then 2 ^ f.sign else (if op = 1 then 0 else 2 ^ f.sign) + f.infc.getD 0
  | none => if op = 0 then 0 else wrap t.width (if op = 1 then intMax t else intMin t)

/-- R132. -/
def execVred (o : V2) (op : Fin 3) (s : State) : Ending :=
  conclude s (do
    let t ← s.effType o.md.ty setNum
    let rm := s.rm none
    let l := (unpack t (s.v o.b)).zipIdx.map fun e => if active t (s.p o.md.pr) e.2 then e.1 else identOf t op
    let f : Nat → Nat → Nat → Nat := fun i a b =>
      if op ≠ 0 then minMax t (op = 2) a b
      else if t.isFp then s.round t rm i (addVal rm (s.val t a) (s.val t b))
      else (a + b) % 2 ^ t.width
    let s' ← s.setV o.a (BitVec.ofNat 512 (tree f (Nat.log2 t.lanes) l 0))
    pure (if t.isFp && op = 0 then s'.advance rm (t.lanes - 1) else s').retire)
/-- R133. -/
def execVbcast (o : V2) (s : State) : Ending :=
  conclude s (do
    let t ← s.effType o.md.ty setAny
    let s' ← s.putLanes o.a t o.md.pr (List.replicate t.lanes ((s.x o.b).toNat % 2 ^ t.width))
    pure s'.retire)
/-- R133. -/
def execVperm (o : V3) (s : State) : Ending :=
  conclude s (do
    let t ← s.effType o.md.ty setW8
    let s' ← lanes3 t o (fun _ _ b _ => laneOf (s.v o.t).toNat t.width (b % t.lanes)) s
    pure s'.retire)
/-- R134. -/
def execVext (a b : Reg) (ty : Option ETy) (idx : Fin 512) (s : State) : Ending :=
  conclude s (do
    let t ← s.effType ty setAny
    if t.lanes ≤ idx.val then s.illegalImm (idx.val / t.lanes * t.lanes)
    let c := laneOf (s.v b).toNat t.width idx.val
    let s' ← s.setX a (if t.isSigned then BitVec.ofInt 64 (intOf t c) else BitVec.ofNat 64 c)
    pure s'.retire)
/-- R134. -/
def execVins (a b : Reg) (ty : Option ETy) (idx : Fin 512) (s : State) : Ending :=
  conclude s (do
    let t ← s.effType ty setAny
    if t.lanes ≤ idx.val then s.illegalImm (idx.val / t.lanes * t.lanes)
    let s' ← s.setV a (pack t ((unpack t (s.v a)).set idx.val ((s.x b).toNat % 2 ^ t.width)))
    pure s'.retire)
/-- R135: the lanes of the wider type; destination lanes outside the part keep their values. A conversion to the same type copies
lanes, but for a NaN. -/
def execVcvt (o : V2) (dt : Fin 16) (rm : Option Rm) (part : Fin 8) (s : State) : Ending :=
  conclude s (do
    let t ← s.effType o.md.ty fun t => t ≠ .q4n
    match etyOf dt.val with
    | none => s.illegalIn 0
    | some d =>
      let r := max t.width d.width / min t.width d.width
      if d = .q4n then s.illegalIn 0
      if r ≤ part.val then s.illegalImm (part.val / r * r * 256)
      let m := s.rm rm
      let n := 512 / max t.width d.width
      let l := (List.range n).foldl (fun l i =>
        let src := if t.width < d.width then part.val * n + i else i
        let dst := if d.width < t.width then part.val * n + i else i
        let c := laneOf (s.v o.b).toNat t.width src
        l.set dst (if t = d then (if isNan (valueOf t c) then nanOf t else c) else s.round d m dst (s.val t c)))
        (unpack d (s.v o.a))
      let s' ← s.putLanes o.a d o.md.pr l
      pure (s'.advance m d.lanes).retire)

/-- A lane rounded to an integral value (05 R136). -/
def integral (t : ETy) (f : Fmt) (rm : Rm) (rnd : Nat) (c : Nat) : Nat :=
  match fmtValue f c with
  | .nan => nanOf t
  | .inf _ => c
  | .fin neg n e =>
    if 0 ≤ e || n = 0 then c
    else roundTo t f .rne 0 false neg (roundQuot rm rnd neg n (1 <<< (-e).toNat)) 1

/-- R136. -/
def execVrnd (o : V2) (rm : Option Rm) (s : State) : Ending :=
  conclude s (do
    let t ← s.effType o.md.ty ETy.isFp
    match t.fmt with
    | none => s.illegal
    | some f =>
      let m := s.rm rm
      let s' ← lanes2 t o (fun i b => integral t f m (s.rnd m i) (flush t s.my.csr.ftz b)) s
      pure (s'.advance m t.lanes).retire)

/-- The class bit of a lane (05 Table 5.7). -/
def classOf (t : ETy) (c : Nat) : Nat :=
  match t.fmt with
  | some f =>
    match fmtValue f c with
    | .nan => 8
    | .inf neg => if neg then 0 else 7
    | .fin neg n _ =>
      if n = 0 then (if neg then 3 else 4)
      else if c % 2 ^ f.sign < 2 ^ f.mb then (if neg then 2 else 5)
      else (if neg then 1 else 6)
  | none =>
    if t = .e8m0 then (if c = 255 then 8 else 6)
    else if intOf t c < 0 then 1 else if c = 0 then 4 else 6

/-- R137. -/
def execVclass (o : V2) (mask : BitVec 9) (s : State) : Ending :=
  conclude s (do
    let t ← s.effType o.md.ty fun t => t ≠ .q4n
    let n := ((s.lanesOn t o.md.pr).filter fun i =>
      mask.getLsbD (classOf t (laneOf (s.v o.b).toNat t.width i))).length
    let s' ← s.setX o.a (BitVec.ofNat 64 n)
    pure s'.retire)

end Sys2Proof.Machine
end

