-- ==== Sys2Proof/Machine/Message.lean ====
section
/-! DEFINITION. Major 22: active and queue messages, timed sends, posted stores, multicast and reducing stores
(06 R180 to R188). -/
namespace Sys2Proof.Machine
open Sys2Proof

/-- The executing mode is supervisor. -/
def State.isSup (s : State) : Bool := s.my.csr.mode == .supervisor

/-- An irrevocable action (06 R150, 11 R327). Where its region seals and the released operations still wait for injection
entries, the seal stands and the action waits behind them (06 R149). -/
def State.irrevocably (s : State) (go : State → Res) : Res := do
  let t ← s.irrevocable
  match go t with
  | .error .stall => if s.my.aux.deferred.isEmpty || s.my.releasing then stall else pure (t.setFate .quiet)
  | r => r

/-- A request is made and the instruction retires. -/
def State.requestRetire (s : State) (ord : Ord) (op : ROp) : Res := do
  let r ← s.request ord op .trecon
  pure r.1.retire

/-- An operation of 06 Table 6.2 is requested or deferred, and the instruction retires. -/
def State.deferRetire (s : State) (bytes : Nat) (ord : Ord) (op : ROp) : Res := do
  let r ← s.requestOrDefer bytes ord op
  pure r.1.retire

/-- SEND and SENDQ (06 R180, R181). -/
def send (queue : Bool) (o : R3) (mb : Ord) (s : State) : Res := do
  let w := s.x o.a
  s.checkTarget queue w
  let op := ROp.send queue w (s.x o.t) (s.x o.b) s.isSup
  if s.resolve (devOf w) = s.device then s.deferRetire 64 mb op
  else s.irrevocably fun s => s.requestRetire mb op

/-- R180. -/
def execSend (o : R3) (mb : Ord) (s : State) : Ending := conclude s (send false o mb s)
/-- R181. -/
def execSendq (o : R3) (mb : Ord) (s : State) : Ending := conclude s (send true o mb s)

/-- The latency of a timed send (09 Table 9.5); 0 to another package, where it is not fixed. -/
def timedLatency (k : Key) (own : Bool) (c : Nat) : Nat :=
  if !own then 0
  else if k.val = c then 4
  else if isHod k then (if dieOf k = dieOf (coreKey c) then 40 else 64)
  else if palletOf k.val = palletOf c then 16
  else if rowOf k.val / 16 = rowOf c / 16 ∧ colOf k.val / 16 = colOf c / 16 then 28
  else if dieOf k = dieOf (coreKey c) then 40 else 64

/-- What a slot clock shows at a running cycle of the partition. -/
def SlotClock.count (z : SlotClock) (clock : Nat) : Nat :=
  match z with
  | .counts r => clock - r
  | .stopped c => c

/-- The slot check of R276: 0x0A, or what a load of the entry raises. -/
def State.checkSlot (s : State) (slot : Nat) : Res := do
  let off := s.my.csr.slotbase.toNat + 8 * slot
  if s.my.csr.slotwin.toNat ≤ slot || decide (localSize s.me < off + 8) then trapF 0x0A
  s.checkLoads [(s.ownAddr off, .raw [(off, 8)] 0)]
  let e := BitVec.ofNat 64 (s.peek s.me off 8)
  match s.my.aux.slotClock with
  | none => trapF 0x0A
  | some z =>
    let c := z.count (s.pclk s.me)
    let start := bits e 31 0
    need (!(decide (bits e 63 48 ≠ 0 ∨ bits e 47 32 = 0) || decide (c < start ∨ start + bits e 47 32 ≤ c))) (trapF 0x0A)
    pure (s.countCe s.me [(off, 8)])

/-- R183, 09 R276, R277. -/
def execSendt (a b : Reg) (slot : Fin 512) (s : State) : Ending :=
  conclude s (do
    let ad := s.x b
    s.checkRemote true ad 64
    let s ← s.checkSlot slot.val
    let o := s.owner ad
    let due := s.pclk s.me + timedLatency s.me (o.dev = s.device) o.key
    let op := ROp.post (.timed ad (s.v a) due)
    s.irrevocably fun s => s.requestRetire .plain op)

/-- Bytes of the size codes 0 to 3 (06 R184, Table 6.8). -/
def sizeOf4 (z : Fin 4) : Nat := 8 / 2 ^ z.val

/-- R184. -/
def execFst (a : Reg) (m : MAddr) (size : Fin 4) (mb : Ord) (s : State) : Ending :=
  conclude s (do
    let ad := s.addr m
    s.checkRemote true ad (sizeOf4 size)
    s.deferRetire 32 mb (.post (.st ad (sizeOf4 size) (s.x a))))
/-- R184. -/
def execFstb (a : Reg) (m : MAddr) (hi : Bool) (mb : Ord) (s : State) : Ending :=
  conclude s (do
    let ad := s.addr m
    s.checkRemote true ad 1
    s.deferRetire 32 mb (.post (.nib ad hi (BitVec.ofNat 4 (s.x a).toNat))))

/-- The rectangle of x[T]: rows and columns, or 0x0E (06 R185). -/
def State.checkRect (s : State) (ad w : Word) : Except Stop (Nat × Nat) :=
  let r := bits w 13 8
  let c := bits w 5 0
  let core := (s.owner ad).key
  if r = 0 ∨ c = 0 ∨ 32 < r * c ∨ 64 < rowOf core + r ∨ 64 < colOf core + c then trapV 0x0E ad else .ok (r, c)

/-- R185. -/
def execMcst (a : Reg) (m : MAddr) (t : Reg) (md : Md) (mb : Ord) (s : State) : Ending :=
  conclude s (do
    let ty ← s.effType md.ty setAny
    let ad := s.addr m
    s.checkFar true ad 64
    let r ← s.checkRect ad (s.x t)
    s.noBody
    s.deferRetire 128 mb (.post (.mc ad r.1 r.2 ty (s.p md.pr) (s.v a))))
/-- R185. -/
def execRdst (a : Reg) (m : MAddr) (t : Reg) (op : Fin 3) (md : Md) (mb : Ord) (s : State) : Ending :=
  conclude s (do
    let ty ← s.effType md.ty setNum
    let ad := s.addr m
    s.checkFar true ad 64
    let r ← s.checkRect ad (s.x t)
    s.noBody
    s.deferRetire 128 mb (.post (.rd ad r.1 r.2 op ty (s.p md.pr) (s.v a))))

end Sys2Proof.Machine
end

