-- ==== Sys2Proof/Machine/Remote.lean ====
section
/-! DEFINITION. Major 28, the requests with results and the atomics (06 R189 to R193). -/
namespace Sys2Proof.Machine
open Sys2Proof

/-- A request with a result is made, its result becomes outstanding, and the instruction retires. -/
def State.remote (s : State) (a : Word) (op : ROp) (d : RegName) (acq atomic : Bool) (la : Nat) : Res := do
  let ord : Ord := if acq then .rel else .plain
  let r ← s.request ord op (.reg d)
  let o := s.owner a
  pure (r.1.expect r.2 (.reg d) la (decide (o.dev = s.device)) acq atomic (s.linesOf op)).retire

/-- R190. -/
def execFld (t : Reg) (m : MAddr) (size : Fin 4) (acq : Bool) (la : Fin 16) (s : State) : Ending :=
  conclude s (do
    let ad := s.addr m
    s.checkRemote false ad (sizeOf4 size)
    s.remote ad (.load ad (sizeOf4 size)) (.x t) acq false la.val)
/-- R190. -/
def execFldv (t : Reg) (m : MAddr) (md : Md) (acq : Bool) (la : Fin 16) (s : State) : Ending :=
  conclude s (do
    let ty ← s.effType md.ty setAny
    let ad := s.addr m
    s.checkRemote false ad 64
    s.remote ad (.loadv ad ty (s.p md.pr)) (.v t) acq false la.val)

/-- The operands of R193: CAS needs x[T] and x[T + 1] with T from 1 to 30, FADD the 4-byte size. -/
def State.amoOperands (s : State) (t : Reg) (op : Fin 11) (w4 : Bool) : Except Stop (Word × Word) := do
  if op.val = 9 && decide (t.val = 0 ∨ t.val = 31) then s.illegalIn 1
  if op.val = 10 && !w4 then s.illegalIn 0
  pure (s.x t, s.x (t + 1))

/-- R193: on the issuing core's own slice a lock traps, elsewhere the action is irrevocable (06 R147, R150). -/
def execAmo (t b : Reg) (op : Fin 11) (w4 acq : Bool) (la : Fin 16) (s : State) : Ending :=
  conclude s (do
    let v ← s.amoOperands t op w4
    let ad := s.x b
    let n := if w4 then 4 else 8
    s.checkRemote true ad n
    let rop := ROp.amo ad op w4 v.1 v.2
    if s.isOwn ad && !isHod s.me then
      if !s.locksFree true [(offOf ad, n)] then trapV 0x05 ad
      s.remote ad rop (.x t) acq true la.val
    else s.irrevocably fun s => s.remote ad rop (.x t) acq true la.val)
/-- R193: posted under R186 and R187. -/
def execAmoq (t b : Reg) (op : Fin 11) (w4 : Bool) (mb : Ord) (_la : Fin 16) (s : State) : Ending :=
  conclude s (do
    let v ← s.amoOperands t op w4
    let ad := s.x b
    s.checkRemote true ad (if w4 then 4 else 8)
    s.deferRetire 32 mb (.post (.amoq ad op w4 v.1 v.2)))

end Sys2Proof.Machine
end

