-- ==== Sys2Proof/Machine/Stream.lean ====
section
/-! DEFINITION. Major 15: stream bindings, course links, the receive queue (06 R166 to R173, R179), and the events of the
transfer units (06 R168, R173). -/
namespace Sys2Proof.Machine
open Sys2Proof

/-- Word i of a 64-byte descriptor. -/
def dword (d : Nat) (i n : Nat) : Nat := d >>> (8 * i) % 2 ^ (8 * n)

/-- The dimensions of a stream descriptor (06 Table 6.5). -/
def dimsOf (d : Nat) : List (Nat × Int) :=
  (List.range (bits (BitVec.ofNat 64 (dword d 8 4)) 6 5 + 1)).map fun i =>
    (dword d (16 + 8 * i) 4, Int.bmod (dword d (20 + 8 * i) 4) (2 ^ 32))

/-- The RSV fields of a stream descriptor; dimensions that NDIM leaves out are ignored. -/
def strmRsv (d : Nat) : Bool := decide (dword d 8 4 / 4096 ≠ 0) || decide (dword d 12 4 ≠ 0) || decide (dword d 48 16 ≠ 0)

/-- The stream that a descriptor describes; none where 06 R167 refuses it. -/
def State.streamOf (s : State) (d : Nat) : Option Stream :=
  let base := BitVec.ofNat 64 (dword d 0 8)
  let ctl := BitVec.ofNat 64 (dword d 8 4)
  let write := ctl.getLsbD 4
  let cpy := ctl.getLsbD 7
  match etyOf (bits ctl 3 0) with
  | none => none
  | some t =>
    let dims := dimsOf d
    let w := t.width
    let lo : Int := (offOf base * 8 : Nat) + patLo dims * w
    let hi : Int := (offOf base * 8 : Nat) + patHi dims * w + w
    if (write && (t = .q4n || decide (winOf base ≠ 0) || cpy)) || decide (2 ^ 32 ≤ patTotal dims) ||
        dims.any (fun e => decide (e.1 = 0 ∨ 2 ^ 20 < e.1)) || strmRsv d || !s.isOwn base || decide (bits base 51 32 ≠ 0) ||
        decide (lo < 0 ∨ (8 * localSize s.me : Nat) < hi) || decide (offOf base % max 1 (w / 8) ≠ 0) then none
    else some { ctx := s.cc, write := write, base := base, ety := t, dims := dims, total := patTotal dims, cursor := 0,
                fetched := 0, cpy := cpy, landed := 0, err := false, peg := Fin.ofNat 8 (bits ctl 10 8),
                pegen := ctl.getLsbD 11, buf := [] }

/-- The raw extent of a stream, lowest to highest byte (06 R147, R167); none where a window decodes it badly. -/
def State.extent (s : State) (t : Stream) : Option (Nat × Nat) :=
  let lo := ((offOf t.base * 8 : Int) + patLo t.dims * t.ety.width).toNat / 8
  let hi := ((offOf t.base * 8 : Int) + patHi t.dims * t.ety.width).toNat / 8
  match s.readVia s.me (winOf t.base) (s.myCore.win (winOf t.base)) lo t.bytes,
      s.readVia s.me (winOf t.base) (s.myCore.win (winOf t.base)) hi t.bytes with
  | some (_, a), some (_, b) => some (hull (a ++ b))
  | _, _ => none

/-- R166, R167; 10 R300. -/
def sbind (i : Reg8) (m : MAddr) (s : State) : Res := do
  let ad := s.addr m
  s.checkFormat ad
  if !isSlice ad then trapV 0x04 ad
  s.checkAccess false ad 64 64
  let p ← s.loadPiece ad 64
  let old := s.strm s.me i
  if (match old with | some t => decide (t.ctx ≠ s.cc) | none => false) || s.isLink i then trapF 0x08
  match s.streamOf (s.pieceVal p) with
  | none => trapF 0x08
  | some t =>
    match s.extent t with
    | none => trapF 0x08
    | some (lo, hi) =>
      s.noBody
      s.checkReads [(ad, p)]
      if s.conflict s.me (some (.strm i)) t.write lo hi then
        trapV 0x05 (s.ownAddr (s.conflictAt s.me (some (.strm i)) t.write lo hi))
      if (match old with | some o => o.write && !o.buf.isEmpty | none => false) then stall
      let s := s.unregister s.me 0 (.strm i)
      if 32 ≤ s.rangesUsed s.me then stall
      let s := (s.register s.me ⟨lo, hi, t.write, .strm i, 0, none⟩).countCe s.me p.raws
      pure (s.setStrm s.me i (some t)).retire

def execSbind (i : Reg8) (m : MAddr) (s : State) : Ending := conclude s (sbind i m s)
/-- R170. -/
def execSunbind (i : Reg8) (s : State) : Ending :=
  conclude s (do
    let t ← s.held i
    s.noBody
    if t.write && !t.buf.isEmpty then stall
    pure ((s.setStrm s.me i none).unregister s.me 0 (.strm i)).retire)
/-- The status word of R171. -/
def State.sstat (s : State) (i : Reg8) : Word :=
  match s.myCore.linkBy with
  | some c => if 6 ≤ i.val then
      at_ (if i.val = 6 then s.myCore.west.length else 4 - s.eastHeld) 32 ||| bit true 31 ||| bit (i.val = 7) 30 |||
        at_ c.val 28 ||| bit true 27 ||| at_ 6 0
    else sstatOf s i
  | none => sstatOf s i
where
  /-- The status of a bound stream; 0 for an unbound one. -/
  sstatOf (s : State) (i : Reg8) : Word :=
    match s.strm s.me i with
    | some t => at_ (t.total - t.cursor) 32 ||| bit true 31 ||| bit t.write 30 ||| at_ t.ctx.val 28 ||| bit t.err 26 |||
        bit t.cpy 25 ||| at_ t.ety.code 0
    | none => 0
/-- R171. -/
def execSstat (a : Reg) (i : Reg8) (s : State) : Ending :=
  conclude s (do
    s.noBody
    let s' ← s.setX a (s.sstat i)
    pure s'.retire)
/-- R172. -/
def execSskip (i : Reg8) (b : Reg) (s : State) : Ending :=
  conclude s (do
    let t ← s.held i
    let n := (s.x b).toNat
    if t.total - t.cursor < n then trapF 0x08
    s.noBody
    let t' := { t with cursor := t.cursor + n,
                       buf := if t.write then t.buf else t.buf.filter fun e => decide (t.cursor + n ≤ e.1) }
    pure (s.putStrm s.me i t t').retire)
/-- R173. -/
def execSlink (on : Bool) (s : State) : Ending :=
  conclude s (do
    let by_ := s.myCore.linkBy
    let bound := (s.strm s.me 6).isSome || (s.strm s.me 7).isSome
    if (by_.isSome && decide (by_ ≠ some s.cc)) || (on && (isHod s.me || (bound && by_.isNone))) then trapF 0x08
    s.noBody
    pure (s.updMine fun co => { co with linkBy := if on then some s.cc else none }).retire)

/-- The entry that an empty queue reads as: KIND 15 (06 R179). -/
def emptyEntry : VWord := entry 15 0 0 false 0 0 0 0 0 0 0 0

/-- The oldest entry as it is read: 0x21 where it holds an uncorrectable word, with an XVALUE that no rule gives; a correctable
word is counted (17 R403, R415). -/
def State.readEntry (s : State) : Except Stop (VWord × State) :=
  match s.myCore.rq.head? with
  | none => .ok (emptyEntry, s)
  | some i => match i.err with
    | some true => trapF 0x21
    | some false => .ok (i.e, (s.countOneCe s.me).updMine fun co =>
        { co with rq := lmod co.rq 0 fun i => { i with err := none } })
    | none => .ok (i.e, s)

/-- R179. -/
def execRecv (a : Reg) (s : State) : Ending :=
  conclude s (do
    s.noBody
    let (e, s) ← s.readEntry
    let s' ← (s.updMine fun co => Core.settle { co with rq := co.rq.drop 1 }).setV a e
    pure s'.retire)
/-- R179. -/
def execPeek (a : Reg) (s : State) : Ending :=
  conclude s (do
    s.noBody
    let (e, s) ← s.readEntry
    let s' ← s.setV a e
    pure s'.retire)
/-- R179: parks until the queue holds an entry; 0x01 in a slaved context (09 R271). -/
def execWaitmsg (s : State) : Ending :=
  conclude s (do
    if s.slaved s.me s.cc then s.illegal
    s.noBody
    pure (if s.myCore.rq.isEmpty then s.park .msg else s.retire))

/-! ## The transfer units -/

/-- R168: a read stream's unit reads a line ahead of the cursor. -/
def execStreamLineFill (c : Key) (i : Reg8) (s : State) : Ending :=
  fire s (if s.liveCore c then s.fillLine c i else none)
/-- R168: a write stream's unit writes a line of pushed elements. -/
def execStreamLineDrain (c : Key) (i : Reg8) (s : State) : Ending :=
  fire s (if s.liveCore c then s.drainLine c i else none)
/-- R173: a pushed word reaches the neighbour's buffer. -/
def evCourseLinkDeliver (c : Key) (s : State) : Option State :=
  if isHod c || colOf c.val = 63 || !s.liveCore c then none else
  let d := coreKey (c.val + 1)
  match (s.core c).east with
  | [] => none
  | w :: r => if 4 ≤ (s.core d).west.length then none else
    some ((s.updCore c fun co => { co with east := r }).updCore d fun co => { co with west := co.west ++ [w] })
def execCourseLinkDeliver (c : Key) (s : State) : Ending := fire s (evCourseLinkDeliver c s)

end Sys2Proof.Machine
end

