-- ==== Sys2Proof/Machine/TxnOps.lean ====
section
/-! DEFINITION. What the transaction instructions share: the descriptor, tile addresses, declaring a tile (08 R242 to
R246). -/
namespace Sys2Proof.Machine
open Sys2Proof

/-- The state with another context as the executing one. -/
def State.as_ (s : State) (k : Key) (c : CtxNo) : State := { s with m := { s.m with cur := (k, c) } }

/-- Bytes of the executing core's local store as a word. -/
def State.own64 (s : State) (off : Nat) : Word := BitVec.ofNat 64 (s.peek s.me off 8)

/-- The address of a descriptor (02 R49, 08 R243). -/
def State.checkDesc (s : State) (a : Word) (n : Nat) : Except Stop Unit := do
  s.checkFormat a
  if !s.isOwn a || decide (winOf a ≠ 0) then trapV 0x04 a
  if a.toNat % 64 ≠ 0 then trapV 0x03 a
  if localSize s.me < offOf a + n then trapV 0x0E a

/-- A tile address (08 R242, R243). -/
def State.checkTile (s : State) (part : Nat) (a : Word) : Except Stop Unit := do
  match s.checkFormat a with
  | .error (.trap c _) => trapV c a
  | _ => pure ()
  if isSlice a && decide (winOf a ≠ 0) then trapV 0x0E a
  if a.toNat % 0x1000 ≠ 0 then trapV 0x03 a
  if isSlice a && !s.inSpan part (s.owner a) then trapV 0x0B a

/-- A tile's name: device 0xFF is the issuing device (02 R48). -/
def State.tileName (s : State) (a : Word) : Word :=
  if isSlice a then (a &&& 0xF00FFFFFFFFFFFFF) ||| at_ (s.resolve (devOf a)).toNat 52 else a

/-- NREAD and NWRITE of the header. -/
def hdrReads (h : Word) : Nat := bits h 36 32
def hdrWrites (h : Word) : Nat := bits h 40 37

/-- The offset of read entry i or write entry j. -/
def readAt (d : Word) (i : Nat) : Nat := offOf d + 64 + 16 * i
def writeAt (d : Word) (j : Nat) : Nat := offOf d + 320 + 16 * j

/-- The index of a tile in the read list and in the write list. -/
def State.inReads (s : State) (d tile : Word) : Option Nat :=
  (List.range (min 16 (hdrReads (s.own64 (offOf d))))).find? fun i => s.tileName (s.own64 (readAt d i)) = s.tileName tile
def State.inWrites (s : State) (d tile : Word) : Option Nat :=
  (List.range (min 8 (hdrWrites (s.own64 (offOf d))))).find? fun j => s.tileName (s.own64 (writeAt d j)) = s.tileName tile

/-- The words of a descriptor that say which tiles it declares: its header and the addresses of the entries that count. -/
def State.descWords (s : State) (d : Word) : List (Nat × Nat) :=
  let h := s.own64 (offOf d)
  (offOf d, 8) :: (((List.range (min 16 (hdrReads h))).map fun i => (readAt d i, 16)) ++
    (List.range (min 8 (hdrWrites h))).map fun j => (writeAt d j, 8))

/-- An instruction that reads these words finds none in error (17 R403); corrected ones are counted. -/
def State.readDesc (s : State) (d : Word) : Res := do
  (s.descWords d).forM fun w => s.checkWords d w.1 w.2
  pure (s.countCe s.me (s.descWords d))

/-- Stores into the descriptor, checked against the range locks and logged (08 R244). -/
def State.putDesc (s : State) (d : Word) (ps : List (Nat × Nat × Nat)) : Res := do
  match ps.find? fun p => !s.locksFree true [(p.1, p.2.1)] with
  | some p => trapV 0x05 ((d &&& 0xFFFFFFFFFFF00000) ||| at_ p.1 0)
  | none => pure ()
  s.putOwn ps

/-- A tile appended to a list with its VERSION and FLAGS; 0x14 where the list is full or holds it (08 R244). -/
def State.declare (s : State) (d tile : Word) (write : Bool) (version : Nat) (chk : Bool) : Res := do
  let s ← s.readDesc d
  let h := s.own64 (offOf d)
  let n := if write then hdrWrites h else hdrReads h
  if (if write then 8 else 16) ≤ n || (s.inReads d tile).isSome || (s.inWrites d tile).isSome then trapF 0x14
  let e := if write then [(writeAt d n, 8, tile.toNat), (writeAt d n + 8, 8, 0)]
    else [(readAt d n, 8, tile.toNat), (readAt d n + 8, 4, version), (readAt d n + 12, 4, if chk then 1 else 0)]
  s.putDesc d (e ++ [(offOf d, 8, h.toNat + (if write then 2 ^ 37 else 2 ^ 32))])

/-- What TRECON does with the version in hand (08 R245). -/
def State.recordVersion (s : State) (d tile : Word) (v : Nat) : Res := do
  let t ← s.readDesc d
  match s.inReads d tile with
  | some i => t.putDesc d [(readAt d i + 8, 4, v), (readAt d i + 12, 4, (bits (s.own64 (readAt d i + 8)) 63 32) / 2 * 2 + 1)]
  | none => if (s.inWrites d tile).isSome then trapF 0x14 else s.declare d tile false v true

/-- The reply of a TRECON reaches its parked context: the instruction acts and retires, or its trap or fault is raised at
it (08 R245); the checker stage may find it wrong (17 Table 17.1). -/
def State.treconReply (s : State) (k : Key) (c : CtxNo) (op : ROp) (v : Nat) (fault : Option (BitVec 8)) : State :=
  match (s.ctx k c).run, op with
  | .parked .trecon succ, .trecon d tile =>
    let t := (s.as_ k c).upd fun x => { x with run := .running }
    let u := match fault with
      | some f => t.raise f (some (at_ (s.ctx k c).pc.toNat 0))
      | none => if (s.ctx k c).faulty then t.blocked k c else match t.recordVersion d tile v with
        | .ok u => (u.addHist k c (s.ctx k c).pc (s.core k).logHead s.m.nextId false).jump succ
        | .error (.trap f w) => t.raise f w
        | .error (.full co w) => (t.setLogged k (t.myCore.madeRoom co)).raise 0x12 w
        | .error (.inject f w kind) => (t.fireTrigger k c kind).raise f (some w)
        | .error .stall => s
    { u with m := { u.m with cur := s.m.cur } }
  | _, _ => s

end Sys2Proof.Machine
end

