-- ==== Sys2Proof/Machine/FabricEv.lean ====
section
/-! DEFINITION. The events of the fabric: arrivals, departures, posted operations and their acknowledgements, remote loads
and replies, atomics, accesses of hods to far memory (06 R154, R175 to R194; 17 R401, R410). -/
namespace Sys2Proof.Machine
open Sys2Proof

/-- The message at a place, if it is there. -/
def State.msg (s : State) (i : Nat) : Option Msg := s.sh.fabric[i]?

/-! ## Sends (06 R176, R181, R182) -/

/-- The sender's fields of an entry; a host's record comes from device 0xFF (16 R394). -/
def Req.entryFrom (r : Req) (kind hpc : Nat) (a1 a2 tag : Word) : VWord :=
  if r.host.isSome then entry kind 0xFF 0 false 0 0 hpc a1 a2 tag 0 0
  else entry kind r.dev (index r.src) (isHod r.src) r.ctx.val 0 hpc a1 a2 tag 0 0

/-- The core or hod that answers a request, the one at place j of its owners. -/
def State.answerer (s : State) (r : Req) (j : Nat) : Nat :=
  match r.op with
  | .trecon _ t => coreOf t
  | op => ((s.owners op).getD j ⟨0, 0⟩).key

/-- The record leaves the host injection queue. -/
def State.hostDone (s : State) (p : Fin 2) (id : Nat) : State :=
  { s with ports := s.ports.set p { s.ports[p] with inj := s.ports[p].inj.filter fun j => j ≠ id } }

/-- A record of a host port is answered, with a notice where one is due: at once where it came from this package, else by a message
to its own (16 R394). -/
def State.toPort (s : State) (r : Req) (p : Fin 2) (n : Option (BitVec 1024)) : State :=
  if r.dev = s.device then
    match n with
    | some n => (s.hostDone p r.id).notice p n
    | none => s.hostDone p r.id
  else s.post (.away r.dev (s.answerer r 0) (.host p r.id n))

/-- A send is accepted: its entry is freed by an answer (06 R175). -/
def State.accepted (s : State) (r : Req) : State :=
  match r.host with
  | some p => s.toPort r p none
  | none => s.postTo (s.answerer r 0) r.dev (.accept r.src r.id)

/-- A send is returned by a bounce (KIND 3), a NACK (4) or a delivery fault (6); to a port as a notice (16 R394). -/
def State.returned (s : State) (r : Req) (dst : Owner) (kind cause : Nat) : State :=
  let e := r.returned s dst kind cause
  match r.host with
  | some p =>
    let t := e.toNat - (eword e 3).toNat <<< 192 + r.htag.toNat <<< 192
    s.toPort r p (some (BitVec.ofNat 1024 t))
  | none => s.postTo (s.answerer r 0) r.dev (.ret r.src r.id e)

/-- A message from outside the package that reaches a partition which does not run is turned away (14 R349, R357). -/
def State.turnedAway (s : State) (r : Req) : Bool :=
  (r.host.isSome || decide (r.dev ≠ s.device)) && !(s.part r.part).live

/-- The offset of the handle table entry of a handle word (06 R181). -/
def Core.handleAt (co : Core) (w : Word) : Nat := bits co.csr.qtab 19 0 + 8 * bits w 9 0

/-- The handle table entry of a handle word at its owner (06 R181), or the cause of the bounce where it is invalid. An entry in
error maps nothing: a bounce with 0x21 (log entry 101). -/
def State.handle (s : State) (k : Key) (w : Word) : Except (BitVec 8) Word :=
  let a := (s.core k).handleAt w
  if localSize k < a + 8 then .error 0x0C else
  if (s.badWord (Loc.local_ k a) 8).isSome then .error 0x21 else
  let h := BitVec.ofNat 64 (s.peek k a 8)
  if h.getLsbD 63 && decide (bits h 57 48 = bits w 19 10) then .ok h else .error 0x0C

/-- An active or queue message reaches its owner (06 R176 to R182). Of a handle table's handler PC bit 0 counts as zero (log entry
121). -/
def State.sendArrives (s : State) (r : Req) (dst : Owner) (k : Key) : State :=
  if s.denied r.part dst then s.returned r dst 3 0x0B else
  if s.turnedAway r then s.returned r dst 4 0 else
  match r.op with
  | .send false w a1 a2 sup =>
    match s.arrive k (r.entryFrom 0 (bits w 14 0) a1 a2 w) sup with
    | some t => t.accepted r
    | none => s.returned r dst 4 0
  | .send true w a1 a2 sup =>
    match s.handle k w with
    | .error c => s.returned r dst 3 c.toNat
    | .ok h =>
      let s := s.countCe k [((s.core k).handleAt w, 8)]
      let co := s.core k
      if h.getLsbD 62 then
        if placed co.rq .spill < co.spillMax then
          let item : RqItem := ⟨r.entryFrom 1 0 a1 a2 w, sup, .spill, none⟩
          ((s.setCore k (Core.settle { co with rq := co.rq ++ [item] })).spilled k).accepted r
        else s.returned r dst 4 0
      else match s.arrive k (r.entryFrom 1 (bits h 46 32 / 2 * 2) a1 a2 w) sup with
        | some t => t.accepted r
        | none => s.returned r dst 4 0
  | _ => s

/-- A record of a host port is not overtaken on its way to one core or line (16 R393). -/
def State.hostTurn (s : State) (i : Nat) (r : Req) (dst : Owner) : Bool :=
  r.host.isNone || !((s.sh.fabric.take i).any fun m => match m with
    | .req q d _ => decide (q.host = r.host ∧ d = dst)
    | _ => false)

/-- A request may be performed: its sender's partition runs, or it is answered by a refusal (14 R357). -/
def State.mayPerform (s : State) (i : Nat) (r : Req) (dst : Owner) : Bool :=
  (s.runs r.part r.op || s.denied r.part dst || s.turnedAway r) && s.hostTurn i r dst

/-- R176, R178, R181, R182: a message reaches the core it names; an entry for a core outside its partition is dropped (00 R7; log
entry 107). -/
def evMessageArrival (i : Nat) (s : State) : Option State :=
  match s.msg i with
  | some (.req r dst _) =>
    match r.op, dst.local_ s with
    | .send .., some k => if s.mayPerform i r dst then some ((s.unpost i).sendArrives r dst k) else none
    | _, _ => none
  | some (.ent dst e sup n) =>
    match dst.local_ s with
    | some k => some (if s.inSpan n dst then (s.unpost i).offer k e sup else s.unpost i)
    | none => none
  | _ => none
def execMessageArrival (i : Nat) (s : State) : Ending := fire s (evMessageArrival i s)

/-- R175, R176: a bounce, NACK or delivery fault takes a return entry and frees the injection entry; the answer to a host's record
from another package reaches the port (16 R394). -/
def evReturnArrival (i : Nat) (s : State) : Option State :=
  match s.msg i with
  | some (.ret k id e) => if s.liveCore k then some (((s.unpost i).freeEntry k id).arriveRet k e) else none
  | some (.host p id n) => some (match n with
      | some n => ((s.unpost i).hostDone p id).notice p n
      | none => (s.unpost i).hostDone p id)
  | _ => none
def execReturnArrival (i : Nat) (s : State) : Ending := fire s (evReturnArrival i s)

/-- R175: an acceptance frees the injection entry. -/
def evSendAcceptance (i : Nat) (s : State) : Option State :=
  match s.msg i with
  | some (.accept k id) => if s.liveCore k then some ((s.unpost i).freeEntry k id) else none
  | _ => none
def execSendAcceptance (i : Nat) (s : State) : Ending := fire s (evSendAcceptance i s)

/-- R176, R395: a held entry or notice is offered again every 1 µs; the interval counts the partition's running time. -/
def evHeldEntryRetry (i : Nat) (s : State) : Option State :=
  match s.sh.held[i]? with
  | none => none
  | some h =>
    let s0 := { s with sh := { s.sh with held := s.sh.held.eraseIdx i } }
    let again := { s0 with sh := { s0.sh with held := s0.sh.held ++ [{ h with at_ := s.now + 1000 }] } }
    match h.what with
    | .notice p n =>
      if s.now < h.at_ || ((s.sh.held.take i).any fun g => g.isNotice p) then none
      else if s.ports[p].notices.length < 256 then some (s0.pushNotice p n)
      else some { s with sh := { s.sh with held := lmod s.sh.held i fun h => { h with at_ := s.now + 1000 } } }
    | .entry k e sup =>
      if s.now < h.at_ || !s.liveCore k then none
      else match s0.arrive k e sup with
        | some t => some t
        | none => some again
    | .record .. => none
def execHeldEntryRetry (i : Nat) (s : State) : Ending := fire s (evHeldEntryRetry i s)

/-- R187: a request leaves the injection queue. -/
def execInjectionDepart (c : Key) (i : Nat) (s : State) : Ending := fire s (s.depart c i)

/-! ## Posted operations (06 R184 to R188) -/

/-- The pieces (offset, length, value) that a posted operation writes at a destination. -/
def State.postPieces (s : State) (k : Key) (p : PostOp) : List (Nat × Nat × Nat) :=
  let plain := fun (l : List (Word × Nat × Nat)) => l.map fun e => (e.1.toNat, e.2.1, e.2.2)
  let on := fun (t : ETy) (m : Word) => (List.range t.lanes).filter fun i => active t m i
  match p with
  | .st a n d => [(offOf a, n, d.toNat % 2 ^ (8 * n))]
  | .nib a hi d =>
    let b := s.peek k (offOf a) 1
    [(offOf a, 1, if hi then b % 16 + 16 * d.toNat else b / 16 * 16 + d.toNat)]
  | .timed a d _ => [(offOf a, 64, d.toNat)]
  | .mc a _ _ t m d => plain (vstPieces (at_ (offOf a) 0) t (on t m) d fun j => s.peek k (offOf a + j) 1)
  | .rd a _ _ op t m d => (on t m).map fun i =>
      let o := offOf a + i * t.width / 8
      let x := s.peek k o (t.width / 8)
      let y := laneOf d.toNat t.width i
      let r := if op = 1 then minMax t false x y else if op = 2 then minMax t true x y
        else if t.isFp then convert t .rne 0 false (addVal .rne (valueOf t x) (valueOf t y))
        else (x + y) % 2 ^ t.width
      (o, t.width / 8, r)
  | .amoq .. => []

/-- The bytes (offset, length) that a posted operation reads to write them: a read-modify-write counts their correctable words (06
R152), and carries the errors of the others (17 R404). -/
def PostOp.reads : PostOp → List (Nat × Nat)
  | .nib a _ _ => [(offOf a, 1)]
  | .rd a _ _ _ t m _ => ((List.range t.lanes).filter fun i => active t m i).map fun i => (offOf a + i * t.width / 8, t.width / 8)
  | .mc a _ _ t m _ => (halfBytes t ((List.range t.lanes).filter fun i => active t m i)).map fun j => (offOf a + j, 1)
  | _ => []

/-- The writer of a request's bytes (06 R148, 16 R394). -/
def Req.writer (r : Req) : Writer :=
  if r.host.isSome then ⟨⟨0xFF, 0⟩, 0, true⟩ else ⟨⟨r.dev, r.src.val⟩, r.ctx, true⟩

/-- Pieces written at an owner for a request that read some bytes first: the words that it found in error stay so. -/
def State.putFor (s : State) (k : Key) (r : Req) (reads : List (Nat × Nat)) (ps : List (Nat × Nat × Nat)) : State :=
  (((s.countCe k reads).putEngine k r.writer ps)).poison (s.badPlaces (reads.map fun q => (Loc.local_ k q.1, q.2)))

/-- The receive queue and its spill area are full: an `FSTB` is refused (06 R188). -/
def Core.rqFull (co : Core) : Bool := decide (48 ≤ placed co.rq .arrival) && decide (co.spillMax ≤ placed co.rq .spill)

/-- Why the owner refuses a posted operation (06 R188): outside the partition, stopped, locked, or no room for a nibble store. -/
def State.refusal (s : State) (r : Req) (dst : Owner) (k : Key) (p : PostOp) (ps : List (Nat × Nat × Nat)) :
    Option (BitVec 8) :=
  if s.denied r.part dst || s.turnedAway r then some 0x0B
  else if ps.any fun q => (s.lockHit k none none q.1 (q.1 + q.2.1)).2 then some 0x05
  else match p with
    | .nib .. => if (s.core k).rqFull then some 0x0B else none
    | _ => none

/-- A posted operation is answered: an acknowledgement, or the notice of a host's line write (16 Table 16.3). -/
def State.ackPost (s : State) (r : Req) (j : Nat) (refused : Option (BitVec 8)) : State :=
  match r.host with
  | some p =>
    let a := match r.op with | .post (.mc a ..) => a | _ => 0
    s.toPort r p (if refused.isSome || r.notify then
      some (hostNotice 0 0 false ((refused.getD 0).toNat) 6 a 0 (at_ r.htag.toNat 0) 0 0 0) else none)
  | none =>
    s.postTo (s.answerer r j) r.dev (.ack r.src r.ctx r.id j refused.isSome (match r.op with | .post (.nib ..) => true | _ => false) r.pc)

/-- The path on which a request of a context of this package left. -/
def State.pathOf (s : State) (r : Req) : Option (Fin 4) :=
  if r.dev = s.device then ((s.ctx r.src r.ctx).aux.posted.find? fun p => p.id = r.id).map (·.path) else none

/-- A timed send travels on a path of its own (09 R277). -/
def ROp.isTimed : ROp → Bool
  | .post (.timed ..) => true
  | _ => false

/-- An earlier posted operation q of a context goes before r to an owner: on one path (06 R186), or to one line (10 R291); a timed
send too is then late (log entry 140). -/
def State.goesBefore (s : State) (q r : Req) : Bool :=
  q.op.isPost && q.host.isNone && decide (q.dev = r.dev ∧ q.src = r.src ∧ q.ctx = r.ctx) &&
    ((decide (q.op.isTimed = r.op.isTimed) && decide (s.pathOf q = s.pathOf r)) || sameLine (s.linesOf q.op) (s.linesOf r.op))

/-- Operations of one context on one path reach one owner in order (06 R186). -/
def State.pathTurn (s : State) (i : Nat) (r : Req) (dst : Owner) : Bool :=
  r.host.isSome || !((s.sh.fabric.take i).any fun m => match m with
    | .req q d _ => decide (d = dst) && s.goesBefore q r
    | _ => false)

/-- An `AMOQ` that waits at a port of the engine is performed before the operations that it goes before. -/
def State.engineTurn (s : State) (r : Req) (dst : Owner) : Bool :=
  r.host.isSome || !(s.sh.atomics.any fun e => e.2.ports.any fun q => decide (q.2.2.1 = dst) && s.goesBefore q.2.1 r)

/-- A timed send is performed no earlier than its cycle (09 R277). -/
def PostOp.ready (p : PostOp) (clock : Nat) : Bool :=
  match p with
  | .timed _ _ due => decide (due ≤ clock)
  | _ => true

/-- R184, R185, R188: the owner performs or refuses a posted operation; a host's line write stops reverse steps
(18 R422). -/
def evPostedOpPerform (i : Nat) (s : State) : Option State :=
  match s.msg i with
  | some (.req r dst j) =>
    match r.op, dst.local_ s with
    | .post (.amoq ..), _ => none
    | .post p, some k =>
      if s.mayPerform i r dst && s.pathTurn i r dst && s.engineTurn r dst && p.ready ((s.part r.part).clock s.cycle) then
        let ps := s.postPieces k p
        let no := s.refusal r dst k p ps
        let s := s.unpost i
        let done := fun (s : State) => if r.host.isSome then s.irrevCore k else s
        some ((if no.isSome then s else done (s.putFor k r p.reads ps)).ackPost r j no)
      else none
    | _, _ => none
  | _ => none
def execPostedOpPerform (i : Nat) (s : State) : Ending := fire s (evPostedOpPerform i s)

/-- A refusal enters the context's record as it returns (06 R188): the destination in the mask, the operation counted once, the
PC of the first. -/
def Ctx.refused (x : Ctx) (p : Posted) (j : Nat) : Ctx :=
  { x with aux := { x.aux with
      refMask := x.aux.refMask ||| BitVec.ofNat 32 (1 <<< j),
      refCount := if p.denied = 0 || x.aux.refPc.isNone then x.aux.refCount + 1 else x.aux.refCount,
      refPc := some (x.aux.refPc.getD p.pc) } }

/-- The context after an acknowledgement: the count falls when the last is in (06 R186, R188). -/
def Ctx.acked (x : Ctx) (id j : Nat) (refused : Bool) : Ctx :=
  match x.aux.posted.find? fun p => p.id = id with
  | none => x
  | some p =>
    let x := if refused then x.refused p j else x
    let p := if refused then { p with denied := p.denied ||| BitVec.ofNat 32 (1 <<< j) } else p
    if p.missing ≤ 1 then { x with aux := { x.aux with posted := x.aux.posted.filter fun q => q.id ≠ id } }
    else { x with aux := { x.aux with
      posted := x.aux.posted.map fun q => if q.id = id then { p with missing := p.missing - 1 } else q } }

/-- R186, R188: an acknowledgement returns; an idle context's refusal is written to its queue. -/
def evAckReturn (i : Nat) (s : State) : Option State :=
  match s.msg i with
  | some (.ack k c id j refused nib _) =>
    if !s.liveCore k then none else
    let t := (s.unpost i).updCtx k c fun x => x.acked id j refused
    let t := if nib then t.freeEntry k id else t
    some (if (t.ctx k c).run == .idle then t.reportRef k c else t)
  | _ => none
def execAckReturn (i : Nat) (s : State) : Ending := fire s (evAckReturn i s)

/-! ## Remote loads and atomics (06 R190 to R194) -/

/-- The answer to a request with a result: a reply, or the notice of a host's line read. -/
def State.answer (s : State) (r : Req) (v : VWord) (poison : Bool) (fault : Option (BitVec 8)) : State :=
  match r.host with
  | some p =>
    let a := match r.op with | .loadv a .. => a | _ => 0
    let f := if poison && fault.isNone then some 0x23 else fault
    s.toPort r p (some
      (hostNotice 0 0 false ((f.getD 0).toNat) 5 a 0 (at_ r.htag.toNat 0) 0 0 (if f.isSome then 0 else v)))
  | none => s.postTo (s.answerer r 0) r.dev (.reply r.src r.ctx r.dest r.gen r.id v poison fault r.op)

/-- Why a request with a result is answered by a fault without being performed (06 R192, 14 R357). -/
def State.shut (s : State) (r : Req) (dst : Owner) : Bool := s.denied r.part dst || s.turnedAway r

/-- The owner's read of a remote load, through the window as it stands now: also for a load of the own slice whose context wrote
the window since, of which 02 R54 says two things (log entry 98). -/
def State.remoteRead (s : State) (r : Req) (k : Key) (a : Word) (n : Nat) : State :=
  match s.readVia k (winOf a) ((s.core k).win (winOf a)) (offOf a) n with
  | none => s.answer r 0 false (some 0x0E)
  | some (v, rs) =>
    if rs.any fun q => (s.lockHit k none none q.1 (q.1 + q.2)).1 then s.answer r 0 false (some 0x05)
    else ((if r.host.isSome then s.irrevCore k else s).countCe k rs).answer r (BitVec.ofNat 512 v)
      (rs.any fun q => (s.badWord (Loc.local_ k q.1) q.2).isSome) none

/-- R190, R192, R193: the owner reads and answers, or answers with a fault. -/
def evRemoteLoadPerform (i : Nat) (s : State) : Option State :=
  match s.msg i with
  | some (.req r dst _) =>
    match r.op, dst.local_ s with
    | .load a n, some k =>
      if s.mayPerform i r dst then
        some (if s.shut r dst then (s.unpost i).answer r 0 false (some 0x0B) else (s.unpost i).remoteRead r k a n)
      else none
    | .loadv a _ _, some k =>
      if s.mayPerform i r dst then
        some (if s.shut r dst then (s.unpost i).answer r 0 false (some 0x0B) else (s.unpost i).remoteRead r k a 64)
      else none
    | _, _ => none
  | _ => none
def execRemoteLoadPerform (i : Nat) (s : State) : Ending := fire s (evRemoteLoadPerform i s)

/-- An atomic engine, as after reset where none is listed (log entry 1: pointer 0). -/
def State.engine (s : State) (p : Nat) : AtomicEng := (aget s.sh.atomics p).getD ⟨[], 0, none⟩
def State.setEngine (s : State) (p : Nat) (e : AtomicEng) : State :=
  { s with sh := { s.sh with atomics := aset s.sh.atomics p e } }

/-- The operands of an atomic: address, operation, 4-byte form, a, c. -/
def ROp.atomic : ROp → Option (Word × Fin 11 × Bool × Word × Word)
  | .amo a op w4 x c => some (a, op, w4, x, c)
  | .post (.amoq a op w4 x c) => some (a, op, w4, x, c)
  | _ => none

/-- The port of a request at a package's engine: the place of its core in the pallet, or the router's (06 R194). -/
def atomicPort (dev : BitVec 8) (r : Req) (pallet : Nat) : Fin 17 :=
  if decide (r.dev = dev) && r.host.isNone && !isHod r.src && palletOf r.src.val = pallet then Fin.ofNat 17 (rowOf r.src.val % 4 * 4 + colOf r.src.val % 4) else 16

/-- An atomic is refused: by an acknowledgement, or by a fault (06 R188, R192). -/
def State.refuseAtomic (s : State) (r : Req) : State :=
  if r.op.isPost then s.ackPost r 0 (some 0x0B) else s.answer r 0 false (some 0x0B)

/-- R194: an atomic reaches its port of the engine; one from outside finds a stopped partition and is refused (14 R357). -/
def evAtomicRequestArrival (i : Nat) (s : State) : Option State :=
  match s.msg i with
  | some (.req r dst _) =>
    match r.op.atomic, dst.local_ s with
    | some _, some k =>
      if s.mayPerform i r dst && (!r.op.isPost || s.pathTurn i r dst) then
        if s.turnedAway r then some ((s.unpost i).refuseAtomic r) else
        let p := palletOf k.val
        let e := s.engine p
        some ((s.unpost i).setEngine p { e with ports := e.ports ++ [(atomicPort s.device r p, r, dst, s.cycle)] })
      else none
    | _, _ => none
  | _ => none
def execAtomicRequestArrival (i : Nat) (s : State) : Ending := fire s (evAtomicRequestArrival i s)

/-- The new value of an atomic (06 Table 6.9), n bytes. -/
def amoNew (op : Fin 11) (n : Nat) (old a c : Nat) : Nat :=
  let m := 2 ^ (8 * n)
  let a := a % m
  let sg := fun (x : Nat) => Int.bmod x m
  match op.val with
  | 0 => a
  | 1 => (old + a) % m
  | 2 => old &&& a
  | 3 => old ||| a
  | 4 => old ^^^ a
  | 5 => if sg old ≤ sg a then old else a
  | 6 => if sg old ≤ sg a then a else old
  | 7 => min old a
  | 8 => max old a
  | 9 => if old = a then c % m else old
  | _ => convert .f32 .rne 0 false (addVal .rne (fmtValue f32Fmt old) (fmtValue f32Fmt a))

/-- One atomic performed at its owner: refused, or the read-modify-write (06 R194). A swap of 8 bytes writes nothing of what it
read. -/
def State.atomicAt (s : State) (r : Req) (dst : Owner) (k : Key) (x : Word × Fin 11 × Bool × Word × Word) : State :=
  let n := if x.2.2.1 then 4 else 8
  let off := offOf x.1
  let self := if r.src = k && decide (r.dev = s.device) && r.host.isNone then some r.ctx else none
  let no : Option (BitVec 8) := if s.denied r.part dst then some 0x0B
    else if (s.lockHit k self none off (off + n)).2 then some 0x05 else none
  let old := s.peek k off n
  let bad := (s.badWord (Loc.local_ k off) n).isSome
  let whole := n = 8 && x.2.1 = 0
  let t := if no.isSome then s else
    (if whole then s.countCe k [(off, n)] else s).putFor k r (if whole then [] else [(off, n)]) [(off, n, amoNew x.2.1 n old x.2.2.2.1.toNat x.2.2.2.2.toNat)]
  if r.op.isPost then t.ackPost r 0 no else t.answer r (BitVec.ofNat 512 old) bad no

/-- The request that an engine serves in a cycle: the first of the first port holding an accepted one, from the pointer. -/
def AtomicEng.next (e : AtomicEng) (cycle : Nat) : Option (Fin 17 × Req × Owner × Nat) :=
  (List.range 17).findSome? fun d =>
    let p := (e.ptr + cycle + d) % 17
    match e.ports.find? fun q => q.1.val = p with
    | some q => if q.2.2.2 ≤ cycle then some q else none
    | none => none

/-- A request that an engine has accepted is frozen while its partition does not run, but that a stopping partition awaits the reply
of its own `AMO` (14 R355). -/
def State.frozenAtomic (s : State) (r : Req) (dst : Owner) : Bool :=
  !(s.part r.part).live && !s.denied r.part dst &&
    !(s.runs r.part r.op && r.host.isNone && decide (r.dev = s.device))

/-- R194: in each cycle the engine serves one request; its port's next is accepted in the cycle after. -/
def evAtomicServe (pallet : Fin 256) (s : State) : Option State :=
  let e := s.engine pallet.val
  if e.served = some s.cycle then none else
  match ({ e with ports := e.ports.filter fun q => !s.frozenAtomic q.2.1 q.2.2.1 } : AtomicEng).next s.cycle with
  | none => none
  | some q =>
    let rest := e.ports.filter fun p => decide (p.2.1.id ≠ q.2.1.id ∨ p.2.1.dev ≠ q.2.1.dev)
    let rest := rest.map fun p => if p.1 = q.1 then (p.1, p.2.1, p.2.2.1, max p.2.2.2 (s.cycle + 1)) else p
    let s := s.setEngine pallet.val { e with ports := rest, served := some s.cycle }
    match q.2.1.op.atomic, q.2.2.1.local_ s with
    | some x, some k => some (s.atomicAt q.2.1 q.2.2.1 k x)
    | _, _ => some s
def execAtomicServe (pallet : Fin 256) (s : State) : Ending := fire s (evAtomicServe pallet s)

/-- The register after a reply: zero-extended bytes, or the active lanes (06 R190, R193). The other lanes keep what the register holds
when the reply is written, also where a covered instruction wrote it before (03 R77; log entry 93). -/
def Ctx.resultOf (x : Ctx) (op : ROp) (r : RegName) (v : VWord) : VWord :=
  match op, r with
  | .loadv _ t m, .v i => merge t m (x.v i) v
  | _, _ => v

/-- R191, R192, 17 R401: a matching reply settles its result, any other is discarded and counted; FAULTINJ kind 3 poisons it
(08 R258). -/
def evReplyArrival (i : Nat) (s : State) : Option State :=
  match s.msg i with
  | some (.reply k c d g id v poison fault op) =>
    if !s.runs (s.partNo k) op then none else
    let s := s.unpost i
    let x := s.ctx k c
    match x.aux.outs.find? fun o => decide (o.id = id ∧ o.dest = d ∧ o.gen = g ∧ x.gen d = g) with
    | none => some (s.updCore k fun co => co.count 6)
    | some o =>
      let inj := decide (d ≠ .trecon) && (x.trigger 3).isSome
      let s := if inj then s.fireTrigger k c 3 else s
      let f := match fault with
        | some f => some f
        | none => if poison || inj then some 0x23 else none
      match d with
      | .trecon => some ((s.updCtx k c fun x => x.settle id).treconReply k c op (v.toNat % 2 ^ 32) f)
      | .reg r =>
        match f with
        | some f => some (s.faultResult k c o f (some (at_ o.pc.toNat 0)))
        | none => some (s.settleResult k c o r (x.resultOf op r v))
  | _ => none
def execReplyArrival (i : Nat) (s : State) : Ending := fire s (evReplyArrival i s)

/-- R191: an unanswered request times out. -/
def evReplyTimeout (k : Key) (c : CtxNo) (i : Nat) (s : State) : Option State :=
  match (s.ctx k c).aux.outs[i]? with
  | none => none
  | some o =>
    match o.due with
    | none => none
    | some t =>
      if s.pns k < t || !s.liveCore k then none else
      let s := s.updCtx k c fun x => x.bumpGen o.dest
      match o.dest with
      | .trecon => some ((s.updCtx k c fun x => x.settle o.id).treconReply k c (.trecon 0 0) 0 (some 0x24))
      | .reg _ => some (s.faultResult k c o 0x24 (some (at_ o.pc.toNat 0)))
def execReplyTimeout (c : Key) (k : CtxNo) (i : Nat) (s : State) : Ending := fire s (evReplyTimeout c k i s)

/-- R154: the data of a hod's far access is at hand; its instruction goes on. -/
def evFarAccessComplete (k : Key) (c : CtxNo) (s : State) : Option State :=
  let x := s.ctx k c
  match x.run, x.aux.far with
  | .parked .far _, some f =>
    if f.phys.isSome && s.liveCore k then some (s.updCtx k c fun x => { x with run := .running }) else none
  | _, _ => none
def execFarAccessComplete (c : Key) (k : CtxNo) (s : State) : Ending := fire s (evFarAccessComplete c k s)

end Sys2Proof.Machine
end

