-- ==== Sys2Proof/Machine/Translate.lean ====
section
/-! DEFINITION. Far memory translation (15 R364 to R381): slices, walks, placement, fault records, shoot-downs, map
notices, and the events that serve them. -/
namespace Sys2Proof.Machine
open Sys2Proof

/-- The kinds of access (15 Table 15.4). -/
inductive Access where
  | read | write | both | fetch
  deriving DecidableEq, Repr

/-- The set bits of a hod mask, ascending. -/
def hodsOf (m : BitVec 64) : List Nat := (List.range 64).filter fun i => m.getLsbD i
/-- The multiplicative hash of R364 and R372, 6 bits. -/
def hash6 (a b : Nat) : Nat := ((a ^^^ b) * 0x9E3779B97F4A7C15 % 2 ^ 64) >>> 58
/-- The hod at position (h × n) >> 6 among a list. -/
def pickHod (l : List Nat) (h : Nat) : Nat := l.getD ((h * l.length) >>> 6) 0

/-- The hod whose slice serves an address (15 R364). -/
def sliceOf (hods : BitVec 64) (va : Nat) : Nat :=
  let g := (va % 2 ^ 57) >>> 30
  pickHod (hodsOf hods) (hash6 g (g >>> 13))

/-- The index of an address at a level (15 Table 15.2). -/
def levelIndex (va level : Nat) : Nat :=
  match level with
  | 0 => va >>> 48 % 512
  | 1 => va >>> 39 % 512
  | 2 => va >>> 30 % 512
  | 3 => va >>> 21 % 512
  | _ => va >>> 16 % 32
/-- The page size of a leaf at a level. -/
def pageSize (level : Nat) : Nat := if level = 2 then 2 ^ 30 else if level = 3 then 2 ^ 21 else 2 ^ 16
/-- The physical address that an entry holds (15 Table 15.3). -/
def pteAddr (e : Word) : Nat := bits e 54 24 * 256
def ptePlace (e : Word) : Nat := bits e 10 9
/-- The spread mask that an entry selects (15 R367). -/
def State.spread (s : State) (root : Nat) (e : Word) : BitVec 64 :=
  BitVec.ofNat 64 (s.sh.mem.read (root + 0x1000 + 8 * bits e 21 18) 8)

/-- A malformed entry (15 R370); a leaf that maps a part of the firmware region among them (19 R432; log entry 129). -/
def State.malformed (s : State) (p : Part) (e : Word) (level : Nat) : Bool :=
  let leaf := e.getLsbD 1
  let sset := s.spread p.root e
  decide (bits e 63 55 ≠ 0 ∨ bits e 23 22 ≠ 0 ∨ bits e 8 8 ≠ 0 ∨ bits e 3 2 ≠ 0) ||
  (!leaf && decide (bits e 21 2 ≠ 0)) || (leaf && decide (level ≤ 1)) || (!leaf && decide (level = 4)) ||
  decide (Loc.farEnd ≤ pteAddr e) || (leaf && decide (Loc.firmware < pteAddr e + pageSize level)) ||
  decide (pteAddr e % (if leaf then pageSize level else if level = 3 then 256 else 4096) ≠ 0) ||
  (leaf && (decide (ptePlace e = 3) ||
    ((decide (ptePlace e = 1) || (decide (ptePlace e = 2) && e.getLsbD 11)) && !p.hods.getLsbD (bits e 17 12)) ||
    (decide (ptePlace e = 0 ∨ ptePlace e = 2) && (decide (sset = 0) || decide (sset &&& ~~~p.hods ≠ 0)))))

/-- A leaf permits an access in a mode (15 R371). -/
def permitted (e : Word) (a : Access) (sup : Bool) : Bool :=
  (sup || !e.getLsbD 7) && (match a with
    | .read => e.getLsbD 4
    | .write => e.getLsbD 5
    | .both => e.getLsbD 4 && e.getLsbD 5
    | .fetch => e.getLsbD 6)

/-- The owner of an address's block under a leaf whose owner is assigned (15 R372). -/
def State.blockOwner (s : State) (p : Part) (e : Word) (va : Nat) : Nat :=
  if ptePlace e = 0 then
    let b := (va % 2 ^ 57) >>> 16
    pickHod (hodsOf (s.spread p.root e)) (hash6 b (b >>> 17))
  else bits e 17 12

/-- The hod of a first touch (15 R373). -/
def firstTouch (sset : BitVec 64) (die : Nat) : Nat :=
  ((List.range 64).map fun i => (16 * die + i) % 64).find? (fun i => sset.getLsbD i) |>.getD 0

/-- The words of the page tables that a walk reads at an entry are in error: a poisoned line of far memory (17 R403). -/
def State.tableBad (s : State) (root place : Nat) (e : Word) : Bool :=
  s.lineBad place || (e.getLsbD 1 && (decide (ptePlace e = 0 ∨ ptePlace e = 2)) && s.lineBad (root + 0x1000 + 8 * bits e 21 18))

/-- The walk (15 R370): levels left, level, table; the answer is the leaf's entry, its place and its page size, or a
cause. A first touch is assigned by one compare-and-write (15 R373). A word in error maps nothing: 0x21 (log entry 91). -/
def State.walk (s : State) (p : Part) (va die : Nat) (a : Access) (sup : Bool) :
    Nat → Nat → Nat → Except (BitVec 8) (State × Word × Nat)
  | 0, _, _ => .error 0x0E
  | fuel + 1, level, base =>
    let place := base + 8 * levelIndex va level
    let e := BitVec.ofNat 64 (s.sh.mem.read place 8)
    if s.tableBad p.root place e then .error 0x21
    else if !e.getLsbD 0 then .error 0x0D
    else if s.malformed p e level then .error 0x0E
    else if e.getLsbD 1 then
      if !permitted e a sup then .error 0x0E
      else if ptePlace e = 2 ∧ !e.getLsbD 11 then
        let h := firstTouch (s.spread p.root e) die
        let e' := (e &&& ~~~(at_ 63 12)) ||| at_ h 12 ||| bit true 11
        .ok (s.setMem (s.sh.mem.write place 8 e'.toNat), e', pageSize level)
      else .ok (s, e, pageSize level)
    else s.walk p va die a sup fuel (level + 1) (pteAddr e)

/-- A request served by its slice (15 R365): a hit checks permission, a miss walks and caches the leaf. -/
def State.translate (s : State) (n va die : Nat) (a : Access) (sup : Bool) : Except (BitVec 8) (State × Leaf) :=
  let p := s.part n
  let k := hodKey (sliceOf p.hods va)
  match (s.core k).tlb.find? fun l => decide (l.part = n ∧ l.va ≤ va ∧ va < l.va + l.size) with
  | some l => if permitted l.entry a sup then .ok (s, l) else .error 0x0E
  | none => do
    let (s, e, size) ← s.walk p va die a sup 5 0 p.root
    let l : Leaf := ⟨n, va / size * size, size, e⟩
    pure (s.updCore k fun co => { co with tlb := (l :: co.tlb).take 1024 }, l)

/-- The physical place of an address under a leaf. -/
def Leaf.phys (l : Leaf) (va : Nat) : Nat := pteAddr l.entry + (va - l.va)
/-- The leaf that covers an address. -/
def leafFor (ls : List Leaf) (va : Nat) : Option Leaf := ls.find? fun l => decide (l.va ≤ va ∧ va < l.va + l.size)

/-- The 64 KiB blocks of a range of far addresses, each with the lowest address of the range in it. -/
def blockSpan (va n : Nat) : List (Nat × Nat) :=
  if n = 0 then [] else (List.range ((va + n - 1) / 0x10000 - va / 0x10000 + 1)).map fun i =>
    (va / 0x10000 + i, max va ((va / 0x10000 + i) * 0x10000))

/-- Blocks, each once, with the lowest address given for it. -/
def mergeBlocks (l : List (Nat × Nat)) : List (Nat × Nat) :=
  l.foldl (fun r b => match r.findIdx? fun c => decide (c.1 = b.1) with
    | some i => lmod r i fun c => (c.1, min c.2 b.2)
    | none => r ++ [b]) []

/-- Every block of a list translated in order, at the address that is given for it: the leaves, or the cause with the faulting
address (15 R366). -/
def State.translateAll (s : State) (n die : Nat) (a : Access) (sup : Bool) :
    List (Nat × Nat) → State × Except (BitVec 8 × Nat) (List Leaf)
  | [] => (s, .ok [])
  | b :: r =>
    match s.translate n b.2 die a sup with
    | .error c => (s, .error (c, b.2))
    | .ok (s, l) =>
      match s.translateAll n die a sup r with
      | (s, .ok ls) => (s, .ok (if ls.contains l then ls else l :: ls))
      | e => e

/-! ## A hod's access (06 R154) -/

/-- R365: the translation slices answer a hod's far access, or fault it at its own instruction (15 R379). -/
def evTranslateRequest (k : Key) (c : CtxNo) (s : State) : Option State :=
  let x := s.ctx k c
  match x.run, x.aux.far with
  | .parked .far _, some f =>
    if f.phys.isSome || !s.liveCore k then none else
    let n := s.partNo k
    match s.translateAll n (dieOf k) (if f.write then .write else .read) (x.csr.mode == .supervisor) f.blocks with
    | (t, .error (cause, va)) =>
      let t := t.updCtx k c fun x => { x with run := .running, aux := { x.aux with far := none } }
      some (t.deliver k c cause (at_ va 0) x.pc x.pc)
    | (t, .ok ls) =>
      let ph := f.blocks.filterMap fun b => (leafFor ls b.2).map fun l => (b.1, l.phys (b.1 * 0x10000))
      let ow := f.blocks.filterMap fun b => (leafFor ls b.2).map fun l => (b.1, s.blockOwner (s.part n) l.entry b.2)
      some (t.updCtx k c fun x => { x with aux := { x.aux with far := some { f with phys := some ph, owners := ow, leaves := ls } } })
  | _, _ => none
def execTranslateRequest (c : Key) (k : CtxNo) (s : State) : Ending := fire s (evTranslateRequest c k s)

/-! ## Fault records (15 R379 to R381) -/

/-- A fault record is produced: held by its engine until it is placed. -/
def State.faultRecord (s : State) (k : Key) (c : CtxNo) (e : VWord) (cause : BitVec 8) (v : Word) : State :=
  { s with sh := { s.sh with held := s.sh.held ++ [⟨.record k c e cause v, s.now, s.partNo k⟩] } }

/-- R380, R381: the record is placed, and the cause reaches the context at its next boundary, with the PC that the record names;
an idle context receives the record alone. A refused record is offered again every 1 µs. -/
def evFaultRecordPlaced (i : Nat) (s : State) : Option State :=
  match s.sh.held[i]? with
  | some ⟨.record k c e cause v, t, n⟩ =>
    if s.now < t || !s.liveCore k then none else
    let s0 := { s with sh := { s.sh with held := s.sh.held.eraseIdx i } }
    match s0.arrive k e false with
    | some s' => some (if (s.ctx k c).run == .idle then s' else s'.later k c cause (some v) (pcOf (eword e 4).toNat))
    | none => some { s0 with sh := { s0.sh with held := s0.sh.held ++ [⟨.record k c e cause v, s.now + 1000, n⟩] } }
  | _ => none
def execFaultRecordPlaced (i : Nat) (s : State) : Ending := fire s (evFaultRecordPlaced i s)

end Sys2Proof.Machine
end

