-- ==== Sys2Proof/Machine/VMath.lean ====
section
/-! DEFINITION. Major 14: mathematical functions, scaling, dot products, block maxima, predicates (05 R138 to R143). -/
namespace Sys2Proof.Machine
open Sys2Proof

/-- The four functions of R139: correctly rounded under RNE, subnormal sources as FTZ says. -/
def mathOp (f : ETy → Fmt → Bool → Nat → Nat) (o : V2) (s : State) : Res := do
  let t ← s.effType o.md.ty ETy.isFp
  match t.fmt with
  | none => s.illegal
  | some m => do
    let z := s.my.csr.ftz
    let s' ← lanes2 t o (fun _ b => f t m z (flush t z b)) s
    pure s'.retire

/-- R139. -/
def execVrecip (o : V2) (s : State) : Ending := conclude s (mathOp recipLane o s)
/-- R139. -/
def execVrsqrt (o : V2) (s : State) : Ending := conclude s (mathOp rsqrtLane o s)
/-- R139. -/
def execVexp2 (o : V2) (s : State) : Ending := conclude s (mathOp exp2Lane o s)
/-- R139. -/
def execVlog2 (o : V2) (s : State) : Ending := conclude s (mathOp log2Lane o s)

/-- A value times 2^n; an exponent beyond ±2000 rounds as ±2000 does in every type. -/
def scaleVal (v : Val) (n : Int) : Val :=
  match v with
  | .fin a m e => .fin a m (e + max (-2000) (min 2000 n))
  | v => v

/-- R140. -/
def execVscale (o : V3) (s : State) : Ending :=
  conclude s (do
    let t ← s.effType o.md.ty ETy.isFp
    let rm := s.rm none
    let it : ETy := if t.width = 32 then .i32 else .i16
    let s' ← lanes3 t o (fun i a b _ => s.round t rm i (scaleVal (s.val t a) (intOf it b))) s
    pure (s'.advance rm t.lanes).retire)

/-- The source types of VDOT (05 Table 5.10). -/
def setDot (t : ETy) : Bool :=
  t == .bf16 || t == .f16 || t == .e4m3 || t == .e5m2 || t == .i8 || t == .z8 || t == .i16

/-- R141. -/
def execVdot (o : V3) (s : State) : Ending :=
  conclude s (do
    let t ← s.effType o.md.ty setDot
    let rm := s.rm none
    let g := 32 / t.width
    let ops := fun j => (List.range g).map fun k =>
      (laneOf (s.v o.t).toNat t.width (g * j + k), laneOf (s.v o.b).toNat t.width (g * j + k))
    let l := (List.range 16).map fun j =>
      let acc := laneOf (s.v o.a).toNat 32 j
      if t.isInt then
        wrap 32 (acc + ((ops j).foldl (fun n p => n + intOf t p.1 * intOf t p.2) 0))
      else s.round .f32 rm j (dotVal rm (s.val .f32 acc) ((ops j).map fun p => (s.val t p.1, s.val t p.2)))
    let s' ← s.putLanes o.a .f32 o.md.pr l
    pure (if t.isInt then s' else s'.advance rm 16).retire)

/-- The larger of two magnitude codes of a floating type: codes of one sign rise with their values. -/
def maxMag (a b : Nat) : Nat := if a < b then b else a

/-- R142: no value is rounded; FTZ is not applied, so that the result is the m_b of 01 R26 (log entry 46). -/
def execVbmax (o : V2) (s : State) : Ending :=
  conclude s (do
    let t ← s.effType o.md.ty ETy.isFp
    let h := 2 ^ (t.width - 1)
    let ls := (s.lanesOn t o.md.pr).map fun i => laneOf (s.v o.b).toNat t.width i
    let a0 := laneOf (s.v o.a).toNat t.width 0
    let r := if (a0 :: ls).any fun c => isNan (valueOf t c) then nanOf t
      else ls.foldl (fun m c => maxMag m (c % h)) (a0 % h)
    let s' ← s.setV o.a (pack t ((unpack t (s.v o.a)).set 0 r))
    pure s'.retire)

/-- R143: result bits whose governing bit is 0 are cleared. -/
def execVpmov (op : PmOp) (pr : Reg8) (s : State) : Ending :=
  let put := fun a (w : Word) => conclude s (do
    let s' ← s.setP a (w &&& s.p pr)
    pure s'.retire)
  match op with
  | .mov a b => put a (s.p b)
  | .and a t b => put a (s.p t &&& s.p b)
  | .or a t b => put a (s.p t ||| s.p b)
  | .xor a t b => put a (s.p t ^^^ s.p b)
  | .andn a t b => put a (s.p t &&& ~~~(s.p b))
  | .not a b => put a (~~~(s.p b))
  | .fromx a b => put a (s.x b)
  | .tox a b => conclude s (do
      if pr ≠ 0 then s.illegalIn 3
      let s' ← s.setX a (s.p b)
      pure s'.retire)

end Sys2Proof.Machine
end

