-- ==== Sys2Proof/Machine/CopyOps.lean ====
section
/-! DEFINITION. Copies and code fetch (06 R195 to R203): the instructions of major 28, and the events of their engines. -/
namespace Sys2Proof.Machine
open Sys2Proof

/-! ## The descriptor (06 R195, R196) -/

/-- The descriptor's fields, captured. -/
def copyOf (kind : Fin 3) (addr : Word) (d : Nat) (peg : Reg8) : CopyDesc :=
  let ctl := BitVec.ofNat 64 (dword d 32 4)
  { kind := kind, desc := addr, src := BitVec.ofNat 64 (dword d 0 8), dst := BitVec.ofNat 64 (dword d 8 8),
    rows := dword d 16 4, rlen := dword d 20 4, sstr := Int.bmod (dword d 24 4) (2 ^ 32),
    dstr := Int.bmod (dword d 28 4) (2 ^ 32), notify := ctl.getLsbD 0,
    dsts := if ctl.getLsbD 1 then some (Fin.ofNat 8 (bits ctl 4 2)) else none, mode := bits ctl 7 5,
    otype := bits ctl 11 8, itype := bits ctl 15 12, fmeta := BitVec.ofNat 64 (dword d 40 8), peg := peg, win := none,
    mwin := none }

/-- The fields that R196 turns away with 0x01. No check asks that the destination of q4n images be a multiple of 64, though 01 R24
aligns an image to 64 bytes: they are written where DST points (log entry 103). -/
def badCopy (kind : Fin 3) (d : Nat) (x : CopyDesc) : Bool :=
  let w := match etyOf x.itype with | some t => t.width / 8 | none => 1
  decide (dword d 32 4 / 65536 ≠ 0 ∨ dword d 36 4 ≠ 0 ∨ dword d 48 16 ≠ 0) ||
  decide (x.rows = 0 ∨ 65536 < x.rows ∨ x.rlen % 64 ≠ 0 ∨ x.rlen < 64 ∨ 0x100000 < x.rlen) ||
  decide (x.sstr % 64 ≠ 0 ∨ x.dstr % 64 ≠ 0) ||
  (x.dsts.isSome && decide (x.dst ≠ 0)) ||
  (x.dsts.isNone && decide (bits (BitVec.ofNat 64 (dword d 32 4)) 4 2 ≠ 0)) ||
  (match kind.val with
    | 0 => decide (x.mode ≠ 0 ∨ x.otype ≠ 0 ∨ x.itype ≠ 0 ∨ x.fmeta ≠ 0)
    | 1 => decide (1 < x.mode ∨ x.otype < 8 ∨ 11 < x.otype ∨ x.itype ≠ 0)
    | _ =>
      decide (1 < x.mode ∨ (x.itype ≠ 7 ∧ x.itype ≠ 8)) ||
      (if x.mode = 0 then decide (x.otype ≠ 13 ∨ x.fmeta ≠ 0 ∨ x.rows * x.rlen % (64 * w) ≠ 0)
       else decide (x.otype < 10 ∨ 12 < x.otype ∨ x.rows * x.rlen % (32 * w) ≠ 0)))

/-- Bytes of the destination. -/
def CopyDesc.outBytes (x : CopyDesc) : Nat :=
  let n := x.rows * x.rlen
  match x.kind.val, x.mode with
  | 0, _ => n
  | 1, 0 => 2 * n
  | 1, _ => n / 2
  | _, 0 => (n / (if x.itype = 7 then 4 else 2) + 16383) / 16384 * 8512
  | _, _ => n / (if x.itype = 7 then 4 else 2) * (if x.otype = 12 then 1 else 2) / 2

/-- Bytes of the metadata or of the scales. -/
def CopyDesc.metaBytes (x : CopyDesc) : Nat :=
  let n := x.rows * x.rlen
  let w := if x.otype ≤ 9 then 2 else 1
  match x.kind.val, x.mode with
  | 1, 0 => (n / (2 * w) + 1) / 2
  | 1, _ => (n / (4 * w) + 1) / 2
  | 2, 1 => n / (if x.itype = 7 then 4 else 2) / 32
  | _, _ => 0

/-- META is read (expansion) or written (compaction, scales). -/
def CopyDesc.metaRead (x : CopyDesc) : Bool := x.kind.val = 1 && x.mode = 0

/-- Destination bytes of one row; a q4n image, and an MX array whose rows do not divide, is one row (log entry 17). -/
def CopyDesc.outRow (x : CopyDesc) : Nat :=
  if (x.kind.val = 2 && x.mode = 0) || x.outBytes % x.rows ≠ 0 then x.outBytes else x.outBytes / x.rows
def CopyDesc.outRows (x : CopyDesc) : Nat := if x.outRow = 0 then 0 else x.outBytes / x.outRow

/-- The addresses of rows: base, count, length, stride. -/
def rowAddrs (base : Nat) (rows len : Nat) (stride : Int) : List (Nat × Nat) :=
  (List.range rows).map fun (i : Nat) => (((base : Int) + (i : Int) * stride).toNat, len)

/-- The lowest and highest byte of rows. -/
def rowHull (base : Nat) (rows len : Nat) (stride : Int) : Int × Int :=
  let last : Int := ((rows - 1 : Nat) : Int) * stride
  ((base : Int) + min 0 last, (base : Int) + max 0 last + len)

/-- The source bytes that are converted together, and the destination and META bytes that they give. -/
def CopyDesc.unit (x : CopyDesc) : Nat :=
  let w := if x.itype = 7 then 4 else 2
  match x.kind.val, x.mode with
  | 2, 0 => 16384 * w
  | 2, _ => 32 * w
  | _, _ => 64
def CopyDesc.unitOut (x : CopyDesc) : Nat :=
  match x.kind.val, x.mode with
  | 0, _ => 64
  | 1, 0 => 128
  | 1, _ => 32
  | _, 0 => 8512
  | _, _ => if x.otype = 12 then 16 else 32
def CopyDesc.unitMeta (x : CopyDesc) : Nat :=
  let w := if x.otype ≤ 9 then 2 else 1
  match x.kind.val, x.mode with
  | 1, 0 => 16 / w
  | 1, _ => 8 / w
  | 2, 1 => 1
  | _, _ => 0

/-- The ends of a copy: source, destination, META (06 R195). -/
def CopyDesc.srcEnd (x : CopyDesc) : End := ⟨x.src, x.rows, x.rlen, x.sstr, false, false⟩
def CopyDesc.dstEnd (x : CopyDesc) : End := ⟨x.dst, x.outRows, x.outRow, x.dstr, true, false⟩
def CopyDesc.metaEnd (x : CopyDesc) : End := ⟨x.fmeta, 1, x.metaBytes, 0, !x.metaRead, true⟩
/-- Those that a copy has: none for the destination where that is a stream (06 R196). -/
def CopyDesc.ends (x : CopyDesc) : List End :=
  [x.srcEnd] ++ (if x.dsts.isSome then [] else [x.dstEnd]) ++ (if x.metaBytes = 0 then [] else [x.metaEnd])

/-- The address or offset of byte j of an end, in order. -/
def End.place (e : End) (j : Nat) : Nat :=
  (((if isSlice e.a then offOf e.a else e.a.toNat : Nat) : Int) + (j / e.len : Nat) * e.stride + (j % e.len : Nat)).toNat

/-- The offsets of an end in its presented slice. -/
def End.hull (e : End) : Int × Int := rowHull (offOf e.a) e.rows e.len e.stride
/-- The blocks of a far end, each with the lowest address in it that the end's rows reach. -/
def End.blocks (e : End) : List (Nat × Nat) :=
  mergeBlocks ((rowAddrs e.a.toNat e.rows e.len e.stride).flatMap fun r => blockSpan r.1 r.2)

/-- The checks of the ends of a transfer at issue: the steps of 06 R146 in their order, each over SRC, DST and META in that order: the
format, 0x19 for a destination through a format window, 0x0E for rows beyond the slice, and then 0x0B for a core outside the partition
(R196; log entry 131). No rule asks that an end be aligned (log entry 103). -/
def State.checkEnds (s : State) (es : List End) : Except Stop Unit := do
  es.forM fun e => s.checkFormat e.a
  let l := es.filter fun e => isSlice e.a
  l.forM fun e => need (!(e.write && decide (winOf e.a ≠ 0))) (trapV 0x19 e.a)
  l.forM fun e => need (!decide (e.hull.1 < 0 ∨ 0x100000 < e.hull.2)) (trapV 0x0E e.a)
  l.forM fun e => need (s.inSpan (s.partNo s.me) (s.owner e.a)) (trapV 0x0B e.a)

/-- The raw range of a slice end at its owner, by a window descriptor; none where 02 R53 fails. -/
def State.endRange (s : State) (k : Key) (e : End) (d : Word) : Option (Nat × Nat) :=
  let h := e.hull
  let w := winOf e.a
  if w = 0 then some (h.1.toNat, h.2.toNat)
  else match winRead w d (s.peek k) h.1.toNat 1, winRead w d (s.peek k) (h.2.toNat - 1) 1 with
    | some (_, a), some (_, b) => some (hull (a ++ b))
    | _, _ => none

/-- An end is a slice of another package (14 R341). -/
def State.abroad (s : State) (e : End) : Bool := isSlice e.a && decide ((s.owner e.a).dev ≠ s.device)

/-- A slice end lies on the executing core. -/
def State.endHere (s : State) (e : End) : Bool := isSlice e.a && decide (s.owner e.a = ⟨s.device, s.me.val⟩)

/-- The own-slice ends of a transfer: their raw ranges, 0x0E for a window that fails, 0x05 for a conflict (06 R196, R199,
10 R300). -/
def State.ownRanges (s : State) (es : List End) : Except Stop (List (Nat × Nat × Bool)) :=
  (es.filter s.endHere).mapM fun e => do
    match s.endRange s.me e (s.myCore.win (winOf e.a)) with
    | none => trapV 0x0E e.a
    | some (lo, hi) =>
      if s.conflict s.me none e.write lo hi then trapV 0x05 (s.ownAddr (s.conflictAt s.me none e.write lo hi))
      pure (lo, hi, e.write)

/-- The window descriptor captured at issue, where the source lies on the executing core. -/
def State.ownWin (s : State) (a : Word) : Option Word :=
  if isSlice a && decide (s.owner a = ⟨s.device, s.me.val⟩) then some (s.myCore.win (winOf a)) else none

/-- The checks of DSTS: a stream of this context bound under CPY, of the copy's length (06 R169, R196). -/
def State.checkDsts (s : State) (x : CopyDesc) : Except Stop Unit :=
  match x.dsts with
  | none => .ok ()
  | some i => match s.strm s.me i with
    | some t => need (decide (t.ctx = s.cc) && t.cpy && !s.isLink i &&
        decide (8 * x.outBytes = t.total * t.ety.width)) (trapF 0x08)
    | none => trapF 0x08

/-- Ranges registered under the name of a transfer; a stall while the table is full (06 R147). -/
def State.registerAll (s : State) (id : RangeOwner) (rs : List (Nat × Nat × Bool)) : Res := do
  if 32 < s.rangesUsed s.me + rs.length then stall
  pure (rs.foldl (fun s r => s.register s.me ⟨r.1, r.2.1, r.2.2, id, s.me.val, none⟩) s)

/-- An operation that can be deferred is: an explicit region is open and not sealed (06 R149). -/
def State.defers (s : State) : Bool :=
  match s.my.aux.frames.head? with
  | some f => !f.isSealed
  | none => false

/-- COPY, COPYSP, COPYQ at issue: the checks in the order of 06 R146 (R195, R196, R200). A deferred copy registers its ranges when it
is released. -/
def copyIssue (kind : Fin 3) (peg : Reg8) (m : MAddr) (mb : Ord) (s : State) : Res := do
  let ad := s.addr m
  s.checkFormat ad
  if !isSlice ad then trapV 0x04 ad
  s.checkAccess false ad 64 64
  let p ← s.loadPiece ad 64
  let d := s.pieceVal p
  let x := copyOf kind ad d peg
  if badCopy kind d x then trapV 0x01 ad
  s.checkEnds x.ends
  s.checkDsts x
  s.noBody
  s.checkReads [(ad, p)]
  let rs ← s.ownRanges x.ends
  let x := { x with win := s.ownWin x.src, mwin := s.ownWin x.fmeta }
  let r ← s.requestOrDefer 64 mb (.copy x)
  let t := r.1.countCe s.me p.raws
  if s.defers then pure t.retire
  else do
    let t ← t.registerAll (.copy r.2) rs
    pure t.retire

/-- R195, R196. -/
def execCopy (t : Reg8) (m : MAddr) (mb : Ord) (_la : Fin 16) (s : State) : Ending := conclude s (copyIssue 0 t m mb s)
/-- R195, R196, R201. -/
def execCopysp (t : Reg8) (m : MAddr) (mb : Ord) (_la : Fin 16) (s : State) : Ending := conclude s (copyIssue 1 t m mb s)
/-- R195, R196, R202. -/
def execCopyq (t : Reg8) (m : MAddr) (mb : Ord) (_la : Fin 16) (s : State) : Ending := conclude s (copyIssue 2 t m mb s)

/-- The segment status byte: ST, PEG, CTX (02 Table 2.8). -/
def segWord (st : Nat) (peg : Reg8) (c : CtxNo) : BitVec 7 := BitVec.ofNat 7 (st + peg.val * 4 + c.val * 32)

/-- A segment's status set. -/
def Core.setSeg (co : Core) (i : Fin 4) (w : BitVec 7) : Core := { co with csr := { co.csr with seg := co.csr.seg.set i w } }

/-- The source of a CFETCH. -/
def fetchEnd (a : Word) : End := ⟨a, 1, 0x2000, 0, false, false⟩

/-- The PC of a context that is not idle lies in a segment; a follower's slaved context has no PC of its own (09 R268). -/
def State.segBusy (s : State) (k : Key) (seg : Fin 4) : Bool :=
  allCtx.any fun c => !s.follower k c && decide ((s.ctx k c).run ≠ .idle ∧ (s.ctx k c).pc.toNat / 0x2000 = seg.val)

/-- R203. -/
def execCfetch (t : Reg8) (b : Reg) (seg : Fin 4) (_la : Fin 16) (s : State) : Ending :=
  conclude s (do
    let ad := s.x b
    let e := fetchEnd ad
    s.checkFormat ad
    if ad.toNat % 64 ≠ 0 then trapV 0x03 ad
    s.checkEnds [e]
    s.noBody
    if s.segBusy s.me seg || decide (s.myCore.csr.seg[seg].toNat % 4 = 1) then trapV 0x06 (at_ (seg.val * 0x2000) 0)
    let rs ← s.ownRanges [e]
    let r ← s.request .plain (.cfetch ad seg t) .trecon
    let u ← r.1.registerAll (.cfetch r.2) rs
    pure (u.updMine fun co => co.setSeg seg (segWord 1 t s.cc)).retire)

/-! ## The engines (06 R197 to R199) -/

/-- Where a copy runs: that of a hod on its own streamer (06 R154), any other as 06 R197 says. -/
def State.engineOf (s : State) (r : Req) (x : CopyDesc) (pages : List Leaf) : Key :=
  let p := s.part r.part
  let own := fun (a : Word) => match leafFor pages a.toNat with
    | some l => hodKey (s.blockOwner p l.entry a.toNat)
    | none => r.src
  if isHod r.src && r.host.isNone then r.src
  else if !isSlice x.src then own x.src
  else if x.dsts.isNone && !isSlice x.dst then own x.dst
  else if x.kind.val = 2 then
    hodKey (pickHod (hodsOf p.hods) (16 * dieOf (coreKey (coreOf x.src)) + palletOf (coreOf x.src) % 16))
  else coreKey (coreOf x.src)

/-! ### Ends in other packages (14 R341; log entry 104) -/

/-- The engine of a transfer asks something of an end in another package. -/
def State.askFor (s : State) (r : Req) (e : End) (a : Ask) : State :=
  let f := s.freshId
  let t := f.2.post (.ask r (s.owner e.a) f.1 a)
  { t with sh := { t.sh with asks := t.sh.asks ++ [⟨f.1, r, a, none⟩] } }
/-- The name of a transfer with its core. -/
def Req.tag (r : Req) : Nat × Key := (r.id, r.src)
/-- What was asked for a transfer. -/
def State.askedOf (s : State) (id : Nat × Key) : List Asked := s.sh.asks.filter fun q => q.req.tag = id
/-- The registration that was asked for an end. -/
def State.regOf (s : State) (id : Nat × Key) (e : End) : Option Asked := (s.askedOf id).find? fun q => q.ask = .register e
/-- An end whose registration is to be asked. -/
def State.askNext (s : State) (id : Nat × Key) (es : List End) : Option End := es.find? fun e => s.abroad e && (s.regOf id e).isNone
/-- An answer for a transfer is awaited. -/
def State.asking (s : State) (id : Nat × Key) : Bool := (s.askedOf id).any (·.ans.isNone)

/-- A transfer ends: the owners in other packages are told to release what it registered there. -/
def State.letGo (s : State) (r : Req) : State :=
  let t : State := { s with sh := { s.sh with asks := s.sh.asks.filter fun q => q.req.tag ≠ r.tag } }
  (s.askedOf r.tag).foldl (fun t q => match q.ask with
    | .register e => t.post (.ask q.req (t.owner e.a) 0 (.release e))
    | _ => t) t

/-- An asking goes on after the earlier ones of its transfer to the same owner. -/
def State.askTurn (s : State) (i : Nat) (r : Req) (dst : Owner) : Bool :=
  !((s.sh.fabric.take i).any fun m => match m with
    | .ask q d .. => decide (q.dev = r.dev ∧ q.id = r.id ∧ d = dst)
    | _ => false)

/-- A transfer is given up having moved nothing: ranges released, a `CFETCH`'s segment absent, a bound stream in error
(06 R169, R198, R203). -/
def State.abandon (s : State) (r : Req) : State :=
  let s := (s.releaseRanges r.rangeName r.src).letGo r
  match r.op with
  | .cfetch _ seg _ => s.updCore r.src fun co => co.setSeg seg (co.csr.seg[seg] &&& 0x7C)
  | .copy x => match x.dsts with
    | some i => match s.strm r.src i with
      | some t => s.setStrm r.src i (some { t with err := true })
      | none => s
    | none => s
  | _ => s

/-- A refusal reported at the context's next fence (06 R188, 10 R300); the KIND 6 entry where it is idle. -/
def State.refuse (s : State) (k : Key) (c : CtxNo) (pc : PC) : State :=
  let t := s.updCtx k c fun x => { x with aux := { x.aux with
    refMask := x.aux.refMask ||| 1, refCount := x.aux.refCount + 1, refPc := some (x.aux.refPc.getD pc) } }
  if (t.ctx k c).run == .idle then t.reportRef k c else t

/-- The fields of a fault record that name the request: requester, TAG, MASK (15 Table 15.7). -/
def recordFields (r : Req) : Nat × Word × Word :=
  match r.op with
  | .copy x => (x.kind.val + 1, x.desc, 0)
  | .cfetch a seg _ => (4, a, at_ seg.val 0)
  | _ => (0, 0, 0)

/-- The transfer faults at a far address (15 R379, R380): access 0 read, 1 write, 2 fetch. -/
def State.farFault (s : State) (r : Req) (cause : BitVec 8) (va access : Nat) : State :=
  let f := recordFields r
  let h := sliceOf (s.part r.part).hods va
  (s.abandon r).faultRecord r.src r.ctx
    (entry 6 s.device h true r.ctx.val cause.toNat 0 (at_ va 0) (at_ (access + f.1 * 16) 0) f.2.1 (at_ r.pc.toNat 0) f.2.2)
    cause (at_ va 0)

/-- The transfer's window fails at another owner (06 R199). -/
def State.winFault (s : State) (r : Req) (e : End) : State :=
  let f := recordFields r
  (s.abandon r).faultRecord r.src r.ctx
    (entry 6 s.device (coreOf e.a) false r.ctx.val 0x0E 0 e.a (at_ (f.1 * 16) 0) f.2.1 (at_ r.pc.toNat 0) f.2.2)
    0x0E e.a

/-- The granted tiles of the partition's hods that a far end's rows overlap and that conflict with it (10 R303). -/
def State.farConflict (s : State) (n : Nat) (e : End) : Bool :=
  (hodsOf (s.part n).hods).any fun h => (s.core (hodKey h)).lkm.queue.any fun q =>
    q.granted && (q.write || e.write) &&
      (rowAddrs e.a.toNat e.rows e.len e.stride).any fun r => overlap r.1 (r.1 + r.2) (q.tile * 0x1000) (q.tile * 0x1000 + 0x1000)

/-- The translation of the far ends, in order: leaves, or the fault with its address and access. -/
def State.transEnds (s : State) (r : Req) (fetch : Bool) : List End → State × Except (BitVec 8 × Nat × Nat) (List Leaf)
  | [] => (s, .ok [])
  | e :: es =>
    let acc : Access := if fetch then .fetch else if e.write then .write else .read
    let die := if r.host.isSome then 0 else dieOf r.src
    match s.translateAll r.part die acc (r.mode == .supervisor) e.blocks with
    | (s, .error (c, va)) => (s, .error (c, va, if fetch then 2 else if e.write then 1 else 0))
    | (s, .ok ls) => match s.transEnds r fetch es with
      | (s, .ok l) => (s, .ok (ls ++ l))
      | x => x

/-- The registrations at other owners: none while a table is full, else the state and the descriptor with the windows captured, or
the refusal, or the end whose window fails (06 R147, R196, R199, 10 R300). -/
inductive Registered where
  | full
  | done (s : State) (win mwin : Option Word)
  | refused
  | window (e : End)

/-- The ranges of a transfer do not conflict with one another. Those in other packages are as their owners answered. -/
def State.registerEnds (s : State) (r : Req) (win mwin : Option Word) : List End → Registered
  | [] => .done s win mwin
  | e :: es =>
    let o := s.owner e.a
    if !isSlice e.a || decide (o = ⟨s.device, r.src.val⟩) then s.registerEnds r win mwin es
    else if o.dev ≠ s.device then
      (match (s.regOf r.tag e).bind (·.ans) with
        | some (.range d) => s.registerEnds r (if e.write || e.side then win else some d) (if e.write || !e.side then mwin else some d) es
        | some .window => .window e
        | some .refused => .refused
        | _ => .full)
    else
    let k := ownerKey o
    let co := s.core k
    if co.resetting.isSome then .refused else
    match s.endRange k e (co.win (winOf e.a)) with
    | none => .window e
    | some (lo, hi) =>
      if s.conflict k (some r.rangeName) e.write lo hi then .refused
      else if 32 ≤ s.rangesUsed k then .full
      else
        let d := some (co.win (winOf e.a))
        (s.register k ⟨lo, hi, e.write, r.rangeName, r.src.val, none⟩).registerEnds r
          (if e.write || e.side then win else d) (if e.write || !e.side then mwin else d) es

/-- The request reaches its engine: pages translated, ranges registered (06 R196 to R199). -/
def State.transferStarts (s : State) (r : Req) (es : List End) (fetch : Bool)
    (start : State → List Leaf → Option Word → Option Word → State) (win mwin : Option Word) : Option State :=
  match s.transEnds r fetch (es.filter fun e => !isSlice e.a) with
  | (s, .error (c, va, acc)) => some (s.farFault r c va acc)
  | (s, .ok pages) =>
    if (es.filter fun e => !isSlice e.a).any fun e => s.farConflict r.part e then some ((s.abandon r).refuse r.src r.ctx r.pc)
    else match s.registerEnds r win mwin es with
      | .full => none
      | .done t w m => some (start t pages w m)
      | .refused => some ((s.abandon r).refuse r.src r.ctx r.pc)
      | .window e => some (s.winFault r e)

/-- The oldest released operation takes an injection entry under a new name. A copy registers its own-slice ranges then, as
if it issued at that moment; one that now meets a conflict is refused (06 R149, R196; log entry 30). -/
def State.releaseDeferred (s : State) (k : Key) (c : CtxNo) : Option State :=
  match (s.ctx k c).aux.deferred with
  | d :: rest =>
    if d.depth ≠ 0 || 16 ≤ (s.core k).injq.length || !s.liveCore k then none else
    let (id, s) := s.freshId
    let s := s.updCtx k c fun x => { x with aux := { x.aux with deferred := rest } }
    let r := { d.req with id := id }
    let put := fun (s : State) (r : Req) => s.updCore k fun co => { co with injq := co.injq ++ [r] }
    match r.op with
    | .copy x =>
      let t := s.as_ k c
      match x.ends.find? fun e => t.endHere e && (t.endRange k e (t.myCore.win (winOf e.a))).isNone with
      | some e => some (s.winFault r e)
      | none => match t.ownRanges x.ends with
        | .error _ => some ((s.abandon r).refuse k c r.pc)
        | .ok rs =>
          if 32 < s.rangesUsed k + rs.length then none
          else some (rs.foldl (fun s q => s.register k ⟨q.1, q.2.1, q.2.2, .copy id, k.val, none⟩)
            (put s { r with op := .copy { x with win := t.ownWin x.src, mwin := t.ownWin x.fmeta } }))
    | _ => some (put s r)
  | [] => none
def execDeferredRelease (c : Key) (k : CtxNo) (s : State) : Ending := fire s (s.releaseDeferred c k)

/-! ## Moving the bytes -/

/-- The raw ranges behind a byte of a slice end, with its value, by the captured descriptor. -/
def State.endRaw (s : State) (e : End) (k : Key) (win : Word) (a : Nat) : Nat × List (Nat × Nat) :=
  if winOf e.a = 0 then (s.peek k a 1, [(a, 1)]) else (winRead (winOf e.a) win (s.peek k) a 1).getD (0, [])

/-- Byte j of an end in another package, once it has come for a transfer. -/
def State.byteCome (s : State) (id : Nat × Key) (e : End) (j : Nat) : Option (Byte × Bool) :=
  (s.askedOf id).findSome? fun q => match q.ask, q.ans with
    | .read d _ i n, some (.bytes l) => if d = e ∧ i ≤ j ∧ j < i + n then l[j - i]? else none
    | _, _ => none

/-- Byte j of an end of a transfer with whether it is poisoned: a slice through its window, far pages, or what came from another
package. -/
def State.endByte (s : State) (id : Nat × Key) (e : End) (win : Word) (pages : List Leaf) (j : Nat) : Byte × Bool :=
  let a := e.place j
  if isSlice e.a then
    match (s.owner e.a).local_ s with
    | some k =>
      let q := s.endRaw e k win a
      (BitVec.ofNat 8 q.1, q.2.any fun q => (s.badWord (Loc.local_ k q.1) q.2).isSome)
    | none => (s.byteCome id e j).getD (0, false)
  else match leafFor pages a with
    | some l => (s.sh.mem.get (l.phys a), s.lineBad (l.phys a))
    | none => (0, false)

/-- n bytes of an end of a transfer in order, from byte j. -/
def State.endBytes (s : State) (id : Nat × Key) (e : End) (win : Word) (pages : List Leaf) (j n : Nat) : List (Byte × Bool) :=
  (List.range n).map fun i => s.endByte id e win pages (j + i)
/-- They are there: in this package, or come from another. -/
def State.come (s : State) (id : Nat × Key) (e : End) (j n : Nat) : Bool :=
  !s.abroad e || (List.range n).all fun i => (s.byteCome id e (j + i)).isSome

/-- The correctable words among them are counted at the core that holds them (17 R415). -/
def State.countEnd (s : State) (e : End) (win : Word) (j n : Nat) : State :=
  match (if isSlice e.a then (s.owner e.a).local_ s else none) with
  | some k => s.countCe k ((List.range n).flatMap fun i => (s.endRaw e k win (e.place (j + i))).2)
  | none => s

/-- Bytes at places of the byte store, with no undo entry: words that they cover whole are no longer in error, words with a poisoned
byte are (17 R404). -/
def State.putFar (s : State) (l : List (Nat × Byte × Bool)) : State :=
  let ws := (l.map fun e => e.1 / 8).eraseDups
  let bad := ((l.filter fun e => e.2.2).map fun e => e.1 / 8).eraseDups
  let whole := ws.filter fun w => (List.range 8).all fun i => l.any fun e => e.1 = 8 * w + i
  let m := l.foldl (fun m e => m.set e.1 e.2.1) s.sh.mem
  { s with sh := { s.sh with mem := m, ue := (s.sh.ue.filter fun w => !whole.contains w || bad.contains w),
                             ce := s.sh.ce.filter fun w => !whole.contains w } }.poison bad

/-- Bytes written in order to an end of a transfer, from its byte j, poisoned ones as poisoned (06 R148, R152, R199). What another
package's slice holds is not in the state (see putFrom). -/
def State.putEnd (s : State) (e : End) (w : Writer) (pages : List Leaf) (j : Nat) (bs : List (Byte × Bool)) : State :=
  let l := bs.zipIdx.map fun b => (e.place (j + b.2), b.1)
  if isSlice e.a then
    match (s.owner e.a).local_ s with
    | some k =>
      let t := s.putEngine k w (l.map fun q => (q.1, 1, q.2.1.toNat))
      t.poison ((l.filter fun q => q.2.2).map fun q => Loc.local_ k q.1 / 8).eraseDups
    | none => s
  else s.putFar (l.filterMap fun q => (leafFor pages q.1).map fun p => (p.phys q.1, q.2.1, q.2.2))

/-- Little-endian elements of n bytes. -/
def elems (n : Nat) : List (Byte × Bool) → Nat → List (Nat × Bool)
  | _, 0 => []
  | l, f + 1 =>
    if l.isEmpty || n = 0 then [] else
    ((l.take n).foldr (fun b v => b.1.toNat + 256 * v) 0, (l.take n).any (·.2)) :: elems n (l.drop n) f
/-- An element as n bytes. -/
def toBytes (n : Nat) (e : Nat × Bool) : List (Byte × Bool) :=
  (List.range n).map fun i => (BitVec.ofNat 8 (e.1 >>> (8 * i)), e.2)
/-- Nibbles packed two to a byte, the first low (01 R13). -/
def packNibs : List (Nat × Bool) → List (Byte × Bool)
  | [] => []
  | [a] => [(BitVec.ofNat 8 (a.1 % 16), a.2)]
  | a :: b :: r => (BitVec.ofNat 8 (a.1 % 16 + 16 * (b.1 % 16)), a.2 || b.2) :: packNibs r
/-- Groups of n. -/
def groups {α : Type} (n : Nat) : List α → Nat → List (List α)
  | _, 0 => []
  | l, f + 1 => if l.isEmpty || n = 0 then [] else l.take n :: groups n (l.drop n) f

/-- COPYSP MODE 0: stored pairs with metadata to dense (06 R201). -/
def expand (t : ETy) (src : List (Nat × Bool)) (nibs : List (Nat × Bool)) : List (Nat × Bool) :=
  ((groups 2 src src.length).zip nibs).flatMap fun g =>
    let p0 := g.2.1 % 4
    let p1 := g.2.1 / 4 % 4
    let bad := g.2.2 || g.1.any (·.2)
    (List.range 4).map fun i =>
      if p1 ≤ p0 then (nanOf t, bad)
      else if i = p0 then ((g.1.headD (0, false)).1, bad)
      else if i = p1 then ((g.1.getD 1 (0, false)).1, bad)
      else (0, bad)

/-- The magnitude order of compaction: NaN greatest, ties to the lower position. -/
def magLt (t : ETy) (a b : Nat) : Bool :=
  let x := absVal (valueOf t a)
  let y := absVal (valueOf t b)
  if isNan y then !isNan x else if isNan x then false else ltVal false x y

/-- COPYSP MODE 1: the two greatest of four kept, with their positions (06 R201). -/
def compact (t : ETy) (src : List (Nat × Bool)) : List ((List (Nat × Bool)) × (Nat × Bool)) :=
  (groups 4 src src.length).map fun g =>
    let c := fun i => (g.getD i (0, false)).1
    let best := fun (skip : Nat) => (List.range 4).foldl (fun b i =>
      if i = skip then b else if b = 4 then i else if magLt t (c b) (c i) then i else b) 4
    let a := best 4
    let b := best a
    let lo := min a b
    let hi := max a b
    let bad := g.any (·.2)
    ([(c lo, bad), (c hi, bad)], (lo + 4 * hi, bad))

/-- An exact magnitude as a fraction over a common power of two is compared by cross products: a × 2^e against b × 2^d. -/
def magLe (a : Nat × Int) (b : Nat × Int) : Bool := decide (0 ≤ (addFin b.1 b.2 (-(a.1 : Int)) a.2).1)
/-- The magnitude of a finite value. -/
def magOf : Val → Nat × Int
  | .fin _ n e => (n, e)
  | _ => (0, 0)

/-- An MX block: elements and scale (01 R22). -/
def mxBlock (t : ETy) (g : List (Val × Bool)) : List (Nat × Bool) × (Nat × Bool) :=
  let bad := g.any (·.2)
  let m := g.foldl (fun m v => let x := magOf v.1; if magLe x m then m else x) (0, 0)
  if g.any fun v => match v.1 with | .fin .. => false | _ => true then (g.map fun _ => (0, bad), (0xFF, bad))
  else
    let emax : Int := if t = .e2m1 then 2 else if t = .e4m3 then 8 else 15
    let x : Int := if m.1 = 0 then -127 else max (-127) (min 127 ((Nat.log2 m.1 : Int) + m.2 - emax))
    (g.map fun v => (convert t .rne 0 false (scaleVal v.1 (-x)), bad), ((x + 127).toNat, bad))

/-- The q4n index that is nearest to x for a block scale s (01 R26): exact distances, ties to the smaller magnitude. -/
def q4nIndex (x : Val) (s : Nat) : Nat :=
  let sv := fmtValue f32Fmt s
  let dist := fun (i : Nat) =>
    let cb := codebook.getD i 0
    match addVal .rne x (negVal (mulVal (.fin (decide (cb < 0)) cb.natAbs (-10)) sv)) with
    | .fin _ n e => (n, e)
    | _ => (0, 0)
  (List.range 16).foldl (fun b i =>
    let d := dist i
    let e := dist b
    if magLe e d then (if magLe d e && decide ((codebook.getD i 0).natAbs < (codebook.getD b 0).natAbs) then i else b)
    else i) 0

/-- The f32 code of an exact magnitude of f32 or bf16. -/
def f32Of (m : Nat × Int) : Nat := convert .f32 .rne 0 false (.fin false m.1 m.2)

/-- ceil(255 × m / S). -/
def ceilScale (m s : Nat × Int) : Nat :=
  let e := min m.2 s.2
  let a := 255 * m.1 * 2 ^ (m.2 - e).toNat
  let b := s.1 * 2 ^ (s.2 - e).toNat
  if b = 0 then 0 else (a + b - 1) / b

/-- A q4n group image from its elements; missing ones are +0 (01 R24, R26). -/
def q4nImage (g : List (Val × Bool)) : List (Byte × Bool) :=
  let bad := g.any (·.2)
  let vs := g.map (·.1) ++ List.replicate (16384 - g.length) (Val.fin false 0 0)
  let blocks := groups 64 vs 256
  let maxOf := fun (l : List Val) => l.foldl (fun m v => let x := magOf v; if magLe x m then m else x) (0, 0)
  let ms := blocks.map maxOf
  let sm := ms.foldl (fun m x => if magLe x m then m else x) (0, 0)
  let non := vs.any fun v => match v with | .fin .. => false | _ => true
  let cs : List Nat := if non then ms.map fun _ => 255 else ms.map fun m => if sm.1 = 0 then 0 else ceilScale m sm
  let S := if non then 0x7FC00000 else f32Of sm
  let idx : List (Nat × Bool) := if non || sm.1 = 0 then vs.map fun _ => (7, bad)
    else (blocks.zip cs).flatMap fun b =>
      let sc := blockScale b.2 false sm.1 sm.2
      b.1.map fun v => (if b.2 = 0 then 7 else q4nIndex v sc, bad)
  packNibs idx ++ (cs.map fun c => (BitVec.ofNat 8 c, bad)) ++ toBytes 4 (S, bad) ++
    List.replicate 60 (0, bad)

/-- What a copy writes: destination bytes and metadata bytes (06 R199, R201, R202). -/
def CopyDesc.output (x : CopyDesc) (src fmeta : List (Byte × Bool)) : List (Byte × Bool) × List (Byte × Bool) :=
  let n := src.length
  match x.kind.val, x.mode with
  | 0, _ => (src, [])
  | 1, m =>
    let t := (etyOf x.otype).getD .bf16
    let w := t.width / 8
    let es := elems w src n
    if m = 0 then
      let nibs := fmeta.flatMap fun b => [(b.1.toNat % 16, b.2), (b.1.toNat / 16, b.2)]
      ((expand t es nibs).flatMap (toBytes w), [])
    else
      let c := compact t es
      (c.flatMap fun g => g.1.flatMap (toBytes w), packNibs (c.map (·.2)))
  | _, m =>
    let it := (etyOf x.itype).getD .f32
    let vs := (elems (it.width / 8) src n).map fun e => (valueOf it e.1, e.2)
    if m = 0 then ((groups 16384 vs n).flatMap q4nImage, [])
    else
      let t := (etyOf x.otype).getD .e2m1
      let bl := (groups 32 vs n).map (mxBlock t)
      let es := bl.flatMap (·.1)
      (if t.width = 4 then packNibs es else es.flatMap (toBytes 1), bl.flatMap fun b => toBytes 1 b.2)

/-- Bytes of a copy into a bound stream, at its pattern addresses, from byte j of the sequence (06 R169): of the stream as it is bound
when they land, and nowhere where it is unbound (log entry 119). -/
def State.putStream (s : State) (k : Key) (i : Reg8) (w : Writer) (j : Nat) (bs : List (Byte × Bool)) : State :=
  match s.strm k i with
  | none => s
  | some t =>
    let es := if t.ety.width = 4 then bs.flatMap fun b => [(b.1.toNat % 16, b.2), (b.1.toNat / 16, b.2)]
      else elems t.bytes bs bs.length
    let n := 8 * j / t.ety.width
    let l := es.zipIdx.map fun e => (n + e.2, e.1.1, e.1.2)
    let u := s.putElems k w t l
    let u := u.poison ((l.filter fun e => e.2.2).map fun e => Loc.local_ k (t.byteOff e.1) / 8).eraseDups
    u.setStrm k i (some { t with landed := n + es.length })

/-- Bytes of a copy written to one of its ends: in this package, or sent to another. -/
def State.putFrom (s : State) (c : Copy) (e : End) (w : Writer) (j : Nat) (bs : List (Byte × Bool)) : State :=
  if s.abroad e then (if bs.isEmpty then s else s.askFor c.req e (.write e j bs)) else s.putEnd e w c.pages j bs

/-- The destination bytes of a copy from byte j. -/
def State.putCopy (s : State) (c : Copy) (w : Writer) (j : Nat) (bs : List (Byte × Bool)) : State :=
  match c.d.dsts with
  | some q => s.putStream c.req.src q w j bs
  | none => s.putFrom c c.d.dstEnd w j bs

/-- The greatest cut, at most `most` after j, that divides no line of 64 bytes: between bytes in two lines, or in one line but not
ascending. Where there is none, `most`. -/
def cutAt (place : Nat → Nat) (j : Nat) : Nat → Nat
  | 0 => 0
  | m + 1 => if place (j + m + 1) / 64 ≠ place (j + m) / 64 ∨ place (j + m + 1) ≤ place (j + m) then m + 1 else cutAt place j m
def cutDown (place : Nat → Nat) (j most : Nat) : Nat :=
  match cutAt place j most with
  | 0 => most
  | m => m

/-- The least cut from j + n on: the line that holds byte j + n − 1 of an end is read whole (06 R199). -/
def lineUp (place : Nat → Nat) (j n : Nat) : Nat :=
  if n = 0 then 0 else
  ((List.range 64).find? fun i => decide (place (j + n + i) / 64 ≠ place (j + n + i - 1) / 64 ∨ place (j + n + i) ≤ place (j + n + i - 1))).getD 0 + n

/-- The place of byte j of what a copy writes: an offset or address, or the pattern address of a bound stream (06 R169). -/
def State.outPlace (s : State) (c : Copy) (j : Nat) : Nat :=
  match c.d.dsts with
  | some q => match s.strm c.req.src q with
    | some t => t.byteOff (8 * j / t.ety.width) + j % t.bytes
    | none => j
  | none => c.d.dstEnd.place j

/-- The source bytes that a message of n lines needs: lines read whole, enough to give its bytes. -/
def Copy.needs (c : Copy) (n : Nat) : Nat :=
  let x := c.d
  let out := 64 * n - c.pend.length
  let want := (out + x.unitOut - 1) / x.unitOut * x.unit - c.raw.length
  min (lineUp x.srcEnd.place c.moved want) (x.rows * x.rlen - c.moved)

/-- The bytes of META that an expansion of so many more source bytes needs. -/
def Copy.sideNeeds (c : Copy) (len : Nat) : Nat :=
  let x := c.d
  let all := c.moved + len = x.rows * x.rlen
  let have_ := c.raw.length + len
  let take := if all then have_ else have_ / x.unit * x.unit
  let units := (take + x.unit - 1) / x.unit
  if x.metaRead then min (lineUp x.metaEnd.place c.side (units * x.unitMeta - c.spend.length)) (x.metaBytes - c.side) else 0

/-- What a message of n lines reads has come where it lies in other packages. -/
def State.copyCan (s : State) (c : Copy) (n : Nat) : Bool :=
  s.come c.req.tag c.d.srcEnd c.moved (c.needs n) && s.come c.req.tag c.d.metaEnd c.side (c.sideNeeds (c.needs n))

/-- Source lines are read as far as a message of n lines needs them, and with them the lines of META that an expansion needs; what is
whole is converted. -/
def State.copyRead (s : State) (c : Copy) (n : Nat) : State × Copy :=
  let x := c.d
  let len := c.needs n
  let all := c.moved + len = x.rows * x.rlen
  let src := c.raw ++ s.endBytes c.req.tag x.srcEnd (x.win.getD 0) c.pages c.moved len
  let take := if all then src.length else src.length / x.unit * x.unit
  let units := (take + x.unit - 1) / x.unit
  let mlen := c.sideNeeds len
  let fm := c.spend ++ s.endBytes c.req.tag x.metaEnd (x.mwin.getD 0) c.pages c.side mlen
  let out := x.output (src.take take) (if x.metaRead then fm.take (units * x.unitMeta) else [])
  ((s.countEnd x.srcEnd (x.win.getD 0) c.moved len).countEnd x.metaEnd (x.mwin.getD 0) c.side mlen |>.bump,
    { c with moved := c.moved + len, raw := src.drop take, pend := c.pend ++ out.1,
             side := c.side + mlen, spend := if x.metaRead then fm.drop (units * x.unitMeta) else c.spend ++ out.2 })

/-- Everything that a copy reads is read and converted. -/
def Copy.allRead (c : Copy) : Bool := decide (c.moved = c.d.rows * c.d.rlen) && c.raw.isEmpty

/-- Converted bytes written: whole destination lines, at most n of 64 bytes (06 R199, 14 R356); and the whole lines of META. -/
def State.copyWrite (s : State) (c : Copy) (n : Nat) : State × Copy :=
  let w : Writer := c.req.writer
  let most := min (64 * n) c.pend.length
  let len := if c.allRead && most = c.pend.length then most else cutDown (s.outPlace c) c.put most
  let t := s.putCopy c w c.put (c.pend.take len)
  let mlen := if c.d.metaRead then 0 else if c.allRead then c.spend.length else cutAt c.d.metaEnd.place c.side c.spend.length
  (if mlen = 0 then t else t.putFrom c c.d.metaEnd w c.side (c.spend.take mlen),
    { c with pend := c.pend.drop len, put := c.put + len,
             side := if c.d.metaRead then c.side else c.side + mlen, spend := if c.d.metaRead then c.spend else c.spend.drop mlen })

/-- A copy moves a message of at most n lines of 64 bytes: it reads source lines and writes destination lines, each of them whole
(06 R199, 10 Table 10.5, 14 R356). -/
def State.copyStep (s : State) (c : Copy) (n : Nat) : State × Copy :=
  let r := s.copyRead c n
  r.1.copyWrite r.2 n

/-- Every destination byte is written. -/
def Copy.ended (c : Copy) : Bool := c.allRead && c.pend.isEmpty && (c.d.metaRead || c.spend.isEmpty)

/-- Bytes of a transfer that another package has not written yet. -/
def State.writing (s : State) (id : Nat × Key) : Bool := (s.askedOf id).any fun q => match q.ask with | .write .. => true | _ => false

/-- The next bytes of an end in another package are asked, from byte j on or after those asked before: at most LIMIT × 64, whole lines,
one message at a time. -/
def State.askMore (s : State) (r : Req) (e : End) (win : Word) (limit j total : Nat) : Option State :=
  let got := (s.askedOf r.tag).filterMap fun q => match q.ask with
    | .read d _ i n => if d = e then some (i + n) else none
    | _ => none
  let j := got.foldl max j
  if !s.abroad e || total ≤ j || s.asking r.tag then none
  else some (s.askFor r e (.read e win j (cutDown e.place j (min (64 * limit) (total - j)))))

/-- A copy asks for more of its source, or of META. -/
def State.copyAsk (s : State) (i : Nat) : Option State :=
  match s.sh.copies[i]? with
  | none => none
  | some c =>
    if !(s.part c.req.part).live then none else
    match s.askMore c.req c.d.srcEnd (c.d.win.getD 0) c.limit c.moved (c.d.rows * c.d.rlen) with
    | some t => some t
    | none => if c.d.metaRead then s.askMore c.req c.d.metaEnd (c.d.mwin.getD 0) c.limit c.side c.d.metaBytes else none

/-- A message of a copy that is not its last: one of at most LIMIT × 64 bytes. A gang stop falls between two lines of 64 bytes
(14 R355). The last bytes for another package go in such a message: the copy completes when they are written. -/
def State.copyPiece (s : State) (i n : Nat) : Option State :=
  match s.sh.copies[i]? with
  | none => none
  | some c =>
    if !(s.part c.req.part).live || n = 0 || c.limit < n || c.ended || !s.copyCan c n then none else
    let r := s.copyStep c n
    if r.2.ended && !r.1.writing c.req.tag then none else some { r.1 with sh := { r.1.sh with copies := r.1.sh.copies.set i r.2 } }

/-! ## Requests and what engines ask arrive (06 R196 to R199) -/

/-- What an engine of another package asks of a slice of this one is done and answered: a registration waits for a place in the table, is
refused where the slice does not take it, and captures the window (06 R147, R196, R199); bytes are read and written while the partition
runs (14 R355). -/
def State.askArrives (s : State) (r : Req) (dst : Owner) (n : Nat) (k : Key) (a : Ask) : Option State :=
  let tell := fun (s : State) (x : Answer) => s.postTo k.val r.dev (.told r.src n x)
  let shut := s.denied r.part dst
  match a with
  | .release _ => some (s.releaseRanges (.away r.dev r.id) r.src)
  | .register e =>
    if shut || s.turnedAway r then some (tell s .refused) else
    let d := (s.core k).win (winOf e.a)
    match s.endRange k e d with
    | none => some (tell s .window)
    | some (lo, hi) =>
      if s.conflict k (some (.away r.dev r.id)) e.write lo hi then some (tell s .refused)
      else if 32 ≤ s.rangesUsed k then none
      else some (tell (s.register k ⟨lo, hi, e.write, .away r.dev r.id, r.src.val, none⟩) (.range d))
  | .read e w j m =>
    if shut then some (tell s .refused) else if s.turnedAway r then none
    else some (tell (s.countEnd e w j m) (.bytes (s.endBytes r.tag e w [] j m)))
  | .write e j bs =>
    if shut then some (tell s .refused) else if s.turnedAway r then none
    else some (tell (s.putEnd e r.writer [] j bs) .written)

/-- An answer comes to what an engine asked. Written bytes need no more; a slice that is no longer there ends the transfer. -/
def State.answered (s : State) (k : Key) (n : Nat) (a : Answer) : State :=
  let put := fun (l : List Asked) => { s with sh := { s.sh with asks := l } }
  let mine := fun (q : Asked) => decide (q.n = n ∧ q.req.src = k)
  match s.sh.asks.find? mine with
  | none => s
  | some q => match q.ask, a with
    | .write .., .written => put (s.sh.asks.filter fun q => !mine q)
    | .write .., .refused | .read .., .refused =>
      (({ s with sh := { s.sh with copies := s.sh.copies.filter fun c => c.req.tag ≠ q.req.tag,
                                   fetches := s.sh.fetches.filter fun f => f.req.tag ≠ q.req.tag } }).abandon q.req).refuse
        q.req.src q.req.ctx q.req.pc
    | _, _ => put (s.sh.asks.map fun p => if mine p then { p with ans := some a } else p)

/-- A request for an engine goes on once what it asks of other packages is answered; the registrations are asked one by one. -/
def State.asksFirst (s : State) (r : Req) (es : List End) (f : Option State) : Option State :=
  match s.askNext r.tag es with
  | some e => some (s.askFor r e (.register e))
  | none => if s.asking r.tag then none else f

/-- R197, R198, R199. A transfer takes the MSGMAX.LIMIT of the core that issued it (14 R356). The descriptor of a window of the own slice
through which a `CFETCH` reads is the one that stands when its request arrives (log entry 134). What an engine of another package asks
here, and what is answered there, arrives too. -/
def evCopyRequestArrival (i : Nat) (s : State) : Option State :=
  match s.msg i with
  | some (.req r _ _) =>
    if !(s.part r.part).live then none else
    let limit := (s.core r.src).csr.msgmax.toNat
    match r.op with
    | .copy x =>
      s.asksFirst r x.ends <| (s.unpost i).transferStarts r x.ends false (fun t pages w m =>
        { t with sh := { t.sh with copies := t.sh.copies ++
          [⟨r.id, r, { x with win := w, mwin := m }, pages, t.engineOf r x pages, limit, 0, [], [], 0, 0, []⟩] } })
        x.win x.mwin
    | .cfetch a seg peg =>
      s.asksFirst r [fetchEnd a] <| (s.unpost i).transferStarts r [fetchEnd a] true (fun t pages w _ =>
        { t with sh := { t.sh with fetches := t.sh.fetches ++ [⟨r.id, r, seg, peg, a, w, pages, limit, 0⟩] } })
        (if s.owner a = ⟨s.device, r.src.val⟩ then some ((s.core r.src).win (winOf a)) else none) none
    | _ => none
  | some (.ask r dst n a) =>
    match dst.local_ s with
    | some k => if s.askTurn i r dst then (s.unpost i).askArrives r dst n k a else none
    | none => none
  | some (.told k n a) => if s.liveCore k then some ((s.unpost i).answered k n a) else none
  | _ => none
def execCopyRequestArrival (i : Nat) (s : State) : Ending := fire s (evCopyRequestArrival i s)

/-- R199: the last message is written, the ranges are released, the peg falls, the notice is sent. -/
def evCopyComplete (i : Nat) (s : State) : Option State :=
  match s.sh.copies[i]? with
  | none => none
  | some c =>
    if !(s.part c.req.part).live || !s.copyCan c c.limit then none else
    let r := c.req
    let q := s.copyStep c c.limit
    if !q.2.ended || q.1.writing c.req.tag then none else
    let s := { q.1 with sh := { q.1.sh with copies := q.1.sh.copies.eraseIdx i } }
    let s := ((s.releaseRanges (.copy r.id) r.src).letGo r).pegDec r.src r.ctx c.d.peg 1 r.pc
    let dev := if isHod c.engine then s.device else (s.owner c.d.src).dev
    some (if c.d.notify then
      s.offer r.src (entry 2 dev (index c.engine) (isHod c.engine) r.ctx.val 0 0 0 0 c.d.desc 0 0) false else s)
def execCopyComplete (i : Nat) (s : State) : Ending := fire s (evCopyComplete i s)

/-- At most n lines of a code fetch land (06 R203, 14 R356). -/
def State.fetchStep (s : State) (f : Fetch) (n : Nat) : State × Fetch :=
  let k := f.req.src
  let e := fetchEnd f.src
  let len := min (64 * n) (0x2000 - f.moved)
  let bs := s.endBytes f.req.tag e (f.win.getD 0) f.pages f.moved len
  let s := (s.countEnd e (f.win.getD 0) f.moved len).bump
  (s.putFar (bs.zipIdx.map fun b => (Loc.imem k.val (f.seg.val * 0x2000 + f.moved + b.2), b.1.1, b.1.2)),
    { f with moved := f.moved + len })

/-- A code fetch asks for more of its source in another package. -/
def State.fetchAsk (s : State) (i : Nat) : Option State :=
  match s.sh.fetches[i]? with
  | none => none
  | some f => if (s.part f.req.part).live then s.askMore f.req (fetchEnd f.src) (f.win.getD 0) f.limit f.moved 0x2000 else none
/-- What a message of n lines of it reads has come. -/
def State.fetchCan (s : State) (f : Fetch) (n : Nat) : Bool := s.come f.req.tag (fetchEnd f.src) f.moved (min (64 * n) (0x2000 - f.moved))

/-- A message of a code fetch that is not its last. -/
def State.fetchPiece (s : State) (i n : Nat) : Option State :=
  match s.sh.fetches[i]? with
  | none => none
  | some f =>
    if !(s.part f.req.part).live || n = 0 || f.limit < n || !s.fetchCan f n then none else
    let r := s.fetchStep f n
    if r.2.moved = 0x2000 then none else some { r.1 with sh := { r.1.sh with fetches := r.1.sh.fetches.set i r.2 } }

/-- R203: the last of the 8 KiB has landed. -/
def evCfetchLanded (k : Key) (seg : Fin 4) (s : State) : Option State :=
  match s.sh.fetches.find? fun f => decide (f.req.src = k ∧ f.seg = seg) with
  | none => none
  | some f =>
    if !(s.part f.req.part).live || !s.fetchCan f f.limit then none else
    let q := s.fetchStep f f.limit
    if q.2.moved ≠ 0x2000 then none else
    let s := { q.1 with sh := { q.1.sh with fetches := q.1.sh.fetches.filter fun g => g.id ≠ f.id } }
    let s := s.updCore k fun co => co.setSeg seg (segWord 2 f.peg f.req.ctx)
    some (((s.releaseRanges (.cfetch f.id) k).letGo f.req).pegDec k f.req.ctx f.peg 5 f.req.pc)
def execCfetchLanded (c : Key) (seg : Fin 4) (s : State) : Ending := fire s (evCfetchLanded c seg s)


end Sys2Proof.Machine
end

