-- ==== Sys2Proof/Machine/Kiln.lean ====
section
/-! DEFINITION. Kilns (07): the commands of major 29 with their checks, the arbitration between queues, the arithmetic of a
tile, completion and abandonment. -/
namespace Sys2Proof.Machine
open Sys2Proof

/-! ## Shapes and types (03 R80, R81; 07 R213) -/

/-- M and N of codes 0 to 8, and of the half and quarter variants of the same shapes (03 Table 3.10). -/
def shapeMN : List (Nat × Nat) :=
  [(16, 16), (16, 32), (32, 16), (32, 32), (32, 64), (64, 32), (64, 64), (16, 64), (64, 16)]
/-- M and N of the sparse codes 24 to 27. -/
def sparseMN : List (Nat × Nat) := [(16, 16), (32, 32), (64, 32), (64, 64)]

/-- M, N and the divisor of the full K of a shape code. -/
def shapeOf (code : Nat) : Nat × Nat × Nat :=
  let at_ := fun (l : List (Nat × Nat)) i v => let p := l.getD i (16, 16); (p.1, p.2, v)
  if code < 9 then at_ shapeMN code 1
  else if code < 18 then at_ shapeMN (code - 9) 2
  else if code < 24 then at_ shapeMN (code - 18) 4
  else at_ sparseMN (code - 24) 1

/-- K at full size of the type of operand A (03 Table 3.11): the rate class. -/
def fullK (t : Nat) : Nat := if t = 8 ∨ t = 9 then 256 else if t = 12 then 1024 else 512
def is8 (t : Nat) : Bool := decide (t = 10 ∨ t = 11)

/-- The type pairs of 07 Table 7.3 with their scale enables, and for `KSPMMA`. -/
def pairOk (a b : Nat) (asc bsc sparse : Bool) : Bool :=
  if a = 8 then (decide (b = 8) || (decide (b = 13) && !sparse)) && !asc && !bsc
  else if a = 9 then decide (b = 9) && !asc && !bsc
  else if is8 a then is8 b && (!sparse || (!asc && !bsc))
  else if a = 12 then decide (b = 12) && asc && bsc && !sparse
  else false

/-! ## Checks at issue (07 R216) -/

/-- An operand under check: its rows, the type of a data operand (none for scales and metadata), whether it is written. -/
structure KArg where
  o : KOpnd
  ty : Option Nat
  write : Bool
  deriving DecidableEq, Repr

/-- The core that owns an operand. -/
def KArg.key (g : KArg) : Key := coreKey (coreOf g.o.a)

/-- Steps 1 to 4 of 03 Table 3.14: a hod has no kiln queue (07 R204); the shape code of a command (03 R81), which its first IMX
carries (03 R80); then step 1 of R216. -/
def State.kilnHere (s : State) (code lo hi : Nat) (ok : Bool) : Except Stop Unit := do
  if isHod s.me then s.illegal
  need (decide (lo ≤ code ∧ code ≤ hi) && ok) (trapV 0x15 (s.prefixWord 0))
  s.noBody

/-- Locality of an operand: a slice of the half-pallet, device own or 0xFF (07 R210). -/
def State.kilnLocal (s : State) (a : Word) : Bool :=
  isSlice a && decide (s.resolve (devOf a) = s.device ∧ kilnOf (coreOf a) = kilnOf s.me.val)

/-- The window of a data operand that is read does not suit its type (07 R214, R224). The type that windows 2 to 7 decode is known
where the address names a core of the half-pallet. -/
def State.badWindow (s : State) (load : Bool) (g : KArg) : Bool :=
  match g.ty with
  | none => false
  | some t =>
    if g.write || !isSlice g.o.a then false else
    let w := winOf g.o.a
    let other := s.kilnLocal g.o.a && decide ((winType w ((s.core g.key).win w)).code ≠ t)
    if load then decide (1 ≤ w ∧ w ≤ 4) || (decide (5 ≤ w) && other)
    else if t = 13 then decide (w ≠ 1)
    else decide (w = 1) || (decide (2 ≤ w) && other)

/-- The row of an operand at a place. -/
def KOpnd.row (o : KOpnd) (r : Nat) : Word := o.a + BitVec.ofNat 64 (r * o.stride)

/-- The raw bytes behind a row. -/
def State.rowRaw (s : State) (g : KArg) (r : Nat) : Option (List (Nat × Nat)) :=
  let w := winOf g.o.a
  let d := (s.core g.key).win w
  let off := offOf g.o.a + r * g.o.stride
  if 0x100000 < off + g.o.len then none
  else if w = 0 then some [(off, g.o.len)]
  else match s.readVia g.key w d off 1, s.readVia g.key w d (off + g.o.len - 1) 1 with
    | some (_, a), some (_, b) => some (a ++ b)
    | _, _ => none

/-- The extent of an operand: its lowest and highest raw byte (06 R147). -/
def State.kilnExtent (s : State) (g : KArg) : Nat × Nat :=
  match s.rowRaw g 0, s.rowRaw g (g.o.rows - 1) with
  | some a, some b => hull (a ++ b)
  | _, _ => (0, 0)

/-- Steps 2 to 8 of R216 for operands, of step 2 the windows of R214 and that of a KLDA (log entry 67): `unit` is the alignment of rows, `load` a `KLDA`. XVALUE of a
lock is the lowest locked byte of the first operand that meets one (R215, 10 R300). -/
def State.kilnChecks (s : State) (load : Bool) (unit : Nat) (gs : List KArg) : Except Stop Unit := do
  if gs.any (s.badWindow load) then trapF 0x15
  gs.forM fun g => s.checkFormat g.o.a
  match gs.find? fun g => !s.kilnLocal g.o.a with
  | some g => trapV 0x04 g.o.a
  | none => pure ()
  match gs.find? fun g => decide (winOf g.o.a ≠ 0) && (g.ty.isNone || g.write) with
  | some g => trapV 0x19 g.o.a
  | none => pure ()
  match gs.find? fun g => decide (winOf g.o.a ≠ 0) && !winOk (winOf g.o.a) ((s.core g.key).win (winOf g.o.a)) with
  | some g => trapV 0x0E g.o.a
  | none => pure ()
  match gs.find? fun g => g.ty.isSome && decide (g.o.a.toNat % unit ≠ 0 ∨ g.o.stride % unit ≠ 0) with
  | some g => trapV 0x03 (g.o.row (if g.o.a.toNat % unit ≠ 0 then 0 else 1))
  | none => pure ()
  match gs.findSome? fun g => ((List.range g.o.rows).find? fun r => (s.rowRaw g r).isNone).map fun r => g.o.row r with
  | some a => trapV 0x0E a
  | none => pure ()
  match gs.find? fun g => g.write && decide (g.key ≠ s.me) with
  | some _ => match s.my.aux.frames.head? with
    | some f => need f.irv (trapF 0x11)
    | none => pure ()
  | none => pure ()
  match gs.find? fun g =>
      let e := s.kilnExtent g
      let h := s.lockHit g.key none none e.1 e.2
      if g.write then h.2 else h.1 with
  | some g =>
    let e := s.kilnExtent g
    trapV 0x05 ((g.o.a &&& 0x8FFFFFFFFFF00000) ||| at_ (s.lowestHit g.key none none g.write e.1 e.2) 0)
  | none => pure ()

/-- The range tables have room for every operand (07 R215). -/
def State.kilnRoom (s : State) (gs : List KArg) : Bool :=
  gs.all fun g => decide (s.rangesUsed g.key + (gs.filter fun h => h.key = g.key).length ≤ 32)

/-! ## Entering the queue -/

/-- A command takes its queue entry and its ranges, and retires (07 R204, R215). -/
def State.kilnEnter (s : State) (gs : List KArg) (f : Nat → KCmd) : Except Stop (State × Nat) := do
  if !s.kilnRoom gs || 16 ≤ s.myCore.kq.length then stall
  let s ← (if gs.any fun g => g.write && decide (g.key ≠ s.me) then s.irrevocable else .ok s)
  let (id, s) := s.freshId
  let c := f id
  let s := gs.foldl (fun s g =>
    let e := s.kilnExtent g
    s.register g.key ⟨e.1, e.2, g.write, .kiln id, s.me.val, none⟩) s
  let c := { c with ops := gs.map fun g => { g.o with win := (s.core g.key).win (winOf g.o.a) } }
  pure (s.updMine fun co => { co with kq := co.kq ++ [c] }, id)

/-- A command of the executing context, with what it captures. -/
def State.kcmd (s : State) (kind : KKind) (t : Fin 4) (peg : Option Reg8) (mn : Nat × Nat) (k occ : Nat) (inject : Bool)
    (id : Nat) : KCmd :=
  { id := id, ctx := s.cc, pc := s.my.pc, kind := kind, t := t, peg := peg, m := mn.1, n := mn.2, k := k,
    cfg := s.myCore.kcfgIssue, ops := [], rndkey := s.my.csr.rndkey, rndctr := s.my.csr.rndctr, ready := s.cycle + 5,
    started := none, occ := occ, inject := inject, flaw := false, failAt := none, got := [], err := none }

def pegOf (o : KOp) : Option Reg8 := if o.pegen then some o.peg else none

/-- Register B + i. -/
def State.xAt (s : State) (b : Reg) (i : Nat) : Word := s.x (Fin.ofNat 32 (b.val + i))

/-- The rows of a data operand of K elements of a type (07 R211): a q4n row is read as bf16. -/
def dataArg (a : Word) (rows k stride ty : Nat) : KArg :=
  let w := match etyOf (if ty = 13 then 8 else ty) with | some t => t.width | none => 8
  ⟨⟨a, rows, k * w / 8, stride, 0⟩, some ty, false⟩
def auxArg (a : Word) (rows len stride : Nat) : KArg := ⟨⟨a, rows, len, stride, 0⟩, none, false⟩

/-- Occupancy of a multiply (07 Table 7.6): M × N × stored K over the rate, at least 16. -/
def mulOcc (m n stored full : Nat) : Nat := max 16 (m * n * stored / (16 * full))

/-- The injection trigger of a tile, taken by it (08 R258). -/
def State.takeTile (s : State) : State :=
  if (s.my.trigger 2).isSome then s.fireTrigger s.me s.cc 2 else s

/-- A type of the sparse shapes (03 Table 3.11). -/
def sparseTy (t : BitVec 4) : Bool := decide (t ≠ 12 ∧ t ≠ 13)

/-- KMMA and KSPMMA (07 R218 to R220). -/
def kilnMul (o : KOp) (z sparse : Bool) (s : State) : Res := do
  let c := s.myCore.kcfgIssue
  s.kilnHere o.shape.val (if sparse then 24 else 0) (if sparse then 27 else 23)
    (!sparse || (sparseTy c.atype && sparseTy c.btype))
  let a := c.atype.toNat
  let b := c.btype.toNat
  need (pairOk a b c.ascl c.bscl sparse) (trapF 0x15)
  let sh := shapeOf o.shape.val
  let k := fullK a / sh.2.2
  let stored := if sparse then k / 2 else k
  let gs := [dataArg (s.x o.b) sh.1 stored c.astr a, dataArg (s.xAt o.b 1) sh.2.1 k c.bstr b] ++
    (if sparse then [auxArg (s.xAt o.b 2) sh.1 (k / 8) c.asstr] else []) ++
    (if !sparse && c.ascl then [auxArg (s.xAt o.b 2) sh.1 (k / 32) c.asstr] else []) ++
    (if !sparse && c.bscl then [auxArg (s.xAt o.b 3) sh.2.1 (k / 32) c.bsstr] else [])
  s.kilnChecks false 64 gs
  let r ← s.kilnEnter gs (s.kcmd (if sparse then .spmma z else .mma z) o.t (pegOf o) (sh.1, sh.2.1) k
    (mulOcc sh.1 sh.2.1 stored (fullK a)) (s.my.trigger 2).isSome)
  pure r.1.takeTile.retire

/-- R218 to R220. -/
def execKmma (k : KOp) (z : Bool) (s : State) : Ending := conclude s (kilnMul k z false s)
/-- R218 to R220. -/
def execKspmma (k : KOp) (z : Bool) (s : State) : Ending := conclude s (kilnMul k z true s)

/-- R218 to R223: operand A comes from source tiles through the down-converter; RNDCTR advances under SR. -/
def execKmmac (o : KOp) (src : Fin 4) (s : State) : Ending :=
  conclude s (do
    s.kilnHere o.shape.val 0 23 true
    let c := s.myCore.kcfgIssue
    let a := c.dtype.toNat
    let b := c.btype.toNat
    need ((decide (a = 8) && decide (b = 8 ∨ b = 13) && !c.bscl) || (is8 a && is8 b)) (trapF 0x15)
    let sh := shapeOf o.shape.val
    let k := fullK a / sh.2.2
    need (decide (src.val + k / 64 ≤ 4)) (trapF 0x15)
    let gs := [dataArg (s.x o.b) sh.2.1 k c.bstr b] ++
      (if c.bscl then [auxArg (s.xAt o.b 1) sh.2.1 (k / 32) c.bsstr] else [])
    s.kilnChecks false 64 gs
    let r ← s.kilnEnter gs (s.kcmd (.mmac src) o.t (pegOf o) (sh.1, sh.2.1) k (mulOcc sh.1 sh.2.1 k (fullK a))
      (s.my.trigger 2).isSome)
    let n := if c.drm = 5 then (sh.1 * k + 3) / 4 else 0
    pure ((r.1.takeTile).upd fun x => { x with csr := { x.csr with rndctr := x.csr.rndctr + BitVec.ofNat 64 n } }).retire)

/-- The type of `KLDA` and `KSTA`: f32 where none is written (07 R217). -/
def tileTy (ty : Option ETy) : Except Stop Bool :=
  match ty with
  | none => .ok true
  | some .f32 => .ok true
  | some .bf16 => .ok false
  | some _ => trapF 0x15

/-- KLDA and KSTA (07 R224). -/
def kilnMove (o : KOp) (ty : Option ETy) (store : Bool) (s : State) : Res := do
  s.kilnHere o.shape.val 0 8 true
  let f32 ← tileTy ty
  let sh := shapeOf o.shape.val
  let w := if f32 then 4 else 2
  let g : KArg := ⟨⟨s.x o.b, sh.1, sh.2.1 * w, (s.xAt o.b 1).toNat, 0⟩, some (if f32 then 7 else 8), store⟩
  s.kilnChecks (!store) (min 64 (sh.2.1 * w)) [g]
  let r ← s.kilnEnter [g] (s.kcmd (if store then .sta f32 else .lda f32) o.t (pegOf o) (sh.1, sh.2.1) 0
    (max 4 (sh.1 * sh.2.1 / 64)) false)
  pure r.1.retire

/-- R224. -/
def execKlda (k : KOp) (ty : Option ETy) (s : State) : Ending := conclude s (kilnMove k ty false s)
/-- R224. -/
def execKsta (k : KOp) (ty : Option ETy) (s : State) : Ending := conclude s (kilnMove k ty true s)
/-- R224. -/
def execKzero (o : KOp) (s : State) : Ending :=
  conclude s (do
    s.kilnHere o.shape.val 0 8 true
    let sh := shapeOf o.shape.val
    let r ← s.kilnEnter [] (s.kcmd .zero o.t (pegOf o) (sh.1, sh.2.1) 0 4 false)
    pure r.1.retire)

/-- The configuration of three words, where it is legal (07 R209). -/
def kcfgOf (w0 w1 w2 : Word) : Option KCfg :=
  let lim := fun (n : Nat) => decide (n < 0x100000)
  let ok := decide (bits w0 63 18 = 0) && !w0.getLsbD 15 && decide (bits w0 14 12 = 0 ∨ bits w0 14 12 = 5) &&
    decide (bits w0 11 8 = 8 ∨ bits w0 11 8 = 10 ∨ bits w0 11 8 = 11) &&
    [bits w1 63 32, bits w1 31 0].all (fun n => decide (n % 64 = 0) && lim n) && lim (bits w2 63 32) && lim (bits w2 31 0)
  if ok then
    some { bscl := w0.getLsbD 17, ascl := w0.getLsbD 16, drm := BitVec.ofNat 3 (bits w0 14 12),
           dtype := BitVec.ofNat 4 (bits w0 11 8), btype := BitVec.ofNat 4 (bits w0 7 4),
           atype := BitVec.ofNat 4 (bits w0 3 0), bstr := bits w1 63 32, astr := bits w1 31 0,
           bsstr := bits w2 63 32, asstr := bits w2 31 0 }
  else none

/-- R209: the issue-side copy changes at once, the queue's at completion. -/
def execKcfg (b : Reg) (_la : Fin 16) (s : State) : Ending :=
  conclude s (do
    s.kilnHere 0 0 0 true
    match kcfgOf (s.x b) (s.xAt b 1) (s.xAt b 2) with
    | none => trapF 0x15
    | some c => do
      let r ← s.kilnEnter [] (s.kcmd (.cfg c) 0 none (0, 0) 0 1 false)
      pure (r.1.updMine fun co => { co with kcfgIssue := c }).retire)

/-- R224, R225: the result is outstanding until the queue reaches the command. -/
def execKres (t : Reg) (clr : Bool) (la : Fin 16) (s : State) : Ending :=
  conclude s (do
    s.kilnHere 0 0 0 true
    let r ← s.kilnEnter [] (s.kcmd (.res (.reg (.x t)) clr) 0 none (0, 0) 0 1 false)
    let o : Out := { id := r.2, dest := .reg (.x t), gen := 0, due := none, pc := s.my.pc, acq := false, lines := [],
                     atomic := false }
    let w : Window := ⟨r.2, .x t, s.my.pc, la.val⟩
    pure ((r.1.upd fun x => { x with aux := { x.aux with outs := x.aux.outs ++ [o], windows := x.aux.windows ++ [w] } }).retire))

/-! ## Arbitration (07 R208, R226) -/

/-- A kiln, as after reset where none is listed. -/
def State.kiln (s : State) (k : Nat) : KilnSt := (aget s.sh.kilns k).getD ⟨7, 0, 0, 0⟩
def State.setKiln (s : State) (k : Nat) (x : KilnSt) : State := { s with sh := { s.sh with kilns := aset s.sh.kilns k x } }

/-- The tiles that a command reads from the accumulator store as operands. -/
def KCmd.sources (c : KCmd) : List Nat :=
  match c.kind with
  | .mmac src => (List.range (c.k / 64)).map fun i => src.val + i
  | .sta _ => [c.t.val]
  | _ => []
/-- The command writes its tile. -/
def KKind.writes : KKind → Bool
  | .mma _ | .mmac _ | .spmma _ | .lda _ | .zero => true
  | _ => false

/-- The oldest command that has not started, where it may start: its place (07 R208, R226). -/
def Core.kilnHead (co : Core) (cycle : Nat) : Option Nat :=
  match co.kq.findIdx? fun c => c.started.isNone with
  | none => none
  | some i => match co.kq[i]? with
    | none => none
    | some c =>
      let waits := co.kq.any fun d => d.started.isSome && d.kind.writes && c.sources.contains d.t.val
      if c.ready ≤ cycle && !waits then some i else none

/-- Words (place, length) of the elements of a tile of the accumulator store with row below `rows` and column below `cols`. -/
def accPlaces (k t rows cols : Nat) : List (Nat × Nat) := (List.range rows).map fun m => (Loc.acc k t (64 * m), 4 * cols)
/-- The source elements that a command reads from the accumulator store (07 R222, R224). -/
def KCmd.accReads (c : KCmd) (k : Nat) : List (Nat × Nat) :=
  match c.kind with
  | .mmac _ => c.sources.flatMap fun t => accPlaces k t c.m 64
  | .sta _ => accPlaces k c.t.val c.m c.n
  | _ => []
/-- The elements that a command adds to, as earlier commands left them (07 R218). -/
def KCmd.accAdds (c : KCmd) (k : Nat) : List (Nat × Nat) :=
  match c.kind with
  | .mma false | .spmma false | .mmac _ => accPlaces k c.t.val c.m c.n
  | _ => []

/-- The raw bytes of an operand's rows. -/
def State.rowRaws (s : State) (o : KOpnd) : List (Nat × Nat) :=
  (List.range o.rows).flatMap fun r =>
    match s.readVia (coreKey (coreOf o.a)) (winOf o.a) o.win (offOf o.a + r * o.stride) o.len with
    | some (_, rs) => rs
    | none => []
/-- Words of an operand's rows as they stand, with an error where a raw word is uncorrectable (07 R215, R228). -/
def State.readRows (s : State) (o : KOpnd) : List Nat × Bool :=
  let k := coreKey (coreOf o.a)
  let rows := (List.range o.rows).map fun r =>
    match s.readVia k (winOf o.a) o.win (offOf o.a + r * o.stride) o.len with
    | some (v, rs) => (v, rs.any fun q => (s.badWord (Loc.local_ k q.1) q.2).isSome)
    | none => (0, false)
  (rows.map (·.1), rows.any (·.2))

/-- A read range of a command lasts until a cycle. -/
def Range.lasts (r : Range) (id : Nat) (k : Key) (till : Option Nat) : Range :=
  if r.owner = .kiln id ∧ r.by_ = k.val ∧ !r.write then { r with till := till } else r
def State.setTill (s : State) (k : Key) (id : Nat) (till : Option Nat) : State :=
  { s with cores := s.cores.map fun e => (e.1, { e.2 with ranges := e.2.ranges.map fun r => r.lasts id k till }) }

/-- The command at a place of a queue starts: its operand rows are read, and their read locks end with its occupancy
(07 R215, R226); operands at a core that is being reset end it with 0x0B (17 R410). Correctable words are counted where they stand
(17 R415). -/
def State.kilnStart (s : State) (k : Key) (i : Nat) : State :=
  match (s.core k).kq[i]? with
  | none => s
  | some c =>
    let isStore := match c.kind with | .sta _ => true | _ => false
    let got := if isStore then [] else c.ops.map s.readRows
    let acc := !(s.badPlaces (c.accReads k.val)).isEmpty
    let err : Option (BitVec 8) := match c.err with
      | some e => some e
      | none =>
        if c.ops.any fun o => (s.core (coreKey (coreOf o.a))).resetting.isSome then some 0x0B
        else if acc || got.any (·.2) then some 0x21 else none
    let c' := { c with started := some s.cycle, got := got.map (·.1), err := err }
    let s := if isStore then s else c.ops.foldl (fun t o => t.countCe (coreKey (coreOf o.a)) (s.rowRaws o)) s
    let s := (s.countCeAt k (c.accReads k.val)).updCore k fun co => { co with kq := co.kq.set i c' }
    s.setTill k c.id (some (s.cycle + c.occ))

/-- The queue that R208 serves next, with `cur` and `used` after it. -/
def pickQueue (heads : List (Option Nat)) (weights : List Nat) (cur used : Nat) : Option (Nat × Nat × Nat) :=
  let full := fun (j : Nat) => ((heads.getD j none).isSome : Bool)
  if full cur && decide (used < weights.getD cur 1) then some (cur, cur, used + 1)
  else ((List.range 8).map fun d => (cur + d + 1) % 8).findSome? fun j => if full j then some (j, j, 1) else none

/-- R208: a start opportunity. -/
def evKilnStartOpportunity (kiln : Fin 512) (s : State) : Option State :=
  let z := s.kiln kiln.val
  if s.cycle < z.free then none else
  let ks := (List.range 8).map fun j => coreKey (coreAtSlot kiln.val j)
  let heads := ks.map fun k => if s.liveCore k then (s.core k).kilnHead s.cycle else none
  let weights := ks.map fun k => (s.core k).csr.kweight.toNat
  match pickQueue heads weights z.cur.val z.used with
  | none => none
  | some (j, cur, used) =>
    let k := coreKey (coreAtSlot kiln.val j)
    match heads.getD j none with
    | none => none
    | some i =>
      let occ := match (s.core k).kq[i]? with | some c => c.occ | none => 1
      some ((s.kilnStart k i).setKiln kiln.val { z with cur := Fin.ofNat 8 cur, used := used, free := s.cycle + occ })
def execKilnStartOpportunity (kiln : Fin 512) (s : State) : Ending := fire s (evKilnStartOpportunity kiln s)

/-! ## The arithmetic of a tile (01 R32, R33, R36, R37; 07 R218 to R224) -/

/-- Elements of a row as exact values. -/
def rowVals (ty n row : Nat) : List Val :=
  let t := (etyOf (if ty = 13 then 8 else ty)).getD .bf16
  (List.range n).map fun i => valueOf t (laneOf row t.width i)

/-- Values scaled by e8m0 bytes, one for 32 (01 R21). -/
def scaled (vs : List Val) (row : Nat) : List Val := vs.zipIdx.map fun v => mxValue v.1 (laneOf row 8 (v.2 / 32))

/-- Stored values spread to their positions (07 R219). -/
def spread4 (stored : List Val) (row : Nat) : List Val :=
  (groups 2 stored stored.length).zipIdx.flatMap fun g =>
    let nib := laneOf row 4 g.2
    let p0 := nib % 4
    let p1 := nib / 4
    (List.range 4).map fun i =>
      if p1 ≤ p0 then .nan
      else if i = p0 then g.1.getD 0 .nan
      else if i = p1 then g.1.getD 1 .nan
      else .fin false 0 0

/-- An element of an accumulator tile. -/
def State.accElem (s : State) (k : Key) (t m n : Nat) : Nat := s.sh.mem.read (Loc.acc k.val t (64 * m + n)) 4

/-- Element (m, k) of operand A of a `KMMAC`, down-converted (07 R222, R223). -/
def State.downElem (s : State) (key : Key) (c : KCmd) (src m k : Nat) : Val :=
  let t := (etyOf c.cfg.dtype.toNat).getD .bf16
  let v := fmtValue f32Fmt (s.accElem key (src + k / 64) m (k % 64))
  valueOf t (convert t (rmOf c.cfg.drm.toNat) (draw c.rndkey c.rndctr (m * c.k + k)) false v)

/-- Row m of operand A. -/
def State.rowA (s : State) (key : Key) (c : KCmd) (m : Nat) : List Val :=
  let row := fun (i : Nat) => (c.got.getD i []).getD m 0
  match c.kind with
  | .mmac src => (List.range c.k).map (s.downElem key c src.val m)
  | .spmma _ => spread4 (rowVals c.cfg.atype.toNat (c.k / 2) (row 0)) (row 2)
  | _ =>
    let v := rowVals c.cfg.atype.toNat c.k (row 0)
    if c.cfg.ascl then scaled v (row 2) else v

/-- Row n of operand B. -/
def KCmd.rowB (c : KCmd) (n : Nat) : List Val :=
  let row := fun (i : Nat) => (c.got.getD i []).getD n 0
  match c.kind with
  | .mmac _ =>
    let v := rowVals c.cfg.btype.toNat c.k (row 0)
    if c.cfg.bscl then scaled v (row 1) else v
  | .spmma _ => rowVals c.cfg.btype.toNat c.k (row 1)
  | _ =>
    let v := rowVals c.cfg.btype.toNat c.k (row 1)
    if c.cfg.bscl then scaled v (row (if c.cfg.ascl then 3 else 2)) else v

/-- An output element: chunks of 32 in ascending order (01 R32), with its unchecked terms (01 R37). -/
def element (acc : Nat) (a b : List Val) : Nat × Nat :=
  (groups 32 (a.zip b) a.length).foldl (fun r g => (chunk r.1 g, r.2 + unchecked g)) (acc, 0)

/-- The elements (row, column, code) that a tile writes, with its unchecked terms. -/
def State.tileResult (s : State) (key : Key) (c : KCmd) : List (Nat × Nat × Nat) × Nat :=
  let grid := fun (f : Nat → Nat → Nat) =>
    (List.range c.m).flatMap fun m => (List.range c.n).map fun n => (m, n, f m n)
  let mul := fun (z : Bool) =>
    let bs := (List.range c.n).map c.rowB
    let es := (List.range c.m).flatMap fun m =>
      let a := s.rowA key c m
      bs.zipIdx.map fun b =>
        let e := element (if z then 0 else s.accElem key c.t.val m b.2) a b.1
        (m, b.2, e.1, e.2)
    (es.map fun e => (e.1, e.2.1, e.2.2.1), (es.map fun e => e.2.2.2).foldl (· + ·) 0)
  match c.kind with
  | .mma z => mul z
  | .spmma z => mul z
  | .mmac _ => mul false
  | .lda f32 => (grid fun m n =>
      let row := (c.got.getD 0 []).getD m 0
      if f32 then laneOf row 32 n else convert .f32 .rne 0 false (valueOf .bf16 (laneOf row 16 n)), 0)
  | .zero => (grid fun _ _ => 0, 0)
  | _ => ([], 0)

/-- The accumulator elements written; their words are no longer in error where both elements are (17 R404). -/
def State.putTile (s : State) (k : Key) (t : Nat) (es : List (Nat × Nat × Nat)) : State :=
  let m := es.foldl (fun m e => m.write (Loc.acc k.val t (64 * e.1 + e.2.1)) 4 e.2.2) s.sh.mem
  let ws := es.map fun e => Loc.acc k.val t (64 * e.1 + e.2.1) / 8
  let keeps := fun (w : Nat) => decide ((ws.filter (· = w)).length < 2)
  { s with sh := { s.sh with mem := m, ue := s.sh.ue.filter keeps, ce := s.sh.ce.filter keeps } }

/-- The pieces of a `KSTA` at its owner: offset, length, value. -/
def State.staPieces (s : State) (k : Key) (c : KCmd) (f32 : Bool) : List (Nat × Nat × Nat) :=
  match c.ops with
  | o :: _ => (List.range c.m).flatMap fun m => (List.range c.n).map fun n =>
      let v := s.accElem k c.t.val m n
      let w := if f32 then 4 else 2
      (offOf o.a + m * o.stride + n * w, w, if f32 then v else convert .bf16 .rne 0 false (fmtValue f32Fmt v))
  | [] => []

/-! ## Completion and abandonment (07 R206, R207, R225 to R229) -/

/-- The first command of a queue, if its time has come: 40 cycles after its occupancy, a `KRES` one later (07 R225,
R226). -/
def State.kilnDone (s : State) (k : Key) : Option KCmd :=
  let p := s.part (s.partNo k)
  if !(p.live || p.state == .stopping) then none else
  match (s.core k).kq with
  | c :: _ =>
    let extra := match c.kind with | .res .. => 41 | _ => 40
    match c.started with
    | some t => if t + c.occ + extra ≤ s.cycle then some c else none
    | none => none
  | [] => none

/-- The command leaves its queue and releases its ranges. -/
def State.kilnLeave (s : State) (k : Key) (id : Nat) : State :=
  (s.releaseRanges (.kiln id) k).updCore k fun co => { co with kq := co.kq.filter fun c => c.id ≠ id }

/-- What a command's own run met: an operand in error is known at the start; a difference that the duplicate converter finds is 0x20, a
residue that differs 0x22 (17 Table 17.1). -/
def KCmd.failure (c : KCmd) : Option (BitVec 8) :=
  match c.err with
  | some e => some e
  | none => if c.flaw then some 0x20 else if c.inject || c.failAt.isSome then some 0x22 else none
/-- Why a command is abandoned: an element that it adds to may be in error too (07 R228, 17 Table 17.1). -/
def State.kilnFailure (s : State) (k : Key) (c : KCmd) : Option (BitVec 8) :=
  match c.err, s.badPlaces (c.accAdds k.val) with
  | none, _ :: _ => some 0x21
  | _, _ => c.failure

/-- R206, R207, R225. -/
def evTileComplete (k : Key) (s : State) : Option State :=
  match s.kilnDone k with
  | none => none
  | some c =>
    if (s.kilnFailure k c).isSome then none else
    let s := s.countCeAt k (c.accAdds k.val)
    let s := match c.kind with
      | .res .. => s
      | .cfg g => s.updCore k fun co => { co with kcfg := g }
      | .sta f32 => match c.ops with
        | o :: _ => s.putEngine (coreKey (coreOf o.a)) ⟨⟨s.device, k.val⟩, c.ctx, true⟩ (s.staPieces k c f32)
        | [] => s
      | _ =>
        let r := s.tileResult k c
        (s.putTile k c.t.val r.1).updCore k fun co =>
          { co with kterms := BitVec.ofNat 32 (min (co.kterms.toNat + r.2) 0xFFFFFFFF) }
    match c.kind with
    | .res .. => none
    | _ =>
      let s := s.kilnLeave k c.id
      some (match c.peg with
        | some g => s.pegDec k c.ctx g 3 c.pc
        | none => s)
def execTileComplete (c : Key) (s : State) : Ending := fire s (evTileComplete c s)

/-- R225: the count is written to x[T], and cleared where CLR is set. -/
def evKresResult (k : Key) (s : State) : Option State :=
  match s.kilnDone k with
  | none => none
  | some c => match c.kind with
    | .res d clr =>
      let n := (s.core k).kterms
      let s := (s.kilnLeave k c.id).updCore k fun co => { co with kterms := if clr then 0 else n }
      match d, (s.ctx k c.ctx).aux.outs.find? fun o => decide (o.id = c.id) with
      | .reg r, some o => some (s.settleResult k c.ctx o r (BitVec.ofNat 512 n.toNat))
      | _, _ => some s
    | _ => none
def execKresResult (c : Key) (s : State) : Ending := fire s (evKresResult c s)

/-- Commands of a context that satisfy a test are discarded: nothing completes, ranges are released, an outstanding `KRES`
result ends with no write (07 R228; log entry 69). -/
def State.kilnDiscard (s : State) (k : Key) (c : CtxNo) (p : KCmd → Bool) : State :=
  ((s.core k).kq.filter fun d => decide (d.ctx = c) && p d).foldl
    (fun s d => (s.kilnLeave k d.id).updCtx k c fun x => x.settle d.id) s

/-- At a rollback the commands of a context that have not started are discarded (07 R229), from a name on. No rollback cancels an
outstanding result (03 R79): that of a `KRES` is written then, and clears no count (log entry 105). -/
def State.kilnDrop (s : State) (k : Key) (c : CtxNo) (p : KCmd → Bool) : State :=
  ((s.core k).kq.filter fun d => decide (d.ctx = c) && p d).foldl (fun s d =>
    let t := s.kilnLeave k d.id
    match d.kind, (t.ctx k c).aux.outs.find? fun o => decide (o.id = d.id) with
    | .res (.reg r) _, some o => t.settleResult k c o r (BitVec.ofNat 512 (t.core k).kterms.toNat)
    | _, _ => t.updCtx k c fun x => x.settle d.id) s
def KCmd.dropped (since : Nat) (d : KCmd) : Bool := d.started.isNone && decide (since ≤ d.id)
def Core.kilnWaiting (co : Core) (c : CtxNo) (since : Nat) : Bool := co.kq.any fun d => decide (d.ctx = c) && d.dropped since

/-- A started tile of a context is not finished (07 R229). -/
def Core.kilnBusy (co : Core) (c : CtxNo) : Bool := co.kq.any fun d => decide (d.ctx = c) && d.started.isSome

/-- The first element that fails and its chunk: an injected mismatch is in chunk 0 of element (0, 0) (08 R258). -/
def KCmd.failsAt (c : KCmd) : Fin 4096 × Fin 32 := if c.inject then (0, 0) else c.failAt.getD (0, 0)
/-- XVALUE of an abandoned tile (07 R228). -/
def KCmd.failValue (c : KCmd) (cause : BitVec 8) : Word :=
  at_ c.pc.toNat 0 ||| at_ c.t.val 16 |||
    if cause = 0x22 then at_ c.failsAt.1.val 20 ||| at_ c.failsAt.2.val 32 else 0

/-- R228. RESMIS saturates (17 R415). -/
def evTileAbandon (k : Key) (s : State) : Option State :=
  match s.kilnDone k with
  | none => none
  | some c => match s.kilnFailure k c with
    | none => none
    | some cause =>
      let z := kilnOf k.val
      let s := if cause = 0x22 then s.setKiln z { s.kiln z with resmis := min ((s.kiln z).resmis + 1) 0xFFFFFFFF } else s
      let s := s.kilnLeave k c.id
      let s := s.kilnDiscard k c.ctx fun _ => true
      if (s.ctx k c.ctx).isRolling then some s
      else some (s.reportLater k c.ctx cause (some (c.failValue cause)) c.pc)
def execTileAbandon (c : Key) (s : State) : Ending := fire s (evTileAbandon c s)

/-- The command is abandoned without error and returns to the queue: what its run met is gone with it (07 R230). -/
def KCmd.again (c : KCmd) : KCmd := { c with started := none, got := [], err := none, flaw := false, failAt := none }
/-- A gang stop (07 R230): the tile whose operand reads have not ended returns to the head of its queue. -/
def State.kilnStop (s : State) (k : Key) : State :=
  (s.core k).kq.foldl (fun s c =>
    match c.started with
    | some t =>
      if t + c.occ ≤ s.cycle then s else
      let s := s.updCore k fun co => { co with kq := co.kq.map fun d =>
        if d.id = c.id then d.again else d }
      s.setTill k c.id none
    | none => s) s

end Sys2Proof.Machine
end

