-- ==== Sys2Proof/Machine/Sys.lean ====
section
/-! DEFINITION. Major 0: NOP, HALT, YIELD, TIME (04 R96 to R99), ERET, TRAP, SYSC, BREAK (08 R259 to R262). -/
namespace Sys2Proof.Machine
open Sys2Proof

/-- Every outstanding result of the context is written or replaced by a fault (04 R97). -/
def Ctx.settled (x : Ctx) : Bool := x.aux.outs.isEmpty

/-- R96: no effect. -/
def execNop (s : State) : Ending := conclude s (.ok s.retire)

/-- HALT in a slaved context ends the run once every follower has issued it (09 R271): with the last one those that waited
retire, and enter their histories (18 R420). Where the checker finds one of them wrong, it meets its cause and the others still wait
(04 R94). -/
def State.haltRun (s : State) (r : CourseRun) : State :=
  let s := s.park .runEnd
  let members := (List.range r.len).map fun d => coreKey (r.leader.val + d)
  let waits := fun (j : Key) => match (s.ctx j 0).run with
    | .parked .runEnd _ => true
    | _ => false
  if !members.all waits then s else
  match members.find? fun j => decide (j ≠ s.me) && (s.ctx j 0).faulty with
  | some j => s.blocked j 0
  | none =>
    let s := { s with sh := { s.sh with runs := s.sh.runs.filter fun q => q.leader ≠ r.leader } }
    (members.foldl (fun s j =>
      let s := if j = s.me then s else s.addHist j 0 (s.ctx j 0).pc (s.core j).logHead s.m.nextId false
      s.becomeIdle j 0) s).setFate .retired

/-- R97; a recon context that a debug stop of scope 2 waits for stops here (18 R418). -/
def halt (s : State) : Res := do
  let x := s.my
  if x.depth ≠ 0 || x.csr.txbody then trapF 0x10
  if !x.settled then stall
  match (if s.slaved s.me s.cc then s.runOf s.me else none) with
  | some r => pure (s.haltRun r)
  | none =>
    let t := s.endRecon s.me s.cc
    if x.aux.recon.isSome && x.aux.dbg.want == some 2 then pure ((t.debugStop s.me s.cc 2).setFate .retired)
    else pure ((t.becomeIdle s.me s.cc).setFate .retired)

def execHalt (s : State) : Ending := conclude s (halt s)

/-- R98: the selector passes the context over in the next cycle. -/
def execYield (s : State) : Ending :=
  conclude s (.ok ((s.updMine fun co => { co with sel := { co.sel with yielded := some (s.cc, s.cycle) } }).retire))

/-- R99: a value the timestamp counter held between issue and retirement (t+4 at the earliest use, so at most 2 ns later;
log entry 15). -/
def execTime (a : Reg) (s : State) : Ending :=
  conclude s (do
    let v := s.now + Config.pick s.m.freeCtr % 3
    let s' ← ({ s with m := { s.m with freeCtr := s.m.freeCtr + 1 } }).setX a (BitVec.ofNat 64 v)
    pure s'.retire)

/-- R262. -/
def execEret (s : State) : Ending := conclude s s.eret

/-- TRAP, SYSC and BREAK retire and then raise their cause, with XPC their successor (08 R259, R261). -/
def State.software (s : State) (cause : BitVec 8) (code : BitVec 8) : State :=
  (s.retire.deliver s.me s.cc cause (at_ code.toNat 0) s.succ s.my.pc).setFate .raised

def execTrap (c : BitVec 8) (s : State) : Ending := conclude s (.ok (s.software 0x17 c))
def execSysc (c : BitVec 8) (s : State) : Ending := conclude s (.ok (s.software 0x18 c))

/-- R259; with TRCTL.BRKHALT in debug mode a debug stop before the BREAK (18 R419), which DGO with SKIP = 1 passes. -/
def execBrk (c : BitVec 8) (s : State) : Ending :=
  conclude s (.ok (
    if s.my.aux.dbg.skip then
      (s.upd fun x => { x with aux := { x.aux with dbg := { x.aux.dbg with skip := false } } }).retire
    else if s.myCore.csr.trctl.getLsbD 62 && s.debug s.me then (s.debugStop s.me s.cc 0).setFate .quiet
    else s.software 0x16 c))

end Sys2Proof.Machine
end

