-- ==== Sys2Proof/Machine/Sync.lean ====
section
/-! DEFINITION. Major 23 (08 R234 to R241): pegs, barriers, domains, fences; the events that release barriers and wake
waiting instructions (09 R272 to R280). -/
namespace Sys2Proof.Machine
open Sys2Proof

/-! ## Pegs -/

/-- A 64-bit result that a peg can hold: 0 to 2^31 − 1 (08 R235). -/
def setPeg (g : Reg8) (n : Word) (s : State) : Res := do
  if 2 ^ 31 ≤ n.toNat then trapV 0x09 (at_ g.val 0)
  pure (s.upd fun x => x.putG g (BitVec.ofNat 32 n.toNat)).retire

/-- R235. -/
def execPegset (g : Reg8) (b : Reg) (imm : Nat) (s : State) : Ending :=
  conclude s (setPeg g (s.x b + BitVec.ofNat 64 imm) s)
/-- R235. -/
def execPegadd (g : Reg8) (b : Reg) (imm : Int) (s : State) : Ending :=
  conclude s (setPeg g ((s.my.g g).setWidth 64 + s.x b + BitVec.ofInt 64 imm) s)

/-- R236. -/
def execWait (g : Reg8) (s : State) : Ending :=
  conclude s (.ok (if s.my.g g = 0 then s.retire else s.park (.peg g)))

/-- The choice of R237: the first masked zero peg from the start pointer, among those of a test. -/
def Ctx.anyPeg (x : Ctx) (m : BitVec 8) (ok : Fin 8 → Bool) : Option (Fin 8) :=
  ((List.range 8).map fun d => Fin.ofNat 8 (x.aux.startPtr.val + d)).find? fun i =>
    m.getLsbD i.val && decide (x.g i = 0) && ok i

/-- `WAITANY` found a peg: x[A] and the start pointer. -/
def State.takePeg (s : State) (a : Reg) (i : Fin 8) : Res := do
  let s' ← s.setX a (at_ i.val 0)
  pure (s'.upd fun x => { x with aux := { x.aux with startPtr := i + 1 } })

/-- R237; a mask of 0 is illegal (R232). -/
def execWaitany (a : Reg) (m : BitVec 8) (s : State) : Ending :=
  conclude s (do
    if m = 0 then s.illegalIn 0
    match s.my.anyPeg m (fun _ => true) with
    | some i => do
      let s' ← s.takePeg a i
      pure s'.retire
    | none => pure (s.park (.mask a m)))

/-! ## Domains and barriers (08 R238, R239; 09 R272, R273) -/

/-- R238: DMn and then BRECTn, as two CSR writes; stalls while an arrival of the level is unreleased. -/
def execDomset (n : Fin 4) (b : Reg) (s : State) : Ending :=
  conclude s (do
    if !s.isSup then trapV 0x02 s.baseWord
    if (s.myCore.bars[n]).isSome then stall
    let s1 ← s.csrWriteI (Fin.ofNat 512 (0x104 + n.val)) (s.x b)
    let s2 ← s1.csrWriteI (Fin.ofNat 512 (0x108 + n.val)) (s.xAt b 1)
    pure s2.retire)

/-- The rectangle of a core's domain at a level. -/
def Core.rect (co : Core) (n : Fin 4) : Nat × Nat × Nat × Nat := brectOf co.csr.brect[n]
/-- The core lies in a rectangle that holds one. -/
def inRect (r : Nat × Nat × Nat × Nat) (c : Nat) : Bool :=
  decide (r.1 ≤ rowOf c ∧ rowOf c < r.1 + r.2.2.1 ∧ r.2.1 ≤ colOf c ∧ colOf c < r.2.1 + r.2.2.2)

/-- R239: the core arrives; with SS the paths must be idle first (09 R274), and where a debug stop of scope 1 is asked for the
context issues nothing before the release, at which it stops (18 R418). -/
def execBar (n : Fin 4) (g : Reg8) (ss : Bool) (s : State) : Ending :=
  conclude s (do
    let co := s.myCore
    if isHod s.me || !(co.csr.dm[n]).getLsbD 63 || !inRect (co.rect n) s.me.val then s.illegal
    s.noBody
    s.irrevocably fun s => do
      if (s.myCore.bars[n]).isSome || (ss && (!s.my.aux.posted.isEmpty || s.postWaiting s.me s.cc)) then stall
      let (id, s) := s.freshId
      let a : Arrival := ⟨id, s.cc, g, ss, s.pclk s.me, s.succ, none⟩
      let t := (s.updMine fun co => { co with bars := co.bars.set n (some a) }).retire
      pure (if ss && t.my.aux.dbg.want == some 1 then t.upd fun x => { x with run := .parked .release s.succ } else t))

/-- The arrivals of every core of a rectangle at a level, in the order of `rectKeys`, where all have arrived with one
domain; an arrival whose release is on its way belongs to the sweep before. -/
def State.arrivals (s : State) (k : Key) (n : Fin 4) : Option (List Arrival) :=
  let co := s.core k
  (rectKeys (co.rect n)).mapM fun j =>
    let d := s.core j
    if s.partNo j = s.partNo k ∧ (d.csr.dm[n]).setWidth 16 = (co.csr.dm[n]).setWidth 16 ∧ d.csr.brect[n] = co.csr.brect[n] then d.bars[n].filter (fun a => a.rel.isNone) else none

/-- When a hop that begins at a cycle ends: after 2 cycles, of which a gang stop in its middle costs it the first (R273). `stops`
are the running cycles at which the partition was stopped, ascending. -/
def hopEnd (stops : List Nat) (e : Nat) : Nat := stops.foldl (fun t c => if t < c ∧ c < t + 2 then c else t) e + 2
/-- n hops, one after another. -/
def hops (stops : List Nat) : Nat → Nat → Nat
  | 0, e => e
  | n + 1, e => hops stops n (hopEnd stops e)

/-- E(r, ·) of R273 for one row, from its last column back: the combined signals, first column first. -/
def sweepRow (stops : List Nat) : List Nat → List Nat
  | [] => []
  | a :: r => match sweepRow stops r with
    | [] => [a]
    | e :: t => max a (hopEnd stops e) :: e :: t

/-- Tc of R273: rows in ascending order, each given by its arrivals. -/
def sweepCol (stops : List Nat) (rows : List (List Nat)) : Nat :=
  ((rows.foldl fun (c : Option Nat) r => match sweepRow stops r, c with
    | e :: _, some t => some (max e (hopEnd stops t))
    | e :: _, none => some e
    | [], _ => c) none).getD 0

/-- The release cycles of the cores of a rectangle, in the order of `rectKeys` (09 R273). -/
def releases (stops : List Nat) (rows cols : Nat) (as : List Nat) : List Nat :=
  let tc := match groups cols as as.length with
    | [] => 0
    | r :: t => sweepCol stops (r :: t)
  (List.range (rows * cols)).map fun i => hops stops ((rows - 1 - i / cols) + i % cols) (tc + 1)

/-- The superstep frame of a context (09 R278). -/
def Ctx.openSs (x : Ctx) (pc : PC) (n : Fin 4) (rect : Nat × Nat × Nat × Nat) (marker : Nat) (num : BitVec 16)
    (since : Nat) : Ctx :=
  let f : SsFrame := { x := x.regs.x, p := x.regs.p, mode := x.csr.mode, rndctr := x.csr.rndctr, pc := pc, level := n,
                       rect := rect, marker := marker, num := num, recov := true, since := since }
  { x with aux := { x.aux with ss := some f },
           csr := { x.csr with sscount := x.csr.sscount + 1, ssunrec := false } }

/-- The supersteps of other contexts of the core at the level are over (09 R274), and SSUNREC with them (11 R323). -/
def Core.endSs (co : Core) (c : CtxNo) (n : Fin 4) : Core :=
  allCtx.foldl (fun co d => if d = c then co else co.updCtx d fun x =>
    match x.aux.ss with
    | some f => if f.level = n then { x with aux := { x.aux with ss := none }, csr := { x.csr with ssunrec := false } } else x
    | none => x) co

/-! ## Debug stops (18 R418) -/

/-- A waiting instruction is abandoned with no effect: its request's answer will be discarded (18 R418, 08 R233). -/
def Ctx.abandonWait (x : Ctx) : Ctx :=
  match x.run with
  | .parked .trecon _ =>
    let y := x.bumpGen .trecon
    { y with run := .running, aux := { y.aux with outs := y.aux.outs.filter fun o => o.dest ≠ .trecon } }
  | .parked _ _ => { x with run := .running, aux := { x.aux with far := none } }
  | _ => x

/-- The context may stop at once: it stands at an instruction boundary or waits. A commit and a run's end are awaited. -/
def Ctx.stopsNow (x : Ctx) : Bool :=
  match x.run with
  | .running => true
  | .parked w _ => (match w with | .commit | .runEnd => false | _ => true)
  | _ => false

/-- The member of a course-fetch run that a stop takes out of a waiting instruction executes it again: a leader without forwarding it
once more (R418, 09 R269). -/
def State.redoes (s : State) (k : Key) (c : CtxNo) : State :=
  match (s.ctx k c).run with
  | .parked .. => if !s.slaved k c then s else
    let again := fun (r : CourseRun) =>
      if r.has k then { r with again := (k.val - r.leader.val) :: r.again.filter (· ≠ k.val - r.leader.val) } else r
    { s with sh := { s.sh with runs := s.sh.runs.map again } }
  | _ => s

/-- A debug stop is taken: a waiting instruction is abandoned, and the stop lands at it (R418). -/
def State.takeStop (s : State) (k : Key) (c : CtxNo) (scope : Fin 3) : State :=
  ((s.redoes k c).updCtx k c Ctx.abandonWait).debugStop k c scope

/-- A stop of scope 1 lands at a release with SS = 1: before the successor of the `BAR` has issued where the context has waited for the
release, and else before the next instruction of a context that had arrived when the stop was asked for (R418; log entry 123). -/
def State.stopAtRelease (s : State) (k : Key) (c : CtxNo) : State :=
  let x := s.ctx k c
  match x.run with
  | .parked .release _ => s.debugStop k c 1
  | _ =>
    if x.aux.dbg.want ≠ some 1 then s
    else if x.stopsNow then s.takeStop k c 1
    else s.updCtx k c fun x => { x with aux := { x.aux with dbg := { x.aux.dbg with want := some 0 } } }

/-- The effects of a release at a core, in the order of R239; with SS the rollback count of 17 R406 ends, no reverse step goes
back before the `BAR` (18 R422), and a debug stop of scope 1 follows (18 R418). -/
def State.releaseAt (s : State) (k : Key) (n : Fin 4) (a : Arrival) : State :=
  let rect := (s.core k).rect n
  let s := s.updCore k fun co => { co with bars := co.bars.set n none }
  let s := s.pegDec k a.ctx a.peg 4 (s.ctx k a.ctx).pc
  let s := s.updCtx k a.ctx fun x => { x with aux := { x.aux with slotClock := some (.counts (s.pclk k)) } }
  if a.ss then
    let r := s.openWindowE k a.ctx 3
    let s := r.1.updCtx k a.ctx fun x => (x.openSs a.succ n rect r.2.1 r.2.2 s.m.nextId).updHist a.name fun h => { h with irrev := true }
    let s := (s.updCore k fun co => { (co.endSs a.ctx n) with ssRolls := 0 }).flyClear k a.ctx 8
    (s.trace k a.ctx 4 a.succ 0 0).stopAtRelease k a.ctx
  else s

/-- R239, R273: once all have arrived the release cycles are fixed, and at its cycle a core is released. -/
def evBarrierRelease (k : Key) (n : Fin 4) (s : State) : Option State :=
  if !s.liveCore k then none else
  match (s.core k).bars[n] with
  | none => none
  | some a =>
    match a.rel with
    | some t => if t ≤ s.pclk k then some (s.releaseAt k n a) else none
    | none =>
      match s.arrivals k n with
      | none => none
      | some as =>
        let r := (s.core k).rect n
        some (((rectKeys r).zip (releases (s.part (s.partNo k)).stops r.2.2.1 r.2.2.2 (as.map (·.at_)))).foldl (fun s e =>
          s.updCore e.1 fun co => { co with bars := co.bars.set n ((co.bars[n]).map fun b => { b with rel := some e.2 }) }) s)
def execBarrierRelease (c : Key) (level : Fin 4) (s : State) : Ending := fire s (evBarrierRelease c level s)

/-! ## Fences (08 R240, R241, 10 R296) -/

/-- An owner lies in a scope of a core (03 Table 3.4). -/
def State.inScope (s : State) (k : Key) (sc : Scope) (o : Owner) : Bool :=
  match sc with
  | .dom => true
  | .pkg => decide (o.dev = s.device)
  | .pal => decide (o.dev = s.device) && (if isHod k then decide (o.key = k.val)
      else decide (o.key < 4096 ∧ palletOf o.key = palletOf k.val))
  | .core => decide (o = ⟨s.device, k.val⟩)

/-- Every earlier posted operation, remote load and atomic of a context within a scope is complete: deferred ones count once their region
has released them (log entry 136). -/
def State.fenceDone (s : State) (k : Key) (c : CtxNo) (sc : Scope) : Bool :=
  let x := s.ctx k c
  let inside := s.inScope k sc
  !(x.aux.posted.any fun p => p.lines.any fun l => inside l.1) &&
  !(x.aux.outs.any fun o => o.isRemote && o.lines.any fun l => inside l.1) &&
  !((s.core k).injq.any fun r => decide (r.ctx = c) && !r.left && r.op.isPost && (s.owners r.op).any inside) &&
  !(x.aux.deferred.any fun d => decide (d.depth = 0) && d.req.op.isPost && (s.owners d.req.op).any inside)

/-- The leaves under which a far end of a request lies: those of its pages where it has begun, else those that a translation gives
now (15 R366). -/
def State.leavesOf (s : State) (r : Req) (pages : List Leaf) (e : End) : List Leaf :=
  if pages.isEmpty then (match (s.transEnds r false [e]).2 with
    | .ok l => l
    | .error _ => [])
  else pages

/-- A hod owns a byte of the far rows of a request's end (10 R288, Table 10.3). -/
def State.farIn (s : State) (k : Key) (r : Req) (pages : List Leaf) (e : End) : Bool :=
  isHod k && e.blocks.any fun b => match leafFor (s.leavesOf r pages e) b.2 with
    | some l => decide (hodKey (s.blockOwner (s.part r.part) l.entry b.2) = k)
    | none => false

/-- An end of a transfer lies in a scope: a slice by its owner, far memory by the hods that own its blocks. -/
def State.endIn (s : State) (k : Key) (sc : Scope) (r : Req) (pages : List Leaf) (e : End) : Bool :=
  if isSlice e.a then s.inScope k sc (s.owner e.a) else (match sc with | .dom | .pkg => true | _ => s.farIn k r pages e)

/-- A copy writes into a scope: its destination, or META where that is written. -/
def State.copyIn (s : State) (k : Key) (sc : Scope) (r : Req) (pages : List Leaf) (d : CopyDesc) : Bool :=
  d.dsts.isSome || d.ends.any fun e => e.write && s.endIn k sc r pages e

/-- A request of a context for an engine, within a scope. -/
def State.engineReq (s : State) (k : Key) (c : CtxNo) (sc : Scope) (r : Req) (pages : List Leaf := []) : Bool :=
  decide (r.dev = s.device ∧ r.src = k ∧ r.ctx = c) && r.host.isNone && (match r.op with
    | .copy d => s.copyIn k sc r pages d
    | .cfetch .. => true
    | _ => false)

/-- Every engine operation that a context started, within a scope, is complete. -/
def State.enginesDone (s : State) (k : Key) (c : CtxNo) (sc : Scope) : Bool :=
  let co := s.core k
  !(co.injq.any fun r => s.engineReq k c sc r) &&
  !(s.sh.fabric.any fun m => match m with | .req r _ _ => s.engineReq k c sc r | _ => false) &&
  !(s.sh.copies.any fun p => s.engineReq k c sc p.req p.pages) &&
  !(s.sh.fetches.any fun f => s.engineReq k c sc f.req) &&
  !((co.ctx c).aux.deferred.any fun d => decide (d.depth = 0) && s.engineReq k c sc d.req) &&
  !(co.strms.toList.any fun t => match t with
    | some t => t.write && decide (t.ctx = c) && !t.buf.isEmpty
    | none => false) &&
  !(co.kq.any fun d => decide (d.ctx = c) && (match d.kind, d.ops with
    | .sta _, o :: _ => s.inScope k sc (s.owner o.a)
    | _, _ => false))

/-- A fence may retire. -/
def State.fenceReady (s : State) (k : Key) (c : CtxNo) (sc : Scope) (all : Bool) : Bool :=
  s.fenceDone k c sc && (!all || s.enginesDone k c sc)

/-- An unreported refusal is reported by the executing instruction, and the record cleared (06 R188). -/
def State.reportRefusal (s : State) : State := (s.upd Ctx.clearRef).raise 0x0B (some s.my.refValue)

/-- FENCE and FENCEA (08 R240, R241). -/
def fence (sc : Scope) (all : Bool) (s : State) : State :=
  if !s.fenceReady s.me s.cc sc all then s.park (if all then .fencea sc else .fence sc)
  else if s.my.aux.refPc.isSome then s.reportRefusal
  else s.retire

/-- R240. -/
def execFence (sc : Scope) (s : State) : Ending := conclude s (.ok (fence sc false s))
/-- R241. -/
def execFencea (sc : Scope) (s : State) : Ending := conclude s (.ok (fence sc true s))

/-- R240, R241: the wait of a fence ends: it reports a refusal, or retires. -/
def evFenceRetire (k : Key) (c : CtxNo) (s : State) : Option State :=
  let done := match (s.ctx k c).run with
    | .parked (.fence sc) _ => s.fenceReady k c sc false
    | .parked (.fencea sc) _ => s.fenceReady k c sc true
    | _ => false
  if !done || !s.liveCore k then none
  else if (s.ctx k c).aux.refPc.isSome then
    let t := ((s.as_ k c).upd fun x => { x with run := .running }).reportRefusal
    some { t with m := { t.m with cur := s.m.cur } }
  else some (s.wake k c)
def execFenceRetire (c : Key) (k : CtxNo) (s : State) : Ending := fire s (evFenceRetire c k s)

/-- A parked `WAITANY` retires with the peg it found. -/
def State.wakeAny (s : State) (k : Key) (c : CtxNo) (a : Reg) (i : Fin 8) (succ : PC) : State :=
  let x := s.ctx k c
  let t := (s.as_ k c).upd fun x => { x with run := .running }
  let u := match t.takePeg a i with
    | .ok u => (u.addHist k c x.pc (s.core k).logHead s.m.nextId false).jump (if s.follower k c then x.pc else succ)
    | .error (.trap f w) => t.raise f w
    | .error (.full co w) => (t.setLogged k (t.myCore.madeRoom co)).raise 0x12 w
    | .error _ => t
  { u with m := { u.m with cur := s.m.cur } }

/-- R236, R237, R179: a parked `WAIT`, `WAITANY` or `WAITMSG` finds what it waits for, and retires: on a peg no earlier than
the cycle after the change that made it zero. -/
def evWaitWake (k : Key) (c : CtxNo) (s : State) : Option State :=
  let x := s.ctx k c
  if !s.liveCore k then none else
  match x.run with
  | .parked (.peg g) _ => if x.g g = 0 ∧ x.aux.wakeAt[g] ≤ s.cycle then some (s.wake k c) else none
  | .parked (.mask a m) succ =>
    (x.anyPeg m fun i => decide (x.aux.wakeAt[i] ≤ s.cycle)).map fun i =>
      if x.faulty then s.wake k c else s.wakeAny k c a i succ
  | .parked .msg _ => if (s.core k).rq.isEmpty then none else some (s.wake k c)
  | _ => none
def execWaitWake (c : Key) (k : CtxNo) (s : State) : Ending := fire s (evWaitWake c k s)

end Sys2Proof.Machine
end

