-- ==== Sys2Proof/Machine/Region.lean ====
section
/-! DEFINITION. Recovery regions (08 R249 to R253): RBEG, RPRS, REND, RXIT; the rollbacks of regions, bodies and supersteps
(11 R324 to R333, 09 R279, R283). -/
namespace Sys2Proof.Machine
open Sys2Proof

/-! ## Instructions -/

/-- R249; an offset of 0 is illegal (R232); 0x10 at depth 8 and in a slaved context (09 R271). -/
def execRbeg (off : Int) (irv : Bool) (s : State) : Ending :=
  conclude s (do
    if off = 0 then s.illegalIn 0
    if 8 ≤ s.my.depth || s.slaved s.me s.cc then trapF 0x10
    let x := s.my
    let (t, marker, num) ← s.openWindow s.me s.cc 0
    let f : Frame := { x := x.regs.x, p := x.regs.p, pc := x.pc, handler := relTarget x.pc off, mode := x.csr.mode,
                       rndctr := x.csr.rndctr, irv := irv, isSealed := false, unrec := false, retry := 0, marker := marker,
                       num := num, cls := none, since := s.m.nextId, vs := [], tiles := [], strms := [], pegs := none }
    let t := t.flyClear s.me s.cc (Fin.ofNat 10 s.my.depth)
    pure (t.upd fun x => { x with csr := { x.csr with rgretry := 0 }, aux := { x.aux with frames := f :: x.aux.frames } }).retire)

/-- Pool space of a frame (08 Table 8.6). -/
def Frame.space (f : Frame) : Nat :=
  64 * f.vs.length + 16384 * f.tiles.length + 64 * f.strms.length + (if f.pegs.isSome then 64 else 0)
/-- Pool space in use on a core, of 64 KiB (02 R45). -/
def Core.poolUsed (co : Core) : Nat :=
  (allCtx.map fun c => ((co.ctx c).aux.frames.map Frame.space).foldl (· + ·) 0).foldl (· + ·) 0

/-- An item saved again in place, or newly. -/
def saveItem {α β : Type} [DecidableEq α] (l : List (α × β)) (a : α) (b : β) : List (α × β) :=
  l.filter (fun e => e.1 ≠ a) ++ [(a, b)]

/-- The bits of a mask below n. -/
def maskBits (w : Word) (n : Nat) : List Nat := (List.range n).filter fun i => w.getLsbD i

/-- An accumulator tile as saved. -/
def State.tile (s : State) (k : Key) (t : Nat) : BitVec 131072 := BitVec.ofNat 131072 (s.sh.mem.read (Loc.acc k.val t 0) 16384)
/-- The same, and whether it is in error. -/
def State.savedTile (s : State) (k : Key) (t : Nat) : BitVec 131072 × Bool :=
  (s.tile k t, !(s.badPlaces [(Loc.acc k.val t 0, 16384)]).isEmpty)
/-- The places of the masked tiles of the executing core in the byte store. -/
def State.tilePlaces (s : State) (w : Word) : List (Nat × Nat) :=
  (maskBits w 4).map fun i => (Loc.acc s.me.val i 0, 16384)

/-- The frame with the items of an `RPRS` (08 R250). -/
def State.saveItems (s : State) (kind : Fin 4) (w : Word) (f : Frame) : Frame :=
  match kind.val with
  | 0 => (maskBits w 32).foldl (fun f i => { f with vs := saveItem f.vs (Fin.ofNat 32 i) (s.v (Fin.ofNat 32 i)) }) f
  | 1 => (maskBits w 4).foldl (fun f i => { f with tiles := saveItem f.tiles (Fin.ofNat 4 i) (s.savedTile s.me i) }) f
  | 2 => (maskBits w 8).foldl (fun f i =>
      { f with strms := saveItem f.strms (Fin.ofNat 8 i) (s.strm s.me (Fin.ofNat 8 i)) }) f
  | _ => (maskBits w 8).foldl (fun f i =>
      { f with pegs := some (saveItem (f.pegs.getD []) (Fin.ofNat 8 i) (s.my.g (Fin.ofNat 8 i))) }) f

/-- A masked stream is held by another context. -/
def State.strmForeign (s : State) (w : Word) : Bool :=
  (maskBits w 8).any fun i => (match s.strm s.me (Fin.ofNat 8 i) with
    | some t => decide (t.ctx ≠ s.cc)
    | none => false) || (s.isLink (Fin.ofNat 8 i) && decide (s.myCore.linkBy ≠ some s.cc))

/-- The words of the accumulator store that a save of tiles reads are counted where they are in error (17 R403, R415). -/
def State.countTiles (s : State) (w : Word) : State :=
  (s.countCeAt s.me (s.tilePlaces w)).countUe s.me (s.badPlaces (s.tilePlaces w)).length

/-- R250: the pool is tested before the streams; a tile is saved only after the earlier commands that write it, and one in error is
saved as one in error (17 R404; log entry 142). -/
def execRprs (kind : Fin 4) (b : Reg) (s : State) : Ending :=
  conclude s (
    match s.my.aux.frames with
    | [] => trapF 0x10
    | f :: rest => do
      let w := s.x b
      let g := s.saveItems kind w f
      if 65536 < s.myCore.poolUsed - f.space + g.space then trapF 0x10
      if kind = 2 && s.strmForeign w then trapF 0x08
      if kind = 1 && (s.myCore.kq.any fun d => d.kind.writes && w.getLsbD d.t.val) then stall
      let t := if kind = 1 then s.countTiles w else s
      pure (t.upd fun x => { x with aux := { x.aux with frames := g :: rest } }).retire)

/-- The context without its innermost frame: RGRETRY and the issue class follow (08 R251, R252). -/
def Ctx.popFrame (x : Ctx) : Ctx :=
  match x.aux.frames with
  | [] => x
  | f :: r =>
    let n := (r.head?.map (·.retry)).getD 0
    let k := f.cls.getD x.csr.cls
    { x with aux := { x.aux with frames := r }, csr := { x.csr with rgretry := n, cls := k } }

/-- Deferred operations take the enclosing depth; at depth 0 they are released (11 R326). -/
def Ctx.retag (x : Ctx) (d : Nat) : Ctx :=
  { x with aux := { x.aux with deferred := x.aux.deferred.map fun e => { e with depth := min e.depth d } } }

/-- R252. Where the log has no room for the marker (11 R329) the region stays open, and its window retained (11 R328). -/
def execRend (s : State) : Ending :=
  conclude s (
    match s.my.aux.frames with
    | [] => trapF 0x10
    | f :: rest => do
      if !s.my.settled || (s.myCore.kq.any fun d => decide (d.ctx = s.cc ∧ f.since ≤ d.id)) then stall
      if s.my.aux.refPc.isSome then pure s.reportRefusal
      else
        let t := s.upd fun x => x.popFrame.retag rest.length
        match t.openWindow s.me s.cc 1, s.openWindow s.me s.cc 1 with
        | .ok r, _ => pure r.1.retire
        | .error (.full _ v), .error (.full co _) => .error (.full co v)
        | .error e, _ => .error e)

/-- An error at the next enclosing level (08 R253, 11 Table 11.8). -/
def State.escalate (s : State) (k : Key) (c : CtxNo) (cause : BitVec 8) (pc spc : PC) : State :=
  match s.level k c with
  | .region => s.updCtx k c fun x => x.beginRoll (.region cause)
  | .body => s.updCtx k c fun x => x.beginRoll (.body cause)
  | .superstep => s.beginSs k c cause
  | .fatal => (s.partFatal (s.partNo k) (some k) c.val cause 0 spc).stopHere k c
  | .vector => let w := s.freeWord; w.2.vector k c cause w.1 pc spc

/-- R253: the cause it raises leaves the unchosen count (09 R265). -/
def execRxit (s : State) : Ending :=
  conclude s (
    if s.my.depth = 0 then trapF 0x10 else
      let d := s.my.depth
      let t := ((s.dropDeferred s.me s.cc fun e => decide (e.depth = d)).upd Ctx.popFrame).retire
      let g := BitVec.ofNat 8 s.my.csr.rgcause.toNat
      .ok ((t.escalate s.me s.cc (if s.my.csr.rgcause = 0 then 0x17 else g) s.succ s.my.pc).setFate .raised))

/-! ## Replay (11 R325, R332) -/

/-- One entry undone by a device write (11 R325). -/
def State.undoEntry (s : State) (k : Key) (e : LogEntry) : State :=
  match e.kind with
  | .slice _ _ _ _ _ off => s.putRaw k [(off.toNat, 8, e.old.toNat)]
  | .csr c i => s.csrPut k c i.val e.old
  | _ => s

/-- Uncorrectable words met in a replay or a restore of a context are counted (17 R415), and partition-fatal (17 R407; log entry
106). -/
def State.fatalAt (s : State) (k : Key) (c : CtxNo) (bad : Nat) : State :=
  if bad = 0 then s else (s.countUe k bad).partFatal (s.partNo k) (some k) c.val 0x21 0 (s.ctx k c).pc

/-- The log replayed backwards to a marker: each entry that a test takes is undone and made void, but for one that cannot be
read. -/
def State.replay (s : State) (k : Key) (c : CtxNo) (marker : Nat) (take : LogKind → Bool) : State :=
  let co := s.core k
  let es := (co.log.take (co.logHead - marker)).zipIdx.map fun e => (e.1, co.logUe.contains (co.logHead - 1 - e.2))
  let s := es.foldl (fun s e => if take e.1.kind && !e.2 then s.undoEntry k e.1 else s) s
  let done := es.map fun e => if take e.1.kind then { e.1 with kind := .void, old := 0 } else e.1
  (s.updCore k fun co => { co with log := done ++ co.log.drop es.length }).fatalAt k c (es.filter (·.2)).length

/-- A part of the fly store of a context is read to restore it (02 R45, 17 R407). -/
def State.flyRead (s : State) (k : Key) (c : CtxNo) (i : Fin 10) : State :=
  s.fatalAt k c (if (s.core k).flyUe.contains (c, i) then 1 else 0)

/-- Entries of a context's own local writes (11 R325 step 3). -/
def LogKind.ownOf (c : CtxNo) : LogKind → Bool
  | .slice d remote _ _ _ _ => decide (d = c) && !remote
  | .csr d _ => decide (d = c)
  | _ => false

/-- Entries that a superstep rollback undoes at a core (11 R332). -/
def LogKind.ofGang (dev : BitVec 8) (rect : Nat × Nat × Nat × Nat) (c : CtxNo) : LogKind → Bool
  | .slice d remote wdev wcore whod _ =>
    if remote then decide (wdev = dev) && !whod && inRect rect wcore.toNat else decide (d = c)
  | .csr d _ => decide (d = c)
  | _ => false

/-- Nothing of a context is still under way: its results have settled and its started tiles are done. -/
def State.quiet (s : State) (k : Key) (c : CtxNo) : Bool := (s.ctx k c).settled && !(s.core k).kilnBusy c
/-! ## The rollback of a region (11 R325, 08 R251) -/

/-- A saved stream rebound at its saved cursor. -/
def State.restoreStrm (s : State) (k : Key) (i : Reg8) (t : Option Stream) : State :=
  let s := (s.unregister k 0 (.strm i)).setStrm k i none
  match t with
  | none => s
  | some t =>
    let u := s.setStrm k i (some (if t.write then t else { t with fetched := t.cursor, buf := [] }))
    if t.complete then u else
    match (s.as_ k t.ctx).extent t with
    | some (lo, hi) => u.register k ⟨lo, hi, t.write, .strm i, 0, none⟩
    | none => u

/-- The registers of the frame. Its pool space returns (02 R45). -/
def Ctx.restoreFrame (x : Ctx) (f : Frame) (cause : BitVec 8) (d : Nat) : Ctx :=
  let n := if f.retry = 255 then 255 else f.retry + 1
  let v := f.vs.foldl (fun (v : Vector VWord 32) e => v.set e.1 e.2) x.regs.v
  let g := (f.pegs.getD []).foldl (fun (g : Vector (BitVec 32) 8) e => g.set e.1 e.2) x.regs.g
  let f' := { f with retry := n, cls := some (f.cls.getD x.csr.cls), vs := [], tiles := [], strms := [], pegs := none }
  { x with regs := ⟨f.x, v, f.p, g⟩, pc := f.handler, run := .running,
           csr := { x.csr with
                      mode := f.mode, rndctr := f.rndctr, rgretry := n, cls := 0,
                      rgcause := BitVec.ofNat 16 (d * 256 + cause.toNat) },
           aux := { x.aux with frames := f' :: x.aux.frames.tail } }

/-- The tiles of a frame restored: whole words are written, and their errors clear (17 R404). One that was saved in error is not, and is
partition-fatal (17 R407; log entry 142). -/
def State.restoreTiles (s : State) (k : Key) (c : CtxNo) (l : List (Fin 4 × BitVec 131072 × Bool)) : State :=
  let good := l.filter fun e => !e.2.2
  let clear := fun (w : Nat) => !(good.any fun e => decide (w / 2048 = Loc.acc k.val e.1.val 0 / 16384))
  let mem := good.foldl (fun (m : Memory) (e : Fin 4 × BitVec 131072 × Bool) =>
    m.write (Loc.acc k.val e.1.val 0) 16384 e.2.1.toNat) s.sh.mem
  let t : State := { s with sh := { s.sh with mem := mem, ue := s.sh.ue.filter clear, ce := s.sh.ce.filter clear } }
  t.fatalAt k c (l.length - good.length)

/-- The rollback itself, once everything has settled. -/
def State.rollRegion (s : State) (k : Key) (c : CtxNo) (f : Frame) (cause : BitVec 8) : State :=
  let d := (s.ctx k c).depth
  let s := s.dropDeferred k c fun e => decide (e.depth = d)
  let s := (s.replay k c f.marker (LogKind.ownOf c)).flyRead k c (Fin.ofNat 10 (d - 1))
  let s := (s.updCtx k c fun x => x.restoreFrame f cause d).restoreTiles k c f.tiles
  let s := f.strms.foldl (fun s e => if (s.core k).linkBy.isSome && decide (6 ≤ e.1.val) then s
    else s.restoreStrm k e.1 e.2) s
  let s := s.updCore k fun co => co.count 8
  (s.openWindowE k c 6).1.trace k c 3 f.handler cause.toNat d

/-- R325: the commands that have not started are discarded, what is under way settles, and then the region is rolled back. -/
def evRegionRollback (k : Key) (c : CtxNo) (s : State) : Option State :=
  match (s.ctx k c).run, (s.ctx k c).aux.frames with
  | .rolling (.region cause), f :: _ =>
    if !s.liveCore k then none
    else if (s.core k).kilnWaiting c 0 then some (s.kilnDrop k c (KCmd.dropped 0))
    else if s.quiet k c then some (s.rollRegion k c f cause)
    else none
  | _, _ => none
def execRegionRollback (c : Key) (k : CtxNo) (s : State) : Ending := fire s (evRegionRollback c k s)

/-! ## The retry of a body (09 R283) -/

/-- The start of a body's context (08 R247): ENTRY, ARG1, ARG2, the landing zone. -/
def bodyStart (a : Attempt) : Start :=
  ⟨a.txn.entry, a.txn.arg1, a.txn.arg2, (a.txn.disp &&& 0x800FFFFFFFFFFFFF) ||| at_ 0xFF 52, 0, 2, .user, a.key, true, none⟩

/-- R283. -/
def evTxBodyRetry (k : Key) (c : CtxNo) (s : State) : Option State :=
  let x := s.ctx k c
  match x.run, x.aux.body, (s.core k).attempts.find? fun a => a.stage == .body c with
  | .rolling (.body cause), some (marker, num), some a =>
    if !s.liveCore k then none
    else if (s.core k).kilnWaiting c 0 then some (s.kilnDrop k c (KCmd.dropped 0))
    else if !s.quiet k c then none
    else
      let s := s.dropDeferred k c fun e => decide (e.depth ≠ 0)
      let s := s.replay k c marker (LogKind.ownOf c)
      let n := x.aux.bodyRetry + 1
      let s := ((s.updCore k fun co => co.count 9).startCtx k c (bodyStart a)).updCtx k c fun z =>
        { z with csr := { z.csr with rgretry := BitVec.ofNat 8 n, rgcause := BitVec.ofNat 16 cause.toNat },
                 aux := { z.aux with body := some (marker, num), bodyRetry := n } }
      some ((s.openWindowE k c 6).1.trace k c 3 a.txn.entry cause.toNat 0)
  | _, _, _ => none
def execTxBodyRetry (c : Key) (k : CtxNo) (s : State) : Ending := fire s (evTxBodyRetry c k s)

/-! ## The rollback of a superstep (09 R279, 11 R332) -/

/-- A slot clock that a superstep rollback stops: at the count that the release left, 0 (R271, R279; log entry 135). -/
def SlotClock.stop (_ : SlotClock) : SlotClock := .stopped 0

/-- The context after its superstep frame is restored. -/
def Ctx.restoreSs (x : Ctx) (f : SsFrame) (cause : BitVec 8) : Ctx :=
  let k := (x.aux.frames.reverse.findSome? (·.cls)).getD x.csr.cls
  { x with regs := { x.regs with x := f.x, p := f.p }, pc := f.pc, run := .running,
           csr := { x.csr with
                      mode := f.mode, rndctr := f.rndctr, rgretry := 0, rgcause := BitVec.ofNat 16 cause.toNat, cls := k },
           aux := { x.aux with frames := [], slotClock := x.aux.slotClock.map SlotClock.stop, windows := [] } }

/-- One member of the gang restored (R279 steps 2 to 4). -/
def State.rollMember (s : State) (j : Key) (d : CtxNo) (f : SsFrame) : State :=
  let cause : BitVec 8 := match (s.ctx j d).run with
    | .rolling (.superstep c _) => c
    | _ => 0x25
  let s := s.dropDeferred j d fun e => decide (e.depth ≠ 0)
  let s := (s.replay j d f.marker (LogKind.ofGang s.device f.rect d)).flyRead j d 8
  let s := s.updCore j fun co =>
    { (co.count 10) with
              west := [], east := [], ssRolls := co.ssRolls + 1,
              bars := co.bars.map fun b => match b with
                | some a => if a.ctx = d ∧ f.since ≤ a.name then none else b
                | none => b }
  let s := s.updCtx j d fun x => x.restoreSs f cause
  (s.openWindowE j d 6).1.trace j d 3 f.pc cause.toNat 0

/-- A release of a level is on its way to some core of a rectangle: the sweep has been made, and has not reached it (R273). -/
def State.sweeping (s : State) (k : Key) (rect : Nat × Nat × Nat × Nat) (n : Fin 4) : Bool :=
  (s.rectOf k rect).any fun j => match (s.core j).bars[n] with
    | some a => a.rel.isSome
    | none => false

/-- R279: every member settles, and then all are rolled back together; a course-fetch run restarts in step (R271). A release that is
on its way reaches every core first, so that all go back to one superstep, and the contexts that it brought in stop with the others; a
context whose superstep has ended there goes on, with a trap where it consumed the error (log entry 135). -/
def evSuperstepRollback (k : Key) (c : CtxNo) (s : State) : Option State :=
  match (s.ctx k c).run, (s.ctx k c).aux.ss with
  | .rolling (.superstep _ _), some f =>
    if !s.liveCore k || s.sweeping k f.rect f.level then none else
    let g := s.gang k f.rect f.level
    if g.any fun e => (s.core e.1).kilnWaiting e.2.1 e.2.2.since then
      some (g.foldl (fun s e => s.kilnDrop e.1 e.2.1 (KCmd.dropped e.2.2.since)) s)
    else if !(g.all fun e => s.quiet e.1 e.2.1) then none
    else if !(g.all fun e => (s.ctx e.1 e.2.1).isRolling) then
      some (g.foldl (fun s e => if (s.ctx e.1 e.2.1).isRolling then s
        else s.updCtx e.1 e.2.1 fun x => x.beginRoll (.superstep 0x25 false)) s)
    else
      let t := g.foldl (fun s e => s.rollMember e.1 e.2.1 e.2.2) s
      some { t with sh := { t.sh with runs := t.sh.runs.map fun r =>
        if (g.any fun e => r.has e.1 && decide (e.2.1 = 0)) then r.restart else r } }
  | .rolling (.superstep cause origin), none =>
    if !s.liveCore k || !s.quiet k c then none else
    let t := s.updCtx k c fun x => { x with run := .running }
    some (if origin then (let w := t.freeWord; w.2.vector k c cause w.1 (s.ctx k c).pc (s.ctx k c).pc) else t)
  | _, _ => none
def execSuperstepRollback (c : Key) (k : CtxNo) (s : State) : Ending := fire s (evSuperstepRollback c k s)

end Sys2Proof.Machine
end

