-- ==== Sys2Proof/Machine/Txn.lean ====
section
/-! DEFINITION. Transactions (08 R242 to R248; 11 R305 to R319; 17 R414): TSUB, TDECL, TRECON, TEND, and the events of the
sequencer, the lock managers and the dispatch cores. -/
namespace Sys2Proof.Machine
open Sys2Proof

/-! ## The descriptor (08 R242, R246) -/

/-- The tiles of a transaction with the kind, in the order read entries, write entries: place in the landing zone, address,
version to check (none for a read without a check), write. -/
def Txn.tiles (t : Txn) : List (Nat × Word × Option (BitVec 32) × Bool) :=
  (t.reads.zipIdx.map fun e => (e.2, e.1.1, e.1.2, false)) ++ (t.writes.zipIdx.map fun e => (16 + e.2, e.1, none, true))

/-- A checked transaction (11 R309). -/
def Txn.checked (t : Txn) : Bool := t.reads.any fun r => r.2.isSome

/-- A valid target word (06 R180). -/
def State.targetOk (s : State) (w : Word) : Bool :=
  isSlice w && decide (bits w 62 60 = 0 ∧ bits w 51 32 = 0 ∧ bits w 19 15 = 0) && !w.getLsbD 0 &&
    (match s.checkFormat w with | .ok _ => true | .error _ => false)

/-- DISP names a landing zone of the partition on the submitting device (08 Table 8.5). -/
def State.dispOk (s : State) (part : Nat) (w : Word) : Bool :=
  isSlice w && decide (winOf w = 0 ∧ bits w 51 32 = 0 ∧ s.resolve (devOf w) = s.device) &&
    decide (offOf w % 0x1000 = 0 ∧ offOf w ≤ 0xE8000 ∧ coreOf w < 4096) && s.inSpan part (s.owner w)

/-- The descriptor at an offset of the executing core, captured, after the checks 2 to 4 of R246. -/
def State.captureTxn (s : State) (part : Nat) (d : Word) : Except Stop Txn := do
  let off := offOf d
  let h := s.own64 off
  let nr := hdrReads h
  let nw := hdrWrites h
  let disp := s.own64 (off + 24)
  let compl := s.own64 (off + 32)
  let entry := bits h 14 0
  let recon := bits h 30 16
  let flags := fun (i : Nat) => bits (s.own64 (readAt d i + 8)) 63 32
  let chk := (List.range (min nr 16)).any fun i => flags i % 2 = 1
  let rsv := h.getLsbD 15 || h.getLsbD 31 || decide (bits h 63 41 ≠ 0) || decide (s.peek s.me (off + 40) 24 ≠ 0) ||
    ((List.range (min nr 16)).any fun i => decide (flags i / 2 ≠ 0)) ||
    ((List.range (min nw 8)).any fun j => decide (s.own64 (writeAt d j + 8) ≠ 0))
  if rsv || decide (entry = 0 ∨ entry % 2 = 1 ∨ recon % 2 = 1) || decide (16 < nr ∨ 8 < nw) ||
      (chk && decide (recon = 0)) || (chk && decide (isHod s.me ∨ coreOf disp ≠ s.me.val)) || !s.dispOk part disp ||
      (decide (compl ≠ 0) && !s.targetOk compl) then trapV 0x01 d
  let reads := (List.range nr).map fun i =>
    (s.tileName (s.own64 (readAt d i)), if flags i % 2 = 1 then some (BitVec.ofNat 32 (s.own64 (readAt d i + 8)).toNat) else none)
  let writes := (List.range nw).map fun j => s.tileName (s.own64 (writeAt d j))
  let all := reads.map (·.1) ++ writes
  if all.eraseDups.length ≠ all.length then trapF 0x14
  let raws := (List.range nr).map (fun i => s.own64 (readAt d i)) ++ (List.range nw).map fun j => s.own64 (writeAt d j)
  raws.forM (s.checkTile part)
  pure { desc := d, entry := BitVec.ofNat 15 entry, recon := BitVec.ofNat 15 recon, arg1 := s.own64 (off + 8),
         arg2 := s.own64 (off + 16), disp := s.tileName disp, compl := compl, reads := reads, writes := writes }

/-! ## The instructions -/

/-- The failed key and the number of failed attempts that a restart submission of the executing context restarts (08 R246). -/
def State.restartOf (s : State) : Option (Word × Nat) :=
  (s.myCore.attempts.find? fun a => a.stage == .recon s.cc).map fun a => (a.key, a.fails + 1)

/-- R246; 0x01 in a slaved context (09 R271), 0x13 in a body, irrevocable (08 Table 8.2). A second restart traps before the descriptor is
checked, and bit 0 of RECON is checked with it (log entry 138). -/
def execTsub (b : Reg) (s : State) : Ending :=
  conclude s (do
    if s.slaved s.me s.cc then s.illegal
    let d := s.x b
    s.checkDesc d 448
    s.noBody
    if s.my.aux.recon = some true then trapF 0x13
    s.irrevocably fun s => do
      let p ← s.loadPiece d 448
      s.checkReads [(d, p)]
      let t ← s.captureTxn (s.partNo s.me) d
      let r ← (s.countCe s.me p.raws).request .plain (.tsub t s.restartOf) .trecon
      pure (r.1.upd fun x => { x with aux := { x.aux with recon := x.aux.recon.map fun _ => true } }).retire)

/-- R244. -/
def execTdecl (a b : Reg) (write : Bool) (s : State) : Ending :=
  conclude s (do
    s.checkDesc (s.x a) 448
    s.checkTile (s.partNo s.me) (s.x b)
    s.noBody
    let t ← s.declare (s.x a) (s.x b) write 0 false
    pure t.retire)

/-- R245: the context waits for the version. -/
def execTrecon (a b : Reg) (s : State) : Ending :=
  conclude s (do
    s.checkDesc (s.x a) 448
    s.checkTile (s.partNo s.me) (s.x b)
    s.noBody
    let own := !isSlice (s.x b) || decide (s.resolve (devOf (s.x b)) = s.device)
    let r ← s.request .plain (.trecon (s.x a) (s.x b)) .trecon
    pure ((r.1.expect r.2 .trecon 0 own false false []).park .trecon))

/-- The contents of a tile with its errors. -/
def State.tileBytes (s : State) (place : Nat) : List (Byte × Bool) :=
  (List.range 0x1000).map fun i => (s.sh.mem.get (place + i), s.badAt (place + i))

/-- Corrected words of a tile of a slice are counted for its core (17 R415). -/
def State.countTile (s : State) (k : Key) (off : Nat) (phys : Option Nat) : State :=
  if phys.isNone then s.countCe k [(off, 0x1000)] else s

/-- The messages of 4 KiB that a core or hod sends: bytes from each place, at most MSGMAX.LIMIT × 64 of them (14 R356). -/
def Core.parts (co : Core) (data : List (Byte × Bool)) : List (Nat × List (Byte × Bool)) :=
  let n := max 1 (co.csr.msgmax.toNat * 64)
  (groups n data data.length).zipIdx.map fun e => (n * e.2, e.1)

/-- The lock manager of a tile (11 R310): the slice's own, or the owning hod's, with the tile number and, of a far tile, its
physical address. -/
def State.managerOf (s : State) (n : Nat) (pages : List Leaf) (tile : Word) : Owner × Nat × Option Nat :=
  if isSlice tile then (s.owner tile, offOf tile / 0x1000, none)
  else match leafFor pages tile.toNat with
    | some l => (⟨s.device, 4096 + s.blockOwner (s.part n) l.entry tile.toNat⟩, tile.toNat / 0x1000, some (l.phys tile.toNat))
    | none => (⟨s.device, 4096⟩, tile.toNat / 0x1000, none)

/-- The key of an owner of this package. -/
def Owner.keyOf (o : Owner) : Key := Fin.ofNat 4160 o.key

/-- The commit begins (11 R318): pushes of the landing copies, releases of the read tiles. -/
def State.commit (s : State) (k : Key) (c : CtxNo) (a : Attempt) : State :=
  let n := a.part
  let s := a.txn.tiles.foldl (fun s e =>
    let m := s.managerOf n a.pages e.2.1
    if e.2.2.2 then
      let v := ((a.got.find? fun g => g.1 = e.1).map (·.2.1)).getD 0
      let off := landingOff a.txn + 0x1000 * e.1
      ((s.core k).parts (s.tileBytes (Loc.local_ k off))).foldl (fun s b =>
        s.postTo k.val m.1.dev (.push m.1.keyOf m.2.1 m.2.2 a.key s.device k b.2 (v + 1))) (s.countTile k off none)
    else s.postTo k.val m.1.dev (.release m.1.keyOf m.2.1 a.key s.device k true)) s
  s.updCore k fun co => { co with attempts := co.attempts.map fun b =>
    if b.key = a.key then { b with stage := .committing (some c) a.txn.writes.length a.txn.reads.length, pcEnd := (s.ctx k c).pc } else b }

/-- R248. -/
def execTend (s : State) : Ending :=
  conclude s (do
    if s.slaved s.me s.cc then s.illegal
    if !s.my.csr.txbody then trapF 0x13
    if s.my.depth ≠ 0 then trapF 0x10
    if !s.my.settled then stall
    if s.my.aux.refPc.isSome then pure s.reportRefusal
    else match s.myCore.attempts.find? fun a => a.stage == .body s.cc with
      | none => pure (s.becomeIdle s.me s.cc)
      | some a =>
        let t := s.commit s.me s.cc a
        pure ((t.upd fun x => { x with run := .parked .commit s.succ,
                                       aux := { x.aux with body := none, windows := [] } }).setFate .retired))

/-! ## Completion entries (11 R319) -/

/-- A completion entry for COMPL, or where it is 0 and the status asks for it, for the submitter. -/
def State.complete (s : State) (n : Nat) (k : Key) (t : Txn) (key : Word) (status fails : Nat) (mask : Word) (sub : Key)
    (host : Option (Fin 2)) : State :=
  let from_ := if status = 3 ∨ status = 4 then sub else k
  let e := entry 5 s.device (index from_) (isHod from_) 0 0 0 key (at_ status 0 ||| at_ (min fails 255) 8) t.desc 0 mask
  match (if status = 3 ∨ status = 4 then host else none) with
  | some p => s.notice p (BitVec.ofNat 1024 e.toNat)
  | none =>
    if t.compl ≠ 0 then s.postEntry n (s.owner t.compl) e
    else if status = 3 ∨ status = 4 then s.postEntry n ⟨s.device, sub.val⟩ e
    else s

/-! ## Intake (11 R307) -/

/-- The far tiles of a transaction translated in order: the leaves, or the address that faults. -/
def State.transTiles (s : State) (n die : Nat) (sup : Bool) :
    List (Nat × Word × Option (BitVec 32) × Bool) → State × Except Word (List Leaf)
  | [] => (s, .ok [])
  | e :: es =>
    if isSlice e.2.1 then s.transTiles n die sup es else
    match s.translate n e.2.1.toNat die (if e.2.2.2 then .both else .read) sup with
    | .error _ => (s, .error e.2.1)
    | .ok (s, l) => match s.transTiles n die sup es with
      | (s, .ok ls) => (s, .ok (l :: ls))
      | r => r

/-- Submissions of one context, and of one port, arrive in order (11 R307, 14 R349). -/
def State.tsubTurn (s : State) (i : Nat) (r : Req) : Bool :=
  !((s.sh.fabric.take i).any fun m => match m with
    | .req q _ _ => (match q.op with | .tsub .. => true | _ => false) &&
        (if r.host.isSome then decide (q.host = r.host) else decide (q.host = none ∧ q.src = r.src ∧ q.ctx = r.ctx))
    | _ => false)

/-- An uncorrectable word in the state of the sequencer lane or of a lock manager is met: the partition ends (17 R407; log entry
106). -/
def State.laneRead (s : State) (n : Nat) : State :=
  if (s.part n).lane.ue then
    (s.updPart n fun p => { p with lane := { p.lane with ue := false } }).partFatal n none 0 0x21 0 0
  else s
def State.mgrRead (s : State) (k : Key) : State :=
  if (s.core k).lkm.ue then
    ((s.countUe k 1).updCore k fun co => { co with lkm := { co.lkm with ue := false } }).partFatal (s.partNo k) none 0 0x21 0 0
  else s

def State.updLane (s : State) (n : Nat) (f : Lane → Lane) : State := s.updPart n fun p => { p with lane := f p.lane }
/-- The verdict of a key is no longer awaited (11 R309). -/
def Lane.heardOf (l : Lane) (key : Word) : Lane := { l with pending := l.pending.filter fun q => q ≠ key }

/-- A refused submission (11 R307). A refused restart has not arrived: its context may submit again; where the context is idle
already, the transaction is withdrawn (11 R309; log entry 108). -/
def State.refuseSub (s : State) (r : Req) (dst : Owner) (t : Txn) (restart : Option (Word × Nat)) : State :=
  let s := s.returned r dst 4 0
  match restart with
  | none => s
  | some f => match (s.core r.src).attempts.find? fun a => decide (a.key = f.1) with
    | some a => (match a.stage with
      | .recon c => s.updCtx r.src c fun x => { x with aux := { x.aux with recon := some false } }
      | _ => s)
    | none => (s.updLane r.part fun l => l.heardOf f.1).complete r.part r.src t f.1 1 f.2 0 r.src r.host

/-- The submission is taken into the lane; a restart is held for the tail of the open batch (11 R309). -/
def Lane.takeIn (l : Lane) (u : Sub) : Lane :=
  match u.failedKey with
  | some f => { l.heardOf f with restarts := (l.heardOf f).restarts ++ [u] }
  | none => { l with intake := l.intake ++ [u] }

/-- A host's submission before its descriptor is captured: only the address. -/
def Txn.named (a : Word) : Txn :=
  { desc := a, entry := 0, recon := 0, arg1 := 0, arg2 := 0, disp := 0, compl := 0, reads := [], writes := [] }

/-- The transaction that a submission asks for: an instruction captured it; that of a host's is captured now under R246, from the core
that holds the descriptor (16 R394). None where R246 turns it away, or a word of it is in error (log entry 22). -/
def State.captured (s : State) (r : Req) (t : Txn) : Option Txn :=
  if r.host.isNone then some t else
  let u := s.as_ (coreKey (coreOf t.desc)) 0
  if (s.badWord (Loc.local_ u.me (offOf t.desc)) 448).isSome then none else
  match (do u.checkDesc t.desc 448; u.captureTxn r.part t.desc) with
  | .ok d => some d
  | .error _ => none

/-- R307: a submission is refused by a full intake, ended by a translation fault, or taken in. A host's is translated from die 0
(15 R373), and follows the earlier records to its core (16 R393); it is returned where its descriptor is turned away. One from a port
finds a stopped partition and is turned away (14 R357). -/
def evTsubIntake (i : Nat) (s : State) : Option State :=
  match s.msg i with
  | some (.req r dst _) =>
    match r.op with
    | .tsub t restart =>
      let n := r.part
      if s.turnedAway r then some ((s.unpost i).returned r dst 4 0) else
      if !(s.part n).live || !s.tsubTurn i r || !s.hostTurn i r dst then none else
      match s.captured r t with
      | none => some ((s.unpost i).returned r dst 4 0)
      | some t =>
      let s := (s.unpost i).laneRead n
      let l := (s.part n).lane
      if 4096 ≤ l.intake.length + l.restarts.length then some (s.refuseSub r dst t restart) else
      match s.transTiles n (if r.host.isSome then 0 else dieOf r.src) (r.mode == .supervisor) t.tiles with
      | (s, .error va) =>
        let u := match restart with
          | some f => s.updLane n fun l => l.heardOf f.1
          | none => s
        some ((u.accepted r).complete n r.src t 0 3 ((restart.map (·.2)).getD 0) va r.src r.host)
      | (s, .ok pages) =>
        some ((s.updLane n fun l =>
          l.takeIn ⟨r.id, t, r.src, r.ctx, r.host, r.pc, (restart.map (·.2)).getD 0, restart.map (·.1), pages,
            r.mode == .supervisor⟩).accepted r)
    | _ => none
  | _ => none
def execTsubIntake (i : Nat) (s : State) : Ending := fire s (evTsubIntake i s)

/-! ## Batches (11 R306, R308 to R310) -/

/-- The device numbers of the members, ascending; the lane itself is one. -/
def Part.members (p : Part) (dev : Nat) : List Nat := (List.range 192).filter fun m => p.group.getLsbD m || m = dev
/-- A member that failed takes no part after its cut round (17 R414). -/
def Lane.out (l : Lane) (m r : Nat) : Bool := match aget l.cuts m with
  | some c => decide (c ≤ r)
  | none => false
/-- How many rounds of a member have been received. -/
def Lane.roundsOf (l : Lane) (m : Nat) : Nat := match aget l.lastSeen m with
  | some r => r + 1
  | none => 0

/-- The key of R306. -/
def txnKey (round dev pos : Nat) : Word := BitVec.ofNat 64 (round <<< 18 + (dev % 256) <<< 10 + pos % 1024)

/-- min(256, 512 − c) (11 R308). -/
def Lane.limit (l : Lane) : Nat := min 256 (512 - l.prevChecked)

/-- A list of restarts in ascending order of failed keys (11 R309). -/
def insSub (x : Sub) : List Sub → List Sub
  | [] => [x]
  | y :: r => if (x.failedKey.getD 0).toNat < (y.failedKey.getD 0).toNat then x :: y :: r else y :: insSub x r
def sortSubs (l : List Sub) : List Sub := l.foldl (fun r x => insSub x r) []

/-- An attempt of a numbered submission. -/
def attemptOf (n : Nat) (key : Word) (u : Sub) : Attempt :=
  { id := u.id, key := key, part := n, txn := u.txn, sub := u.src, subCtx := u.ctx, host := u.host, got := [], part_ := [],
    stage := if u.txn.tiles.isEmpty then .ready else .collecting, fails := u.fails, pages := u.pages,
    sup := u.sup, pcEnd := 0 }

/-- The lock requests of a numbered submission with their managers (11 R310, R313). -/
def State.lockReqs (s : State) (n : Nat) (key : Word) (u : Sub) : List (Owner × LockReq) :=
  u.txn.tiles.map fun e =>
    let m := s.managerOf n u.pages e.2.1
    (m.1, { dev := s.device, key := key, part := n, tile := m.2.1, phys := m.2.2, write := e.2.2.2, check := e.2.2.1,
            core := coreKey (coreOf u.txn.disp), slot := e.1, landing := landingOff u.txn + 0x1000 * e.1, granted := false })

/-- The conditions of R308. -/
def State.batchDue (s : State) (n : Nat) : Bool :=
  let p := s.part n
  let l := p.lane
  let dev := p.device.toNat
  let full := decide (0 < l.limit) && decide (l.limit ≤ l.intake.length)
  (full || decide (l.opened + 2000 ≤ p.clock s.cycle * 5 / 9)) && l.pending.isEmpty &&
    (decide (l.round < 16) || ((p.members dev).all fun m => l.out m (l.round - 16) ||
      (match aget l.lastSeen m with | some r => decide (l.round - 16 ≤ r) | none => false)))

/-- The portion of each member of the group in a closed batch, the own among them (11 R310). -/
def State.sendPortions (s : State) (n round : Nat) (reqs : List (Owner × LockReq)) : State :=
  let p := s.part n
  (p.members p.device.toNat).foldl (fun s m => s.postTo 0 (BitVec.ofNat 8 m)
    (.portion n round p.device.toNat (reqs.filter fun q => decide (q.1.dev.toNat = m)))) s

/-- R308 to R310: positions are given, attempts made at their dispatch cores, and portions sent; a landing zone outside the
partition ends its transaction with status 4. -/
def evBatchClose (part : Fin 64) (s : State) : Option State :=
  let n := part.val
  let p := s.part n
  if !p.live || !s.batchDue n then none else
  let s := s.laneRead n
  let l := p.lane
  let subs := l.intake.take l.limit ++ sortSubs l.restarts
  let keyed := subs.zipIdx.map fun u => (txnKey l.round p.device.toNat u.2, u.1)
  let good := keyed.filter fun u => s.inSpan n (s.owner u.2.txn.disp)
  let s := (keyed.filter fun u => !s.inSpan n (s.owner u.2.txn.disp)).foldl (fun s u =>
    s.complete n u.2.src u.2.txn u.1 4 u.2.fails 0 u.2.src u.2.host) s
  let s := good.foldl (fun s u => s.updCore (coreKey (coreOf u.2.txn.disp)) fun co =>
    { co with attempts := co.attempts ++ [attemptOf n u.1 u.2] }) s
  let s := s.sendPortions n l.round (good.flatMap fun u => s.lockReqs n u.1 u.2)
  some (s.updLane n fun l => { l with
    intake := l.intake.drop l.limit, round := l.round + 1, opened := p.clock s.cycle * 5 / 9,
    prevChecked := (keyed.filter fun u => u.2.txn.checked || u.2.failedKey.isSome).length,
    pending := (good.filter fun u => u.2.txn.checked).map (·.1), restarts := [] })
def execBatchClose (part : Fin 64) (s : State) : Ending := fire s (evBatchClose part s)

/-- Portions forwarded strictly in key order while they have arrived (11 R310): the requests, the lane. -/
def Lane.forward (members : List Nat) : Nat → Lane → List (Owner × LockReq) × Lane
  | 0, l => ([], l)
  | fuel + 1, l =>
    match members[l.fwd.2]? with
    | none => Lane.forward members fuel { l with fwd := (l.fwd.1 + 1, 0) }
    | some m =>
      if l.out m l.fwd.1 then Lane.forward members fuel { l with fwd := (l.fwd.1, l.fwd.2 + 1) }
      else match l.portions.find? fun q => decide (q.1 = l.fwd.1 ∧ q.2.1 = m) with
        | none => ([], l)
        | some q =>
          let r := Lane.forward members fuel { l with
            portions := l.portions.filter (fun w => !decide (w.1 = l.fwd.1 ∧ w.2.1 = m)), fwd := (l.fwd.1, l.fwd.2 + 1) }
          (q.2.2 ++ r.1, r.2)

/-- Everything that may be forwarded goes to the lock managers. -/
def State.forwardAll (s : State) (n : Nat) : State :=
  let p := s.part n
  let r := p.lane.forward (p.members p.device.toNat) (400 + 200 * p.lane.portions.length)
  r.1.foldl (fun s q => s.post (.lock q.1.keyOf q.2)) (s.updLane n fun _ => r.2)

/-- R310; portions of a failed member beyond its cut round are discarded (17 R414), and so are requests for cores outside the partition
(00 R7). What another member tells of a failed one is kept. -/
def evPortionArrival (part : Fin 64) (i : Nat) (s : State) : Option State :=
  match s.msg i with
  | some (.portion n round m reqs) =>
    if n ≠ part.val ∨ !(s.part n).live then none else
    let s := (s.unpost i).laneRead n
    let p := s.part n
    if p.lane.out m round then some s else
    some ((s.updLane n fun l => { l with
      portions := l.portions ++ [(round, m, reqs.filter fun q => s.inSpan n q.1)], lastSeen := aset l.lastSeen m (max round ((aget l.lastSeen m).getD 0)),
      heard := aset l.heard m (p.clock s.cycle * 5 / 9) }).forwardAll n)
  | some (.rounds n failed m c) =>
    if n ≠ part.val ∨ !(s.part n).live then none else
    some ((s.unpost i).updLane n fun l => { l with
      told := (failed, m, c) :: l.told.filter fun q => !decide (q.1 = failed ∧ q.2.1 = m) })
  | _ => none
def execPortionArrival (part : Fin 64) (i : Nat) (s : State) : Ending := fire s (evPortionArrival part i s)

/-- R309: the verdict of a checked attempt. A failing one stays awaited until its restart arrives or is withdrawn. -/
def evVerdictArrival (i : Nat) (s : State) : Option State :=
  match s.msg i with
  | some (.verdict n key pass) =>
    if !(s.part n).live then none else
    let s := (s.unpost i).laneRead n
    some (if pass then s.updLane n fun l => l.heardOf key else s)
  | _ => none
def execVerdictArrival (i : Nat) (s : State) : Ending := fire s (evVerdictArrival i s)

/-! ## Lock managers (11 R312 to R314; 10 R301, R302) -/

/-- Pending requests that a manager holds. -/
def mgrSize (k : Key) : Nat := if isHod k then 16384 else 1024

/-- R312: a request is queued, in the order sent; a full manager holds its requests back. One for a core outside the partition is
dropped (00 R7). -/
def evLockRequest (i : Nat) (s : State) : Option State :=
  match s.msg i with
  | some (.lock k r) =>
    let early := (s.sh.fabric.take i).any fun m => match m with | .lock j _ => decide (j = k) | _ => false
    if early || !(s.part r.part).live || decide (mgrSize k ≤ (s.core k).lkm.queue.length) then none else
    if !(s.part r.part).has k then some (s.unpost i) else
    some (((s.unpost i).mgrRead k).updCore k fun co => { co with lkm := { co.lkm with queue := co.lkm.queue ++ [r] } })
  | _ => none
def execLockRequest (i : Nat) (s : State) : Ending := fire s (evLockRequest i s)

/-- The requests of a tile that R313 lets be granted together: the first write alone, or the leading run of reads. -/
def grantable (q : List LockReq) : List LockReq :=
  match q with
  | [] => []
  | r :: _ => if r.write then (if r.granted then [] else [r]) else (q.takeWhile fun x => !x.write).filter fun x => !x.granted

/-- Engine ranges over a tile let a grant wait (10 R302, R303): of a far tile those of the copies, and the reads of the `CFETCH`
transfers, that have begun. -/
def State.tileFree (s : State) (k : Key) (r : LockReq) : Bool :=
  let lo := r.tile * 0x1000
  if isHod k then
    !(s.sh.copies.any fun c => decide (c.req.part = r.part) && c.d.ends.any fun e => !isSlice e.a && (r.write || e.write) &&
      (rowAddrs e.a.toNat e.rows e.len e.stride).any fun x => overlap x.1 (x.1 + x.2) lo (lo + 0x1000)) &&
    !(s.sh.fetches.any fun f => decide (f.req.part = r.part) && r.write && !isSlice f.src &&
      overlap f.src.toNat (f.src.toNat + 0x2000) lo (lo + 0x1000))
  else !((s.core k).ranges.any fun g => g.on s.cycle && (r.write || g.write) && overlap g.lo g.hi lo (lo + 0x1000))

/-- The committed version of a tile. -/
def LockMgr.version (m : LockMgr) (tile : Nat) : BitVec 32 := (aget m.versions tile).getD 0
def LockMgr.setVersion (m : LockMgr) (tile : Nat) (v : BitVec 32) : LockMgr :=
  { m with versions := if v = 0 then adel m.versions tile else aset m.versions tile v }

/-- Where the contents of a tile lie. -/
def tilePlace (k : Key) (tile : Nat) (phys : Option Nat) : Nat := phys.getD (Loc.local_ k (tile * 0x1000))

/-- R313, R314: the requests at the head of a tile's queue are granted by one read of the tile. -/
def evGrant (k : Key) (tile : Nat) (s : State) : Option State :=
  let co := s.core k
  match grantable (co.lkm.queue.filter fun r => r.tile = tile) with
  | [] => none
  | r :: rs =>
    if !s.liveCore k || !s.tileFree k r then none else
    let s := (s.mgrRead k).countTile k (tile * 0x1000) r.phys
    let data := s.tileBytes (tilePlace k tile r.phys)
    let v := co.lkm.version tile
    let g := r :: rs
    let s := g.foldl (fun s r => (co.parts data).foldl (fun s b => s.postTo k.val r.dev (.grant r.core r.slot r.key b.1 b.2 v
      (match r.check with | some c => decide (c ≠ v) | none => false) r.landing)) s) s
    some (s.updCore k fun co => { co with lkm := { co.lkm with queue := co.lkm.queue.map fun q =>
      if (decide (q.tile = tile) && g.any (fun r => decide (r.key = q.key))) then { q with granted := true } else q } })
def execGrant (mgr : Key) (tile : Nat) (s : State) : Ending := fire s (evGrant mgr tile s)

/-- A lock of a key is released. -/
def State.unlock (s : State) (k : Key) (tile : Nat) (key : Word) : State :=
  s.updCore k fun co => { co with lkm := { co.lkm with queue := co.lkm.queue.filter fun q => !decide (q.tile = tile ∧ q.key = key) } }

/-- A count of the commit of a key at its dispatch core falls. -/
def State.commitStep (s : State) (core : Key) (key : Word) (push : Bool) : State :=
  s.updCore core fun co => { co with attempts := co.attempts.map fun a =>
    if a.key = key then match a.stage with
      | .committing c p r => { a with stage := if push then .committing c (p - 1) r else .committing c p (r - 1) }
      | _ => a
    else a }

/-- A far tile of a commit has been pushed or released: its attempt uses one leaf less (15 R377). -/
def State.dropLeaf (s : State) (core : Key) (key : Word) (tile : Nat) : State :=
  let drop := fun (a : Attempt) => if a.key ≠ key then a else match leafFor a.pages (tile * 0x1000) with
    | some l => { a with pages := a.pages.erase l }
    | none => a
  s.updCore core fun co => { co with attempts := co.attempts.map drop }

/-- A push written or a release accepted is told to the dispatch core: at once on this package, else by a message. -/
def State.tellCommit (s : State) (mgr : Key) (dev : BitVec 8) (core : Key) (key : Word) (push : Bool) (tile : Nat) : State :=
  if dev = s.device then (if isHod mgr then (s.commitStep core key push).dropLeaf core key tile else s.commitStep core key push)
  else s.postTo mgr.val dev (.done core key push)

/-- Two messages carry parts of one push. -/
def Msg.samePush (m : Msg) (k : Key) (tile : Nat) (key : Word) : Bool :=
  match m with
  | .push j t _ q _ _ _ _ => decide (j = k ∧ t = tile ∧ q = key)
  | _ => false

/-- The bytes of a push that have come, with those of a message. -/
def LockMgr.collect (m : LockMgr) (tile : Nat) (key : Word) (data : List (Byte × Bool)) : List (Byte × Bool) :=
  ((m.coming.find? fun c => decide (c.1 = tile ∧ c.2.1 = key)).map (·.2.2)).getD [] ++ data
def LockMgr.keep (m : LockMgr) (tile : Nat) (key : Word) (l : List (Byte × Bool)) : LockMgr :=
  let rest := m.coming.filter fun c => !decide (c.1 = tile ∧ c.2.1 = key)
  { m with coming := if 0x1000 ≤ l.length then rest else rest ++ [(tile, key, l)] }

/-- R318 steps 1 and 2: with the last of its bytes a write tile's push is written, indivisibly and with its version, and its lock is
released; the dispatch core hears of it. -/
def evCommitPushWritten (i : Nat) (s : State) : Option State :=
  match s.msg i with
  | some (.push k tile phys key dev core data v) =>
    if !s.liveCore k || ((s.sh.fabric.take i).any fun m => m.samePush k tile key) then none else
    let l := (s.core k).lkm.collect tile key data
    let s := ((s.unpost i).mgrRead k).updCore k fun co => { co with lkm := co.lkm.keep tile key l }
    if l.length < 0x1000 then some s else
    let at0 := tilePlace k tile phys
    let s := s.putFar (l.zipIdx.map fun b => (at0 + b.2, b.1.1, b.1.2))
    let s := s.updCore k fun co => { co with lkm := co.lkm.setVersion tile v }
    some ((s.unlock k tile key).tellCommit k dev core key true tile)
  | some (.done core key true) => if s.liveCore core then some ((s.unpost i).commitStep core key true) else none
  | _ => none
def execCommitPushWritten (i : Nat) (s : State) : Ending := fire s (evCommitPushWritten i s)

/-- R313: a lock is released unwritten; a commit counts its acceptance. -/
def evLockRelease (i : Nat) (s : State) : Option State :=
  match s.msg i with
  | some (.release k tile key dev core counts) =>
    if !s.liveCore k then none else
    let t := ((s.unpost i).mgrRead k).unlock k tile key
    some (if counts then t.tellCommit k dev core key false tile else t)
  | some (.done core key false) => if s.liveCore core then some ((s.unpost i).commitStep core key false) else none
  | _ => none
def execLockRelease (i : Nat) (s : State) : Ending := fire s (evLockRelease i s)

/-- R245: the lock manager answers with the committed version, or with a fault; a query for a tile of another package goes
there. A core that is being reset answers as usual (17 R410). A far tile that does not translate faults the `TRECON`, as a read would
(log entry 137). -/
def evVersionQuery (i : Nat) (s : State) : Option State :=
  match s.msg i with
  | some (.req r dst j) =>
    match r.op with
    | .trecon d tile =>
      let o := s.owner tile
      if !s.runs r.part r.op || decide (dst.dev ≠ s.device) then none else
      if !s.inSpan r.part dst || s.turnedAway r then some ((s.unpost i).answer r 0 false (some 0x0B)) else
      if isSlice tile && decide (o.dev ≠ s.device) then
        some ((s.unpost i).postTo r.src.val o.dev (.req { r with op := .trecon d (s.tileName tile) } o j))
      else
      let version := fun (s : State) (k : Key) (t : Nat) =>
        (s.mgrRead k).answer r (BitVec.ofNat 512 ((s.core k).lkm.version t).toNat) false none
      if isSlice tile then
        some (if s.inSpan r.part o then version (s.unpost i) o.keyOf (offOf tile / 0x1000)
          else (s.unpost i).answer r 0 false (some 0x0B))
      else match s.translate r.part tile.toNat (dieOf r.src) .read (r.mode == .supervisor) with
        | .error c => some ((s.unpost i).answer r 0 false (some c))
        | .ok (s, l) =>
          let m := s.managerOf r.part [l] tile
          some (version (s.unpost i) m.1.keyOf m.2.1)
    | _ => none
  | _ => none
def execVersionQuery (i : Nat) (s : State) : Ending := fire s (evVersionQuery i s)

/-! ## Landing and dispatch (11 R315 to R317; 09 R281, R282) -/

/-- An earlier-keyed attempt of the core that is not complete has an overlapping landing zone. -/
def Core.landingHeld (co : Core) (a : Attempt) : Bool :=
  co.attempts.any fun b => decide (b.key.toNat < a.key.toNat) &&
    overlap (landingOff a.txn) (landingOff a.txn + 0x18000) (landingOff b.txn) (landingOff b.txn + 0x18000)

/-- The attempt with bytes of a grant landed: with the last of a tile it is granted, and with the last tile ready. -/
def Attempt.landed (a : Attempt) (slot n : Nat) (v : BitVec 32) (fail : Bool) : Attempt :=
  let m := (aget a.part_ slot).getD 0 + n
  if m < 0x1000 then { a with part_ := aset a.part_ slot m } else
  let got := a.got ++ [(slot, v, fail)]
  { a with part_ := adel a.part_ slot, got := got, stage := if got.length = a.txn.tiles.length then .ready else a.stage }

/-- R315, R282: the contents land; with the last of them the attempt is ready. Those of an attempt that is gone are dropped. -/
def evGrantLanding (i : Nat) (s : State) : Option State :=
  match s.msg i with
  | some (.grant k slot key off data v fail landing) =>
    if !s.liveCore k then none else
    match (s.core k).attempts.find? fun a => a.key = key with
    | none => some (s.unpost i)
    | some a =>
      if (s.core k).landingHeld a then none else
      let s := (s.unpost i).putFar (data.zipIdx.map fun b => (Loc.local_ k (landing + off + b.2), b.1.1, b.1.2))
      some (s.updCore k fun co => { co with attempts := co.attempts.map fun b =>
        (if b.key = key then b.landed slot data.length v fail else b) })
  | _ => none
def execGrantLanding (i : Nat) (s : State) : Ending := fire s (evGrantLanding i s)


/-- The first in the dispatch list: the lowest key that is ready, or failed with its locks released (09 R281). -/
def Core.nextTxn (co : Core) : Option Attempt :=
  (co.attempts.filter fun a => (a.stage == .ready && !a.fail) || a.stage == .failed).foldl
    (fun b a => match b with | some x => if a.key.toNat < x.key.toNat then some a else some x | none => some a) none

def Core.setStage (co : Core) (key : Word) (st : Stage) : Core :=
  { co with attempts := co.attempts.map fun a => if a.key = key then { a with stage := st } else a }

/-- R316: the body starts in the lowest idle context, with its dispatch marker and its pass verdict. -/
def evTxnDispatch (k : Key) (s : State) : Option State :=
  let co := s.core k
  if !s.liveCore k || co.anyStopped then none else
  match co.nextTxn, co.idleCtx with
  | some a, some c =>
    if a.stage ≠ .ready then none else
    let s := (s.updCore k fun co => co.setStage a.key (.body c)).startCtx k c (bodyStart a)
    let r := s.openWindowE k c 4
    let s := r.1.updCtx k c fun x => { x with aux := { x.aux with body := some (r.2.1, r.2.2) } }
    let s := s.trace k c 5 a.txn.entry 0 0
    some (if a.txn.checked then s.post (.verdict a.part a.key true) else s)
  | _, _ => none
def execTxnDispatch (c : Key) (s : State) : Ending := fire s (evTxnDispatch c s)

/-- R317 steps 1 and 2: the versions of the checked reads are written into the descriptor, the locks are released, and the
fail verdict is sent. -/
def State.failAttempt (s : State) (k : Key) (a : Attempt) : State :=
  let vs := a.txn.reads.zipIdx.filterMap fun e => if e.1.2.isSome then
    (a.got.find? fun g => g.1 = e.2).map fun g => (readAt a.txn.desc e.2 + 8, 4, g.2.1.toNat) else none
  let s := s.putRaw a.sub vs
  let s := a.txn.tiles.foldl (fun s e =>
    let m := s.managerOf a.part a.pages e.2.1
    s.postTo k.val m.1.dev (.release m.1.keyOf m.2.1 a.key s.device k false)) s
  (s.updCore k fun co => { (co.setStage a.key .failed) with
    attempts := (co.setStage a.key .failed).attempts.map fun b => if b.key = a.key then { b with pages := [] } else b }).post (.verdict a.part a.key false)

/-- R317: steps 1 and 2 at once; step 3 when a context is idle. -/
def evFailedAttempt (k : Key) (s : State) : Option State :=
  let co := s.core k
  if !s.liveCore k then none else
  match co.attempts.find? fun a => a.stage == .ready && a.fail with
  | some a => some (s.failAttempt k a)
  | none =>
    if co.anyStopped then none else
    match co.nextTxn, co.idleCtx with
    | some a, some c =>
      if a.stage ≠ .failed then none else
      let b := bodyStart a
      let s := (s.updCore k fun co => co.setStage a.key (.recon c)).startCtx k c
        { b with pc := a.txn.recon, x4 := a.txn.desc, txbody := false, recon := some false }
      some (s.trace k c 5 a.txn.recon 0 1)
    | _, _ => none
def execFailedAttempt (c : Key) (s : State) : Ending := fire s (evFailedAttempt c s)

/-- R318 step 3, 08 R248: the completion entry is delivered, the landing zone is free, and the context becomes idle; a debug
stop of scope 2 falls here (18 R418). Where the core was reset meanwhile no context waits (log entry 127). -/
def evCommitComplete (k : Key) (s : State) : Option State :=
  if !s.liveCore k then none else
  match (s.core k).attempts.find? fun a => match a.stage with | .committing _ 0 0 => true | _ => false with
  | none => none
  | some a =>
    match a.stage with
    | .committing who _ _ =>
      let s := s.updCore k fun co => { co with attempts := co.attempts.filter fun b => b.key ≠ a.key }
      let s := s.complete a.part k a.txn a.key 0 a.fails 0 a.sub a.host
      some (match who with
        | none => s
        | some c =>
          let s := s.trace k c 6 a.pcEnd 0 0
          if (s.ctx k c).aux.dbg.want == some 2 then s.debugStop k c 2 else s.becomeIdle k c)
    | _ => none
def execCommitComplete (c : Key) (s : State) : Ending := fire s (evCommitComplete c s)

/-! ## Sequence-group reconfiguration (17 R414) -/

/-- A tile of a transaction lies on a device. -/
def Txn.onDev (t : Txn) (s : State) (dev : BitVec 8) : Bool :=
  t.tiles.any fun e => isSlice e.2.1 && decide ((s.owner e.2.1).dev = dev)

/-- The lane holds a request for a tile of a device, or a transaction that declares one. -/
def State.laneTouches (s : State) (n : Nat) (dev : BitVec 8) : Bool :=
  let l := (s.part n).lane
  (l.intake ++ l.restarts).any (fun u => u.txn.onDev s dev) ||
    s.cores.any fun e => e.2.attempts.any fun a => decide (a.part = n) && a.txn.onDev s dev

/-- Another member has sent nothing for 64 µs of the partition's running time (17 R414). -/
def State.silent (s : State) (n dev : Nat) : Bool :=
  let p := s.part n
  decide ((aget p.lane.heard dev).getD 0 + 64000 ≤ p.clock s.cycle * 5 / 9)

/-- The members of a group that take part beside this lane. -/
def Part.others (p : Part) : List Nat :=
  (p.members p.device.toNat).filter fun m => decide (m ≠ p.device.toNat) && (aget p.lane.cuts m).isNone

/-- The number of the rounds of a member that this lane has received goes to the other remaining members, once (17 R414 step 1). -/
def State.tellRounds (s : State) (n dev : Nat) : State :=
  let p := s.part n
  if p.lane.telling.contains dev then s else
  ((p.others.filter fun m => m ≠ dev).foldl (fun s m =>
    s.postTo 0 (BitVec.ofNat 8 m) (.rounds n dev p.device.toNat (p.lane.roundsOf dev))) s).updLane n fun l =>
      { l with telling := dev :: l.telling }

/-- What every other remaining member has told of a member, if all have. -/
def State.toldOf (s : State) (n dev : Nat) : Option (List Nat) :=
  let p := s.part n
  (p.others.filter fun m => m ≠ dev).mapM fun m =>
    (p.lane.told.find? fun q => decide (q.1 = dev ∧ q.2.1 = m)).map (·.2.2)

/-- R414: a member fails, withdrawn or silent: this lane tells the others its number, and the cut is the lowest of the numbers of its rounds that the remaining members have
received; later portions of it are discarded and forwarding omits it. -/
def evMemberFailure (part : Fin 64) (dev : BitVec 8) (loss : MemberLoss) (s : State) : Option State :=
  let n := part.val
  let p := s.part n
  if !p.live || !(p.others.contains dev.toNat) || loss.told.length + 1 ≠ p.others.length ||
      !(loss.withdrawn || s.silent n dev.toNat) then none else
  let cut := loss.told.foldl min (p.lane.roundsOf dev.toNat)
  let s := (s.tellRounds n dev.toNat).updLane n fun l => { l with
    cuts := aset l.cuts dev.toNat cut, portions := l.portions.filter fun q => !decide (q.2.1 = dev.toNat ∧ cut ≤ q.1) }
  let s := s.report n 6 none 0 0 0 (at_ dev.toNat 0) 0 0 0
  let s := if s.laneTouches n dev then s.partFatal n none 0 0 0 0 else s
  some (s.forwardAll n)
def execMemberFailure (part : Fin 64) (dev : BitVec 8) (loss : MemberLoss) (s : State) : Ending :=
  fire s (evMemberFailure part dev loss s)

end Sys2Proof.Machine
end

