-- ==== Sys2Proof/Machine/Dbg.lean ====
section
/-! DEFINITION. Major 27 (08 R254 to R258): labels, undo windows, checkpoint tables, fault injection. -/
namespace Sys2Proof.Machine
open Sys2Proof

/-- R257: the oldest of 16 labels is discarded. -/
def execLpush (b : Reg) (imm : Nat) (s : State) : Ending :=
  conclude s (
    let w := BitVec.ofNat 16 ((s.x b).toNat + imm)
    let t := s.upd fun x => { x with aux := { x.aux with labels := (w :: x.aux.labels).take 16 } }
    .ok (t.trace s.me s.cc 7 s.my.pc 0 1).retire)

/-- R257: an empty stack stays. -/
def execLpop (s : State) : Ending :=
  conclude s (
    if s.my.aux.labels.isEmpty then .ok s.retire else
    let t := s.upd fun x => { x with aux := { x.aux with labels := x.aux.labels.tail } }
    .ok (t.trace s.me s.cc 7 s.my.pc 0 0).retire)

/-- R254: a window marker, and its number. -/
def execUwmark (a : Reg) (s : State) : Ending :=
  conclude s (do
    let (t, _, num) ← s.openWindow s.me s.cc 2
    let u ← t.setX a (at_ num.toNat 0)
    pure u.retire)

/-- R255: what is wrong with the table is named as x[B] names the table. -/
def execChkpt (b : Reg) (s : State) : Ending :=
  conclude s (do
    let a := s.x b
    if a = 0 then
      let t ← s.csrWriteI 0x018 0
      pure t.retire
    else
      s.checkDesc a 64
      s.checkTable a (offOf a)
      let t ← s.csrWriteI 0x018 (bit true 63 ||| at_ (offOf a) 0)
      pure t.retire)

/-- R258, 02 R49: a trigger of the kind is armed, in place of one already armed. An address through windows 1 to 7 counts by its offset
(log entry 139). -/
def execFaultinj (kind : Fin 4) (b : Reg) (s : State) : Ending :=
  conclude s (do
    if !s.isSup then trapV 0x02 s.baseWord
    let a := s.x b
    if kind = 0 then s.checkFormat a
    if kind = 0 && !s.isOwn a then trapV 0x04 a
    if kind = 0 && decide (a.toNat % 8 ≠ 0) then trapV 0x03 a
    pure (s.upd fun x => { x with aux := { x.aux with
      triggers := x.aux.triggers.filter (fun t => t.1 ≠ kind) ++ [(kind, a)] } }).retire)

end Sys2Proof.Machine
end

