-- ==== Sys2Proof/Machine/HostOps.lean ====
section
/-! DEFINITION. What the host's commands share: the completion of an access (16 R387), the checks before a command
(14 R343, 16 R390), notices of partition state (16 Table 16.3), the cores of a partition. -/
namespace Sys2Proof.Machine
open Sys2Proof

/-- The completion of an access at a port. -/
def State.reply (s : State) (p : Fin 2) (bp : Bool) (code : Nat) (v : BitVec 1024) : State :=
  { s with ports := s.ports.set p { s.ports[p] with last := ⟨bp, BitVec.ofNat 8 code, v⟩ } }
/-- A completion with a status. -/
def State.status (s : State) (p : Fin 2) (code : Nat) : State := s.reply p false code 0

/-- A port can reach the device: power is on and its link is up (16 R386). -/
def State.portUp (s : State) (p : Fin 2) : Bool := s.mg.power && s.ports[p].up

/-- The port holds a semaphore (16 R388: 1 port A, 2 port B). -/
def State.holds (s : State) (p : Fin 2) (n : Fin 64) : Bool := decide (s.sems[n].val = p.val + 1)

/-- A command's outcome: the state after it, or its status (14 Table 14.3). -/
abbrev Cmd := Except Nat State

/-- A check of a command. -/
def check (b : Bool) (status : Nat) : Except Nat Unit := if b then .ok () else .error status

/-- A command of a port (14 R343, 16 R390, R391; 19 R432): status 1 before READY, status 3 for a partition that belongs to the
other port; a refused command leaves the device unchanged. -/
def State.command (s : State) (p : Fin 2) (part : Fin 64) (f : State → Cmd) : Option State :=
  if !s.portUp p then none else
  let pt := s.part part.val
  some (if s.mg.state ≠ .ready then s.status p 1
    else if pt.state ≠ .free ∧ pt.owner ≠ p ∧ !s.holds p part then s.status p 3
    else match f s with
      | .ok t => t.status p 0
      | .error c => s.status p c)

/-- The place of a state in Table 14.1. -/
def PState.code : PState → Nat
  | .free => 0 | .active => 1 | .armed => 2 | .stopping => 3 | .stopped => 4 | .saving => 5 | .saved => 6 | .incomplete => 7
  | .resuming => 8

/-- A notice of partition state (16 Table 16.3, SUB 3) to the owner: the state that the partition has. -/
def State.stateNotice (s : State) (n : Nat) (failed : Bool) (mask bytes : Nat) : State :=
  let p := s.part n
  s.notice p.owner (hostNotice 0 0 false 0 3 (at_ n 0 ||| at_ p.state.code 8 ||| bit failed 12) 0 (at_ n 0) 0 (at_ mask 0)
    (BitVec.ofNat 512 bytes))

/-- ACTIVE, or ARMED with T at least 2,000 ns away (14 Table 14.2, R363). -/
def State.early (s : State) (p : Part) : Except Nat Unit :=
  match p.state with
  | .active => .ok ()
  | .armed => check (decide (s.now + 2000 ≤ p.t)) 4
  | _ => .error 1

/-- T or TR lies from 2,000 ns to 2^32 ns ahead (14 Table 14.3). -/
def State.timeOk (s : State) (t : Nat) : Bool := decide (s.now + 2000 ≤ t ∧ t ≤ s.now + 2 ^ 32)

/-- A far virtual address (02 R48). -/
def farAddr (w : Word) : Bool := decide (w.toNat < 2 ^ 57)

/-- The cores and hods of a partition, ascending. -/
def Part.keys (p : Part) : List Key :=
  (((List.range 256).filter fun q => p.pallets.getLsbD q).flatMap fun q =>
    (List.range 16).map fun i => coreKey ((q / 16 * 4 + i / 4) * 64 + q % 16 * 4 + i % 4)) ++
  (hodsOf p.hods).map hodKey

/-- A memory range is as zero and free of errors. -/
def State.zero (s : State) (lo hi : Nat) : State :=
  let out := fun (w : Nat) => decide (8 * w + 8 ≤ lo ∨ hi ≤ 8 * w)
  { s with sh := { s.sh with mem := s.sh.mem.fill lo hi none, ue := s.sh.ue.filter out, ce := s.sh.ce.filter out } }

/-- The memories of a core or hod are zero: local store, instruction memory, accumulator tiles (14 R344, R345, R352;
07 R205); of the spill area loads tell nothing (06 R176). -/
def State.zeroCore (s : State) (k : Key) : State :=
  let t := (s.zero (Loc.local_ k 0) (Loc.local_ k 0 + localSize k)).zero (Loc.imem k.val 0) (Loc.imem k.val 0x8000)
  (if isHod k then t else t.zero (Loc.acc k.val 0 0) (Loc.acc k.val 4 0)).spilled k

/-! ## Who uses a leaf (15 R377) -/

/-- The size of the page that holds an address of a partition: of its cached leaf, or of that which a walk finds; 64 KiB where there is
none. -/
def State.pageAt (s : State) (n va : Nat) : Nat :=
  match (s.core (hodKey (sliceOf (s.part n).hods va))).tlb.find? fun l => decide (l.part = n ∧ l.va ≤ va ∧ va < l.va + l.size) with
  | some l => l.size
  | none => match s.translate n va 0 .write true, s.translate n va 0 .read true with
    | .ok r, _ | _, .ok r => r.2.size
    | _, _ => 0x10000

/-- The leaves that a SHOOT removes: the leaf that covers VA, those of its region of 1 GiB, or all. -/
def shot (n : Nat) (scope : Fin 3) (va : Word) (l : Leaf) : Bool :=
  decide (l.part = n) && (match scope.val with
    | 0 => decide (l.va ≤ va.toNat ∧ va.toNat < l.va + l.size)
    | 1 => decide (l.va / 2 ^ 30 = va.toNat / 2 ^ 30)
    | _ => true)

/-- A block of 64 KiB lies in what a SHOOT removes: with SCOPE 0 in the page that holds VA. -/
def Shoot.hits (h : Shoot) (block : Nat) : Bool :=
  match h.scope.val with
  | 0 => decide (block / h.size = h.va.toNat / h.size)
  | 1 => decide (block / 2 ^ 30 = h.va.toNat / 2 ^ 30)
  | _ => true

/-- The drain of a partition has a block of its save area still before it that lies in what a SHOOT removes (15 Table 15.6). -/
def State.drainUses (s : State) (h : Shoot) : Bool :=
  let p := s.part h.part
  let lo := p.progress / 0x10000
  p.state == .saving && (List.range ((p.savelen + 0xFFFF) / 0x10000 - lo)).any fun i =>
    h.hits (p.saveva.toNat + (lo + i) * 0x10000)

/-- The names of the operations of a partition that translated through a leaf which a SHOOT removes and have not made their last
far access under it. -/
def State.leafUsers (s : State) (h : Shoot) : List Nat :=
  let n := h.part
  let take := shot n h.scope h.va
  ((s.sh.copies.filter fun c => decide (c.req.part = n) && c.pages.any take).map (·.id)) ++
  ((s.sh.fetches.filter fun f => decide (f.req.part = n) && f.pages.any take).map (·.id)) ++
  (((s.part n).lane.intake ++ (s.part n).lane.restarts).filter fun u => u.pages.any take).map (·.id) ++
  (if s.drainUses h then [(s.part n).drainId] else []) ++
  (s.cores.flatMap fun e => (e.2.attempts.filter fun a => decide (a.part = n) && a.pages.any take).map (·.id)) ++
  ((s.part n).keys.flatMap fun k => allCtx.filterMap fun c =>
    match (s.ctx k c).aux.far with
    | some f => if f.leaves.any take then some f.id else none
    | none => none)

/-! ## What belongs to a partition -/

/-- A message of a partition, or for one of its cores; `dev` is this package's device number. -/
def Msg.ofPart (m : Msg) (dev : BitVec 8) (n : Nat) (has : Key → Bool) : Bool :=
  match m with
  | .req r _ _ => decide (r.part = n)
  | .ent _ _ _ q => decide (q = n)
  | .ret k _ _ | .accept k _ | .ack k .. | .reply k .. => has k
  | .portion q .. => decide (q = n)
  | .lock _ r => decide (r.part = n)
  | .grant k .. | .done k .. => has k
  | .verdict q .. => decide (q = n)
  | .push mgr _ _ _ d core _ _ | .release mgr _ _ d core _ => has mgr || (decide (d = dev) && has core)
  | .away _ _ (.req r _ _) => decide (r.part = n)
  | .away _ _ (.portion q ..) | .away _ _ (.rounds q ..) | .rounds q .. => decide (q = n)
  | .ask r .. => decide (r.part = n)
  | .told k .. => has k
  | .away .. | .host .. | .ctl .. => false

/-- A request that came from a host port or from another package. -/
def Msg.guest (m : Msg) (dev : BitVec 8) : Bool :=
  match m with
  | .req r _ _ => r.host.isSome || decide (r.dev ≠ dev)
  | .ask r .. => decide (r.dev ≠ dev)
  | _ => false

/-- A held entry of a partition; notices to the host are not. -/
def Held.ofPart (h : Held) (n : Nat) (has : Key → Bool) : Bool :=
  match h.what with
  | .entry k .. | .record k .. => decide (h.part = n) || has k
  | .notice .. => false

end Sys2Proof.Machine
end

