-- ==== Sys2Proof/Machine/Launch.lean ====
section
/-! DEFINITION. Partition commands (14 R340 to R352; 17 R409, R410; 15 R376, R377): CREATE, DESTROY, LAUNCH and its start,
RESETCORE and its completion, SHOOT and its completion, MAPDONE. -/
namespace Sys2Proof
open Machine

/-- CONFIG of a new partition (02 Table 2.8). -/
def CreateArgs.config (x : CreateArgs) : Word :=
  let pallets := ((List.range 256).filter fun q => x.pallets.getLsbD q).length
  bit x.debug 63 ||| at_ x.grade.toNat 40 ||| at_ x.domsize.toNat 32 ||| at_ pallets 16 ||| at_ x.cfgtag.toNat 0

/-- The segments' images. -/
def LaunchArgs.segs (x : LaunchArgs) : List (Fin 4 × Word) := [(0, x.seg0), (1, x.seg1), (2, x.seg2), (3, x.seg3)]
/-- The segments that a launch names. -/
def LaunchArgs.named (x : LaunchArgs) : List (Fin 4 × Word) := x.segs.filter fun e => e.2 ≠ 0
/-- The target cores. -/
def LaunchArgs.targets (x : LaunchArgs) : List Key := rectKeys (x.row0.val, x.col0.val, x.rows, x.cols)

/-- The runs of a launch (R347 step 4, 09 R268). -/
def LaunchArgs.runs (x : LaunchArgs) : List CourseRun :=
  if x.runw = 0 then [] else
  (List.range x.rows).flatMap fun i => (List.range (x.cols / x.runw)).map fun j =>
    { leader := coreKey ((x.row0.val + i) * 64 + x.col0.val + j * x.runw), len := x.runw, clock := 0, fwd := [], done := [], last := [],
      again := [] }

/-- The start of context 0 (R347 step 3, 02 R41). -/
def LaunchArgs.start (x : LaunchArgs) : Start :=
  ⟨x.entry, x.arg1, x.arg2, 0, 0, 3, if x.sup then .supervisor else .user, 0, false, none⟩

end Sys2Proof

namespace Sys2Proof.Machine
open Sys2Proof

/-! ## CREATE (14 R340, R341, R344) -/

/-- The fields that R341, R343, R344, R367 and Table 2.8 turn away. -/
def State.createBad (s : State) (x : CreateArgs) : Bool :=
  decide (x.hods = 0) || decide (x.device ≠ s.device) || decide (x.domsize = 0 ∨ 192 < x.domsize.toNat) ||
    decide (x.root % 0x2000 ≠ 0 ∨ Loc.farEnd ≤ x.root) ||
    s.parts.any fun e => decide (e.2.state ≠ .free ∧
      (e.2.job = x.job ∨ e.2.pallets &&& x.pallets ≠ 0 ∨ e.2.hods &&& x.hods ≠ 0))

/-- The kilns of pallets at their reset values (07 R208). -/
def resetKilns (l : List (Nat × KilnSt)) (pallets : BitVec 256) : List (Nat × KilnSt) :=
  (l.filter fun e => !pallets.getLsbD (e.1 / 2))

/-- R344: reset values, CONFIG, versions 0, a new lane; the port becomes the owner (16 R390). -/
def createPart (port : Fin 2) (x : CreateArgs) (s : State) : Cmd := do
  check (s.holds port x.part) 3
  check (decide ((s.part x.part.val).state = .free)) 1
  check (!s.createBad x) 2
  let p : Part := { Part.init with
    state := .active, pallets := x.pallets, hods := x.hods, config := x.config, device := x.device, job := x.job,
    group := x.group, root := x.root, owner := port, since := none, held := s.cycle }
  let t := p.keys.foldl (fun s k => (s.setCore k Core.init).zeroCore k) s
  pure ({ t with sh := { t.sh with kilns := resetKilns t.sh.kilns x.pallets } }.setPart x.part.val p)

def evCreate (port : Fin 2) (x : CreateArgs) (s : State) : Option State := s.command port x.part (createPart port x)
def execCreate (port : Fin 2) (x : CreateArgs) (s : State) : Ending := fire s (evCreate port x s)

/-! ## DESTROY (14 R344; 17 R414) -/

/-- The states in which a partition may be destroyed (14 Table 14.2, 17 R407). -/
def PState.ends : PState → Bool
  | .active | .stopped | .saved | .incomplete => true
  | _ => false

/-- Everything of a partition leaves the shared machinery; requests from outside it stay and find it gone. -/
def State.discardPart (s : State) (n : Nat) : State :=
  let p := s.part n
  let sh := s.sh
  { s with
    launches := s.launches.filter fun l => decide (l.a.part.val ≠ n),
    sh := { sh with
      fabric := sh.fabric.filter fun m => m.guest s.device || !m.ofPart s.device n p.has,
      fallout := sh.fallout.filter fun e => e.2.guest s.device || !e.2.ofPart s.device n p.has,
      held := sh.held.filter fun h => !h.ofPart n p.has,
      copies := sh.copies.filter fun c => decide (c.req.part ≠ n),
      fetches := sh.fetches.filter fun f => decide (f.req.part ≠ n),
      asks := sh.asks.filter fun q => decide (q.req.part ≠ n),
      kilns := resetKilns sh.kilns p.pallets,
      atomics := sh.atomics.map fun e => (e.1, { e.2 with ports := e.2.ports.filter fun q => decide (q.2.1.part ≠ n) }),
      runs := sh.runs.filter fun r => !p.has r.leader } }

/-- A lock request of an attempt of a dispatch core of this package. -/
def LockReq.isOf (q : LockReq) (dev : BitVec 8) (a : Attempt) : Bool := decide (q.dev = dev ∧ q.part = a.part ∧ q.key = a.key)

/-- A message without the lock requests of an attempt, or its pushes and releases; none where nothing of it is left. -/
def Msg.without (m : Msg) (dev : BitVec 8) (k : Key) (a : Attempt) : Option Msg :=
  match m with
  | .lock _ r => if r.isOf dev a then none else some m
  | .grant c _ key .. => if c = k ∧ key = a.key then none else some m
  | .push _ _ _ key d c _ _ | .release _ _ key d c _ | .away _ _ (.push _ _ _ key d c _ _) =>
    if key = a.key ∧ d = dev ∧ c = k then none else some m
  | .portion n r d l => some (.portion n r d (l.filter fun q => !q.2.isOf dev a))
  | .away d j (.portion n r e l) => some (.away d j (.portion n r e (l.filter fun q => !q.2.isOf dev a)))
  | m => some m

/-- A push of an attempt of a dispatch core: to a manager of this package, or, with `away`, one that has not left for another. -/
def Msg.pushes (m : Msg) (dev : BitVec 8) (k : Key) (a : Attempt) (away : Bool) : Bool :=
  match m with
  | .push _ _ _ key d c _ _ => !away && decide (key = a.key ∧ d = dev ∧ c = k)
  | .away _ _ (.push _ _ _ key d c _ _) => away && decide (key = a.key ∧ d = dev ∧ c = k)
  | _ => false
/-- Such a push has not been written, or has not left. -/
def State.pushLeft (s : State) (k : Key) (a : Attempt) (away : Bool) : Bool :=
  (s.sh.fabric ++ s.sh.fallout.map (·.2)).any fun m => m.pushes s.device k a away

/-- A commit has begun: its pushes and releases are on their way. -/
def Stage.commits : Stage → Bool
  | .committing .. => true
  | _ => false
/-- An attempt has released its locks. -/
def Stage.unlocked : Stage → Bool
  | .failed | .recon _ => true
  | _ => false

/-- The locks, grants and pushes of an attempt that has not released its locks are withdrawn: from the managers, the lane and the
messages of this package, and by a release from those of other packages; a push that has left for one of these goes on. -/
def State.withdraw (s : State) (k : Key) (a : Attempt) : State :=
  if a.stage.unlocked then s else
  let t : State := { s with
    cores := s.cores.map fun e => (e.1, { e.2 with lkm := { e.2.lkm with
      queue := e.2.lkm.queue.filter (fun q => !q.isOf s.device a), coming := e.2.lkm.coming.filter fun q => q.2.1 ≠ a.key } }),
    sh := { s.sh with fabric := s.sh.fabric.filterMap fun m => m.without s.device k a,
                      fallout := s.sh.fallout.filterMap fun e => (e.2.without s.device k a).map fun m => (e.1, m) } }
  let t := t.updLane a.part fun l =>
    { l with portions := l.portions.map fun q => (q.1, q.2.1, q.2.2.filter fun r => !r.2.isOf s.device a) }
  if a.stage.commits && !s.pushLeft k a true then t else
  a.txn.tiles.foldl (fun t e =>
    let m := t.managerOf a.part a.pages e.2.1
    if m.1.dev = t.device then t else t.postTo k.val m.1.dev (.release m.1.keyOf m.2.1 a.key t.device k false)) t

/-- The recon context of an attempt has made its restart submission, which has left the core: the transaction goes on under its next
key. -/
def State.restarts (s : State) (k : Key) (a : Attempt) : Bool :=
  match a.stage with
  | .recon c => (s.ctx k c).aux.recon == some true && !((s.core k).injq.any fun r => !r.left && (match r.op with
      | .tsub _ (some f) => decide (f.1 = a.key)
      | _ => false))
  | _ => false

/-- An attempt whose dispatch core goes away ends with status 2, its locks released unwritten, and no verdict of it is awaited (11 Table
11.3). -/
def State.endAttempt (s : State) (n : Nat) (k : Key) (a : Attempt) : State :=
  ((s.withdraw k a).updLane n fun l => l.heardOf a.key).complete n k a.txn a.key 2 a.failures 0 a.sub a.host

/-- The restart of an attempt has been taken in: nothing on the way to the lane asks for it. -/
def State.restartTaken (s : State) (k : Key) (a : Attempt) : Bool :=
  s.restarts k a && !((s.sh.fabric ++ s.sh.fallout.map (·.2)).any fun m => match m with
    | .req r _ _ => (match r.op with
      | .tsub _ (some f) => decide (f.1 = a.key)
      | _ => false)
    | _ => false)

/-- The transactions of a partition end (14 R344): with status 2, or with status 0 where the commit has begun and every push to the
partition is written, those to other packages going on (log entry 127). Their locks at other packages are released, and entries go to
packages outside. One whose restart the lane has taken in ends as that restart. `s0` is the state before the partition's messages were
discarded. -/
def State.endTxns (s : State) (n : Nat) (s0 : State) : State :=
  let p := s.part n
  let live := p.keys.flatMap fun k => (s.core k).attempts.map fun a => (k, a)
  let s := live.foldl (fun s a =>
    if a.2.stage.commits && !s0.pushLeft a.1 a.2 false then s.complete n a.1 a.2.txn a.2.key 0 a.2.fails 0 a.2.sub a.2.host
    else if s0.restartTaken a.1 a.2 then s
    else s.endAttempt n a.1 a.2) s
  (p.lane.intake ++ p.lane.restarts).foldl (fun s u =>
    s.complete n (coreKey (coreOf u.txn.disp)) u.txn 0 2 u.fails 0 u.src u.host) s

/-- A message that a destroyed partition leaves behind belongs to no partition (number 64): an entry for a core of another package leaves
and one for its own cores is gone, and a request from outside finds the partition gone. -/
def Msg.orphan (m : Msg) (dev : BitVec 8) (n : Nat) : Option Msg :=
  match m with
  | .ent d e sup q => if q ≠ n then some m else if d.dev = dev then none else some (.ent d e sup 64)
  | .req r d j => some (if r.part = n then .req { r with part := 64 } d j else m)
  | .ask r d k a => some (if r.part = n then .ask { r with part := 64 } d k a else m)
  | m => some m
/-- What a destroyed partition leaves behind. -/
def State.orphans (s : State) (n : Nat) : State :=
  let mine := fun (e : Nat × Msg) => e.2.ofPart s.device n (s.part n).has
  let s := (s.sh.asks.filter fun q => q.req.part = n).foldl (fun s q => s.letGo q.req) s
  { s with sh := { s.sh with
      fabric := (s.sh.fabric ++ (s.sh.fallout.filter mine).map (·.2)).filterMap fun m => m.orphan s.device n,
      fallout := s.sh.fallout.filter fun e => !mine e } }

/-- A core of a destroyed partition: its contexts stop, its segments are absent, what it had under way is gone; registers,
CSRs, counters and trace records keep their values until a CREATE (R344, R352, 17 R415). -/
def Core.ended (co : Core) : Core :=
  { Core.init with ctxs := co.ctxs.map fun x => { x with run := .idle, aux := Aux.init },
                   csr := { co.csr with seg := Vector.replicate 4 0 },
                   log := co.log, logHead := co.logHead, wnum := co.wnum, kcfg := co.kcfg, kcfgIssue := co.kcfg, kterms := co.kterms,
                   counters := co.counters, trace := co.trace }

/-- R344: every core stops at once, nothing is saved, the pallets and hods are free. -/
def destroyPart (part : Fin 64) (s : State) : Cmd := do
  let n := part.val
  let p := s.part n
  check p.state.ends 1
  let t := ((s.discardPart n).endTxns n s).orphans n
  let t := p.keys.foldl (fun t k =>
    let co := t.core k
    let t := t.zero (Loc.imem k.val 0) (Loc.imem k.val 0x8000)
    t.setCore k co.ended) t
  pure (t.setPart n Part.init)

def evDestroy (port : Fin 2) (part : Fin 64) (s : State) : Option State := s.command port part (destroyPart part)
def execDestroy (port : Fin 2) (part : Fin 64) (s : State) : Ending := fire s (evDestroy port part s)

/-! ## LAUNCH (14 R346, R347) -/

/-- The breaches of R346 that give status 2. -/
def State.launchBad (s : State) (x : LaunchArgs) : Bool :=
  let p := s.part x.part.val
  let es := Fin.ofNat 4 (x.entry.toNat / 0x2000)
  decide (x.rows = 0 ∨ 64 < x.rows ∨ x.cols = 0 ∨ 64 < x.cols ∨ 64 < x.row0.val + x.rows ∨ 64 < x.col0.val + x.cols) ||
  decide (x.runw = 1 ∨ 16 < x.runw ∨ (x.runw ≠ 0 ∧ x.cols % x.runw ≠ 0)) || x.entry.getLsbD 0 ||
  (x.segs.any fun e => !farAddr e.2 || decide (e.2.toNat % 64 ≠ 0)) ||
  !farAddr x.slsrc || decide (x.slsrc.toNat % 64 ≠ 0 ∨ x.sloff % 64 ≠ 0 ∨ x.sllen % 64 ≠ 0 ∨ 0x100000 < x.sloff + x.sllen) ||
  (x.targets.any fun k => !p.has k ||
    (decide ((x.segs.getD es.val (0, 0)).2 = 0) && decide ((s.core k).csr.seg[es].toNat % 4 ≠ 2)))

/-- The conditions of R346 that give status 5. -/
def State.launchBusy (s : State) (x : LaunchArgs) : Bool :=
  x.targets.any fun k =>
    let co := s.core k
    decide ((co.ctx 0).run ≠ .idle) || (s.runOf k).isSome ||
    x.named.any fun e => decide (co.csr.seg[e.1].toNat % 4 = 1) ||
      allCtx.any fun c => decide ((co.ctx c).run ≠ .idle ∧ (co.ctx c).pc.toNat / 0x2000 = e.1.val)

/-- R346: the launch is accepted, and its segments are loading (14 Table 14.7). -/
def launchCmd (port : Fin 2) (x : LaunchArgs) (s : State) : Cmd := do
  s.early (s.part x.part.val)
  check (!s.launchBad x) 2
  check (!s.launchBusy x) 5
  let (id, s) := s.freshId
  let t := x.targets.foldl (fun s k => s.updCore k fun co => x.named.foldl (fun co e => co.setSeg e.1 (segWord 1 0 0)) co) s
  pure { t with launches := t.launches ++ [⟨id, port, x, none⟩] }

def evLaunch (port : Fin 2) (x : LaunchArgs) (s : State) : Option State := s.command port x.part (launchCmd port x)
def execLaunch (port : Fin 2) (x : LaunchArgs) (s : State) : Ending := fire s (evLaunch port x s)

/-- An image translated in supervisor mode before its first byte moves (15 Table 15.1): its leaves, or the failing
address. -/
def State.transImage (s : State) (n : Nat) (a : Access) (va : Word) (len : Nat) : State × Except Nat (List Leaf) :=
  match s.translateAll n 0 a true (blockSpan va.toNat len) with
  | (s, .ok ls) => (s, .ok ls)
  | (s, .error e) => (s, .error e.2)

/-- The bytes of an image. -/
def State.imageBytes (s : State) (pages : List Leaf) (va : Word) (len : Nat) : List (Byte × Bool) :=
  s.endBytes (0, 0) ⟨va, 1, len, 0, false, false⟩ 0 pages 0 len

/-- Segment images land in order; the answer is the failing address and the segments left, if a translation fails. -/
def State.landSegs (s : State) (n : Nat) (ts : List Key) : List (Fin 4 × Word) → State × Option (Nat × List (Fin 4))
  | [] => (s, none)
  | e :: es =>
    match s.transImage n .fetch e.2 0x2000 with
    | (s, .error va) => (s, some (va, e.1 :: es.map (·.1)))
    | (s, .ok ls) =>
      let bs := s.imageBytes ls e.2 0x2000
      let s := ts.foldl (fun s k =>
        (s.putFar (bs.zipIdx.map fun b => (Loc.imem k.val (e.1.val * 0x2000 + b.2), b.1.1, b.1.2))).updCore k
          fun co => co.setSeg e.1 (segWord 2 0 0)) s
      s.landSegs n ts es

/-- The slice image lands, line by line and not logged; the answer is the failing address, if any. Loads of the spill area tell nothing
of it (06 R176). -/
def State.landSlice (s : State) (n : Nat) (x : LaunchArgs) : State × Option Nat :=
  if x.sllen = 0 then (s, none) else
  match s.transImage n .read x.slsrc x.sllen with
  | (s, .error va) => (s, some va)
  | (s, .ok ls) =>
    let bs := s.imageBytes ls x.slsrc x.sllen
    (x.targets.foldl (fun s k =>
      (s.putFar (bs.zipIdx.map fun b => (Loc.local_ k (x.sloff + b.2), b.1.1, b.1.2))).spilled k) s, none)

/-- The images of a launch land, and its start is fixed (R347 steps 1 and 2); or it stops with a notice. -/
def State.landLaunch (s : State) (l : LaunchJob) : State :=
  let n := l.a.part.val
  let drop := fun (s : State) => { s with launches := s.launches.filter fun q => q.id ≠ l.id }
  match s.landSegs n l.a.targets l.a.named with
  | (s, some (va, left)) =>
    let s := l.a.targets.foldl (fun s k => s.updCore k fun co => left.foldl (fun co i => co.setSeg i 0) co) s
    (drop s).stateNotice n true va 0
  | (s, none) => match s.landSlice n l.a with
    | (s, some va) => (drop s).stateNotice n true va 0
    | (s, none) => { s with launches := s.launches.map fun q => if q.id = l.id then { q with ts := some s.tick2 } else q }

/-- R347: first the images land, then, at TS, every target starts its idle context 0. A target that is being reset is waited for (log
entry 143). -/
def evLaunchStart (i : Nat) (s : State) : Option State :=
  match s.launches[i]? with
  | none => none
  | some l =>
    let n := l.a.part.val
    if !(s.part n).live || (l.a.targets.any fun k => (s.core k).resetting.isSome) then none else
    match l.ts with
    | none => some (s.landLaunch l)
    | some t =>
      if s.now < t || (l.a.targets.any fun k => decide ((s.ctx k 0).run ≠ .idle)) then none else
      let u : State := { s with launches := s.launches.filter (fun q => q.id ≠ l.id), sh := { s.sh with runs := s.sh.runs ++ l.a.runs } }
      let u := l.a.targets.foldl (fun u k => u.startCtx k 0 l.a.start) u
      some (u.stateNotice n false 0 0)
def execLaunchStart (i : Nat) (s : State) : Ending := fire s (evLaunchStart i s)

/-! ## RESETCORE (14 R345; 17 R409, R410) -/

/-- Every destination register with a generation (06 R191). -/
def allDests : List Dest :=
  ((List.finRange 32).map fun r => Dest.reg (.x r)) ++ ((List.finRange 32).map fun r => Dest.reg (.v r)) ++ [.trecon]

/-- A context after a core reset: idle, its generations advanced (R409 step 1). -/
def Ctx.reset (x : Ctx) : Ctx :=
  { Ctx.init with aux := { Aux.init with gens := allDests.map fun d => (d, x.gen d + 1) } }

/-- The transactions of a dispatch core end with status 2 (R409 step 5), the submissions that its lane has not numbered yet among
them. One that restarts goes on, and a commit that has begun was not lost before it (log entry 127). -/
def State.endAttempts (s : State) (n : Nat) (k : Key) : State :=
  let here := fun (u : Sub) => decide (coreKey (coreOf u.txn.disp) = k)
  let l := (s.part n).lane
  let s := (s.core k).attempts.foldl (fun s a => if s.restarts k a || a.stage.commits then s else s.endAttempt n k a) s
  let s := s.updLane n fun l => { l with intake := l.intake.filter fun u => !here u, restarts := l.restarts.filter fun u => !here u }
  ((l.intake ++ l.restarts).filter here).foldl (fun s u => s.complete n k u.txn 0 2 u.fails 0 u.src u.host) s

/-- Requests of a core for its engines are abandoned (R409 step 3). -/
def State.endEngines (s : State) (k : Key) : State :=
  let mine := fun (r : Req) => decide (r.src = k) && r.host.isNone && (match r.op with | .copy _ | .cfetch .. => true | _ => false)
  let gone := (s.sh.copies.map (·.req) ++ s.sh.fetches.map (·.req) ++
    s.sh.fabric.filterMap fun m => match m with | .req r _ _ => some r | _ => none).filter mine
  let s := gone.foldl (fun s r => (s.releaseRanges r.rangeName k).letGo r) s
  { s with sh := { s.sh with
    copies := s.sh.copies.filter fun c => !mine c.req,
    fetches := s.sh.fetches.filter fun f => !mine f.req,
    fabric := s.sh.fabric.filter fun m => match m with | .req r _ _ => !mine r | _ => true,
    held := s.sh.held.filter fun h => match h.what with | .record j .. => decide (j ≠ k) | _ => true } }

/-- Kiln tiles of other cores that read the core's slice are abandoned with 0x0B (R410). -/
def KCmd.lose (c : KCmd) (k : Key) : KCmd :=
  if c.started.isSome && (c.ops.any fun o => decide (coreKey (coreOf o.a) = k)) then { c with err := some 0x0B } else c

/-- What a core reset keeps of an attempt: a commit that has begun goes on without its context. -/
def Attempt.kept (a : Attempt) : Option Attempt :=
  match a.stage with
  | .committing _ p r => some { a with stage := .committing none p r }
  | _ => none

/-- R409: the core is idle, its work is gone, and until the reset completes it answers as R410 says. Its lock manager keeps
its queues and versions; its trace buffer and counters are as after reset. A launch that has not started loses its images there: they land
again after the reset (log entry 143). -/
def resetCore (part : Fin 64) (k : Key) (s : State) : Cmd := do
  let n := part.val
  s.early (s.part n)
  check (!isHod k && (s.part n).has k) 2
  let s := s.breakRun k 0x0B (s.ctx k 0).pc
  let s : State := (s.endAttempts n k).endEngines k
  let s := (s.core k).kq.foldl (fun s c => s.releaseRanges (.kiln c.id) k) s
  let s : State := { s with cores := s.cores.map fun e => (e.1, { e.2 with kq := e.2.kq.map fun c => c.lose k }) }
  let again := fun (l : LaunchJob) => if l.a.targets.contains k then { l with ts := none } else l
  let s : State := { s with launches := s.launches.map again }
  let co := s.core k
  pure (s.setCore k { Core.init with
    ctxs := co.ctxs.map Ctx.reset, lkm := co.lkm, attempts := co.attempts.filterMap Attempt.kept, resetting := some (co.rq.length + (co.resetting.getD 0)) })

def evResetcore (port : Fin 2) (part : Fin 64) (k : Key) (s : State) : Option State :=
  s.command port part (resetCore part k)
def execResetcore (port : Fin 2) (part : Fin 64) (c : Key) (s : State) : Ending := fire s (evResetcore port part c s)

/-- R409: the slice and instruction memory are zero, and the owner receives a class 3 report. -/
def evResetComplete (k : Key) (s : State) : Option State :=
  match (s.core k).resetting, s.partOf k with
  | some n, some q =>
    if !(s.part q).live then none else
    let t := (s.zeroCore k).updCore k fun co => { co with resetting := none }
    some (t.report q 3 (some k) 0 0 n (at_ (index k) 0) 0 0 0)
  | _, _ => none
def execResetComplete (c : Key) (s : State) : Ending := fire s (evResetComplete c s)

/-! ## SHOOT and MAPDONE (15 R376, R377) -/

/-- R377: the leaves are removed at once; the completion follows their last use. A partition that a fatal error has stopped takes
no SHOOT (17 R407). -/
def shootCmd (port : Fin 2) (part : Fin 64) (scope : Fin 3) (va : Word) (s : State) : Cmd := do
  let n := part.val
  let p := s.part n
  check (decide (p.state ≠ .free) && !(p.fatal && !p.live)) 1
  check (decide (scope = 2) || farAddr va) 2
  let ks := if scope = 2 then (hodsOf p.hods).map hodKey else [hodKey (sliceOf p.hods va.toNat)]
  let t := ks.foldl (fun s k => s.updCore k fun co => { co with tlb := co.tlb.filter fun l => !shot n scope va l }) s
  let h : Shoot := ⟨port, n, scope, va, s.pageAt n va.toNat, []⟩
  pure { t with shoots := t.shoots ++ [{ h with users := s.leafUsers h }] }

def evShoot (port : Fin 2) (part : Fin 64) (scope : Fin 3) (va : Word) (s : State) : Option State :=
  s.command port part (shootCmd port part scope va)
def execShoot (port : Fin 2) (part : Fin 64) (scope : Fin 3) (va : Word) (s : State) : Ending :=
  fire s (evShoot port part scope va s)

/-- R377: no operation uses a removed leaf any more; the port that sent the SHOOT is told (16 Table 16.3, SUB 4). -/
def evShootComplete (i : Nat) (s : State) : Option State :=
  match s.shoots[i]? with
  | none => none
  | some h =>
    if h.users.any fun u => (s.leafUsers h).contains u then none else
    let t := { s with shoots := s.shoots.eraseIdx i }
    some (t.notice h.port
      (hostNotice 0 0 false 0 4 (at_ h.part 0 ||| at_ h.scope.val 8) 0 (at_ h.part 0) 0 h.va 0))
def execShootComplete (i : Nat) (s : State) : Ending := fire s (evShootComplete i s)

/-- R376: the map notice of Table 15.7 arrives at the named core. -/
def mapdoneCmd (part : Fin 64) (k : Key) (c : CtxNo) (va a1 a2 : Word) (s : State) : Cmd := do
  let p := s.part part.val
  check p.live 1
  check (p.has k) 2
  let w := at_ 2 0 ||| at_ c.val 8 ||| BitVec.ofNat 64 (a2.toNat % 2 ^ 54 * 1024)
  pure (s.offer k (entry 7 s.device 0 false 0 0 0 a1 w va 0 0) false)

def evMapdone (port : Fin 2) (part : Fin 64) (k : Key) (c : CtxNo) (va a1 a2 : Word) (s : State) : Option State :=
  s.command port part (mapdoneCmd part k c va a1 a2)
def execMapdone (port : Fin 2) (part : Fin 64) (c : Key) (k : CtxNo) (va arg1 arg2 : Word) (s : State) : Ending :=
  fire s (evMapdone port part c k va arg1 arg2 s)

end Sys2Proof.Machine
end

