-- ==== Sys2Proof/Machine/Gang.lean ====
section
/-! DEFINITION. Gang pre-emption (14 R354 to R363; 15 R382, R383): PREEMPT, the stop, quiescence, the save drain, SAVECONT,
RESUME, RESTORE and the resumption. -/
namespace Sys2Proof.Machine
open Sys2Proof

/-! ## PREEMPT and the stop (14 R354, R355) -/

/-- R354, R363; the fields' ranges are those of Table 14.2. -/
def preemptCmd (part : Fin 64) (t : Nat) (va : Word) (len : Nat) (s : State) : Cmd := do
  let p := s.part part.val
  check (p.state == .active) 1
  check (farAddr va && decide (va.toNat % 0x10000 = 0 ∧ len % 0x10000 = 0)) 2
  check (s.timeOk t) 4
  pure (s.setPart part.val { p with state := .armed, t := t, saveva := va, savelen := len, progress := 0, drained := [] })

def evPreempt (port : Fin 2) (part : Fin 64) (t : Nat) (va : Word) (len : Nat) (s : State) : Option State :=
  s.command port part (preemptCmd part t va len)
def execPreempt (port : Fin 2) (part : Fin 64) (t : Nat) (saveva : Word) (savelen : Nat) (s : State) : Ending :=
  fire s (evPreempt port part t saveva savelen s)

/-- A release that is fixed and has not reached its core, after a stop at a running cycle (09 R273): where it has left the corner, a
hop under way is made again in full; before, the sweep is as if the stop had been known. -/
def State.freeze (s : State) (k : Key) (n : Fin 4) (stops : List Nat) (clock : Nat) (a : Arrival) : Arrival :=
  match a.rel with
  | none => a
  | some t =>
    if t ≤ clock then a else
    let r := (s.core k).rect n
    let i := (rowOf k.val - r.1) * r.2.2.2 + (colOf k.val - r.2.1)
    let d := (r.2.2.1 - 1 - i / r.2.2.2) + i % r.2.2.2
    if t ≤ clock + 2 * d then { a with rel := some (clock + (t - clock + 1) / 2 * 2) } else
    match (rectKeys r).mapM fun j => (s.core j).bars[n] with
    | some as => { a with rel := (releases stops r.2.2.1 r.2.2.2 (as.map (·.at_)))[i]? }
    | none => a

/-- A trace record of KIND 9 for every context that is not idle (18 Table 18.4). -/
def State.traceGang (s : State) (k : Key) (aux : Nat) : State :=
  allCtx.foldl (fun s c => if (s.ctx k c).run == .idle then s else s.trace k c 9 (s.ctx k c).pc 0 aux) s

/-- A core stops: its unread tile goes back, its sweeps freeze, its windows close (14 R354, R355, R358; 07 R230). -/
def State.stopCore (s : State) (k : Key) (bars : Vector (Option Arrival) 4) : State :=
  let s := s.kilnStop k
  let s := s.updCore k fun co =>
    { co with bars := bars, ctxs := co.ctxs.map fun x => { x with aux := { x.aux with windows := [] } } }
  s.traceGang k 0

/-- The pallet whose router keeps a message that falls out: its destination's; 256 stands for the edge routers (log entry
102). -/
def Msg.pallet (m : Msg) : Nat :=
  let at_ := fun (k : Nat) => if k < 4096 then palletOf k else 256
  match m with
  | .req _ d _ | .ent d _ _ _ | .ask _ d .. => at_ d.key
  | .ret k _ _ | .accept k _ | .ack k .. | .reply k .. | .lock k _ | .grant k .. | .done k .. | .push k .. | .release k .. | .told k .. =>
    at_ k.val
  | .portion .. | .verdict .. | .host .. | .rounds .. | .ctl .. | .away .. => 256

/-- A message that falls out at the stop of a partition (14 R357): all of its messages, a host port's records too, but the requests
whose replies are awaited, and those replies (Table 14.8). -/
def Msg.falls (m : Msg) (dev : BitVec 8) (n : Nat) (has : Key → Bool) : Bool :=
  m.ofPart dev n has && (match m with
    | .req r _ _ => r.host.isSome || !(r.op.awaited && decide (r.dev = dev))
    | .reply .. => false
    | .away _ _ (.req r _ _) => !r.op.awaited
    | _ => true)

/-- The messages of a partition fall out, in their order. -/
def State.fallOut (s : State) (n : Nat) : State :=
  let out := fun (m : Msg) => m.falls s.device n (s.part n).has
  { s with sh := { s.sh with
      fabric := s.sh.fabric.filter fun m => !out m,
      fallout := s.sh.fallout ++ (s.sh.fabric.filter out).map fun m => (m.pallet, m) } }

/-- They go on ahead of every other message (14 R362). -/
def State.reinject (s : State) (n : Nat) : State :=
  let mine := fun (e : Nat × Msg) => e.2.ofPart s.device n (s.part n).has
  { s with sh := { s.sh with
      fabric := (s.sh.fallout.filter mine).map (·.2) ++ s.sh.fabric,
      fallout := s.sh.fallout.filter fun e => !mine e } }

/-- The counts that the Slaup ports have reported for control flits: what arrives within 128 of them was credited (16 R400). -/
def State.creditsNow (s : State) : List (BitVec 16) := s.slaup.toList.flatMap fun x => x.ctl.toList.map (·.reported)

/-- R354: at T every core and hod of the partition stops; its clocks freeze, its messages fall out. -/
def evGangStop (part : Fin 64) (s : State) : Option State :=
  let n := part.val
  let p := s.part n
  if p.state ≠ .armed ∨ s.now < p.t then none else
  let clock := p.clock s.cycle
  let stops := p.stops ++ [clock]
  let bars := fun (k : Key) => Vector.ofFn fun (n : Fin 4) => (s.core k).bars[n].map (s.freeze k n stops clock)
  let u := (p.keys.foldl (fun s k => s.stopCore k (bars k)) s).fallOut n
  some (u.setPart n { p with state := .stopping, since := some s.cycle, stops := stops, credits := s.creditsNow })
def execGangStop (part : Fin 64) (s : State) : Ending := fire s (evGangStop part s)

/-! ## Quiescence (14 R358) -/

/-- The context awaits the reply of a request that has left (06 R153); one that has not left is saved as it stands. -/
def Core.awaits (co : Core) (x : Ctx) : Bool :=
  x.aux.outs.any fun o => o.due.isSome && !(co.injq.any fun r => decide (r.id = o.id) && !r.left)

/-- A core is done: no completing tile, no awaited reply. -/
def Core.stoppedWell (co : Core) : Bool :=
  !(co.kq.any fun c => c.started.isSome) && allCtx.all fun c => !co.awaits (co.ctx c)

/-- The swap area of a core is written whole: the images of its contexts are not in error (17 R404). -/
def State.swapOut (s : State) (k : Key) : State := allCtx.foldl (fun s c => s.flyClear k c 9) s

/-- The drain of a partition begins, or goes on, under a new name (15 R377). -/
def State.beginDrain (s : State) (n : Nat) (p : Part) : State :=
  let r := s.freshId
  r.2.setPart n { p with state := .saving, drainId := r.1 }

/-- R358: the swap areas are written; the partition is STOPPED and the host told, or SAVING at once. -/
def evQuiescence (part : Fin 64) (s : State) : Option State :=
  let n := part.val
  let p := s.part n
  if p.state ≠ .stopping || !(p.keys.all fun k => (s.core k).stoppedWell) then none else
  let t := p.keys.foldl State.swapOut s
  if p.saveva = 0 || p.fatal then some ((t.setPart n { p with state := .stopped }).stateNotice n false 0 0)
  else some (t.beginDrain n p)
def execQuiescence (part : Fin 64) (s : State) : Ending := fire s (evQuiescence part s)

/-! ## Live ranges (14 R360, 08 R255, 15 R382) -/

/-- The entries of a live-range table at an offset of a slice: offset, length. -/
def State.liveTable (s : State) (k : Key) (o : Nat) : List (Nat × Nat) :=
  (List.range (s.peek k o 8 % 128)).map fun i =>
    let e := BitVec.ofNat 64 (s.peek k (o + 64 + 8 * i) 8)
    (bits e 19 0, bits e 52 32)

/-- A line of 64 bytes of a slice is live. -/
def State.lineLive (s : State) (k : Key) (l : Nat) : Bool :=
  let co := s.core k
  let lo := 64 * l
  let meets := fun (a n : Nat) => overlap lo (lo + 64) a (a + n)
  let tables := allCtx.filterMap fun c => (co.ctx c).csr.chk
  tables.isEmpty || (tables.any fun o => (s.liveTable k o.toNat).any fun e => meets e.1 e.2) ||
  meets co.spillBase co.spillLen || co.landingHit none lo (lo + 64) ||
  co.ranges.any fun r => overlap lo (lo + 64) r.lo r.hi

/-- Ascending lines merged into ranges of offsets: start, length. -/
def mergeLines : List Nat → List (Nat × Nat)
  | [] => []
  | l :: r => match mergeLines r with
    | [] => [(64 * l, 64)]
    | (a, n) :: t => if 64 * l + 64 = a then (64 * l, n + 64) :: t else (64 * l, 64) :: (a, n) :: t

/-- The live ranges of a core's slice. -/
def State.liveRanges (s : State) (k : Key) : List (Nat × Nat) :=
  mergeLines ((List.range 16384).filter fun l => s.lineLive k l)

/-- The gaps between ascending ranges, up to the end of a slice. -/
def gaps : Nat → List (Nat × Nat) → List (Nat × Nat)
  | lo, [] => if lo < 0x100000 then [(lo, 0x100000)] else []
  | lo, (a, n) :: r => if lo < a then (lo, a) :: gaps (a + n) r else gaps (a + n) r

/-! ## The save area (14 R359, Tables 14.9 and 14.10; 15 R382) -/

/-- Bytes of the layout: where they stand, how many, and the place of the byte store they come from, or their value, which may be in
error. -/
structure AreaPiece where
  off : Nat
  n : Nat
  src : Option Nat
  val : Nat
  bad : Bool
  deriving DecidableEq, Repr

/-- The cores of a partition in ascending index. -/
def Part.cores (p : Part) : List Nat := (List.range 4096).filter fun c => p.pallets.getLsbD (palletOf c)
def Part.npallets (p : Part) : Nat := ((List.range 256).filter fun q => p.pallets.getLsbD q).length

/-- Where the core records, the hod records and the live ranges begin. -/
def Part.coreBase (p : Part) : Nat := 0x10000 + (p.npallets + 1) * 0x20000
def Part.hodBase (p : Part) : Nat := p.coreBase + 16 * p.npallets * 0x80000
def Part.liveBase (p : Part) : Nat := p.hodBase + (hodsOf p.hods).length * 0x80000

/-- Live ranges with their place in the live-range area: offset there, slice place, length. -/
def livePlaces : Nat → List (Nat × List (Nat × Nat)) → List (Nat × Nat × Nat)
  | _, [] => []
  | o, (c, rs) :: t =>
    let here := rs.foldl (fun (a : Nat × List (Nat × Nat × Nat)) r => (a.1 + r.2, a.2 ++ [(a.1, Loc.slice c r.1, r.2)])) (o, [])
    here.2 ++ livePlaces here.1 t

/-- The bytes of the live ranges. -/
def liveBytes (l : List (Nat × List (Nat × Nat))) : Nat :=
  (l.map fun e => (e.2.map (·.2)).foldl (· + ·) 0).foldl (· + ·) 0

/-- The header's words (Table 14.9) with their STATE. -/
def Part.header (p : Part) (live state : Nat) : List Nat :=
  [0x10000, state, p.t, p.config.toNat, p.pallets.toNat % 2 ^ 64, p.pallets.toNat / 2 ^ 64 % 2 ^ 64,
   p.pallets.toNat / 2 ^ 128 % 2 ^ 64, p.pallets.toNat / 2 ^ 192, p.hods.toNat, live]

/-- The descriptor word of an undo entry (11 Table 11.6). -/
def LogEntry.word (e : LogEntry) : Word :=
  match e.kind with
  | .slice c r d k _ o => at_ c.val 58 ||| bit r 57 ||| at_ d.toNat 44 ||| at_ k.toNat 32 ||| at_ o.toNat 0
  | .marker c t n => at_ 1 60 ||| at_ c.val 58 ||| at_ t.val 40 ||| at_ n.toNat 0
  | .csr c n => at_ 2 60 ||| at_ c.val 58 ||| at_ n.val 32
  | .reg c cls r i => at_ 3 60 ||| at_ c.val 58 ||| at_ cls.val 56 ||| at_ r.val 48 ||| at_ i.val 45
  | .void => at_ 4 60

/-- The undo entry of two words: the old value and the descriptor word. Table 11.6 gives a writer no hod flag. -/
def LogEntry.ofWords (old w : Word) (whod : Bool) : LogEntry :=
  let c := Fin.ofNat 4 (bits w 59 58)
  ⟨match bits w 63 60 with
    | 0 => .slice c (w.getLsbD 57) (BitVec.ofNat 8 (bits w 51 44)) (BitVec.ofNat 12 (bits w 43 32)) whod (BitVec.ofNat 20 (bits w 19 0))
    | 1 => .marker c (Fin.ofNat 7 (bits w 42 40)) (BitVec.ofNat 16 (bits w 15 0))
    | 2 => .csr c (Fin.ofNat 512 (bits w 40 32))
    | 3 => .reg c (Fin.ofNat 3 (bits w 57 56)) (Fin.ofNat 32 (bits w 52 48)) (Fin.ofNat 8 (bits w 47 45))
    | _ => .void, old⟩
/-- The writer of an undo entry is a hod. -/
def LogEntry.byHod (e : LogEntry) : Bool :=
  match e.kind with
  | .slice _ _ _ _ h _ => h
  | _ => false

/-- The entries of the receive queue that are not in the spill area. -/
def Core.rqHeld (co : Core) : List RqItem := (co.rq.filter fun i => i.place != .spill).take 64

/-- The place in the log of the entry with a number, from LOGTAIL on. -/
def Core.logPlace (co : Core) (i : Nat) : Nat := co.logHead - co.log.length + i

/-- What the spec gives both a place and a form in the layout: header, accumulator tiles (02 R45), instruction memories, receive queues (06
Table 6.6), undo logs from LOGTAIL on (11 Table 11.6), staging SRAM, live ranges. -/
def State.pieces (s : State) (p : Part) (ranges : List (Nat × List (Nat × Nat))) : List AreaPiece :=
  let rec_ := fun (c : Nat × Nat) (off : Nat) => p.coreBase + c.2 * 0x80000 + off
  ((p.header (liveBytes ranges) 0).zipIdx.map fun w => ⟨8 * w.2, 8, none, w.1, false⟩) ++
  (p.cores.zipIdx.flatMap fun c => (List.range 4).map fun t => ⟨rec_ c (0x5000 + 0x4000 * t), 0x4000, some (Loc.acc c.1 t 0), 0, false⟩) ++
  (p.cores.zipIdx.map fun c => ⟨rec_ c 0x15000, 0x8000, some (Loc.imem c.1 0), 0, false⟩) ++
  (p.cores.zipIdx.flatMap fun c => (s.core (coreKey c.1)).rqHeld.zipIdx.map fun i =>
    ⟨rec_ c (0x1D000 + 64 * i.2), 64, none, i.1.e.toNat, i.1.err == some true⟩) ++
  (p.cores.zipIdx.flatMap fun c => let co := s.core (coreKey c.1); co.log.reverse.zipIdx.map fun e =>
    ⟨rec_ c (0x27000 + 16 * e.2), 16, none, e.1.old.toNat + e.1.word.toNat <<< 64, co.logUe.contains (co.logPlace e.2)⟩) ++
  ((hodsOf p.hods).zipIdx.map fun h => ⟨p.hodBase + h.2 * 0x80000 + 0x4000, 0x40000, some (Loc.staging h.1 0), 0, false⟩) ++
  (livePlaces p.liveBase ranges).map fun e => ⟨e.1, e.2.2, some e.2.1, 0, false⟩

/-- A byte of the layout and whether its word is in error; none where the spec gives it no value. -/
def State.pieceByte (s : State) (ps : List AreaPiece) (o : Nat) : Option (Byte × Bool) :=
  ps.findSome? fun p => if p.off ≤ o && o < p.off + p.n then
    some (match p.src with
      | some a => (s.sh.mem.get (a + (o - p.off)), s.badAt (a + (o - p.off)))
      | none => (BitVec.ofNat 8 (p.val >>> (8 * (o - p.off))), p.bad)) else none

/-- n bytes of the layout from an offset written at a physical address: given bytes, poisoned where their words are in error (17
R404), and free bytes elsewhere (log entry 20). -/
def State.writeArea (s : State) (ps : List AreaPiece) (phys off n : Nat) : State :=
  let t : State := { s.setMem (s.sh.mem.fill phys (phys + n) (some s.m.freeCtr)) with
    m := { s.m with freeCtr := s.m.freeCtr + 1 } }
  let clear := fun w => decide (8 * w + 8 ≤ phys ∨ phys + n ≤ 8 * w)
  let t : State := { t with sh := { t.sh with ue := t.sh.ue.filter clear, ce := t.sh.ce.filter clear } }
  t.putFar ((List.range n).filterMap fun i => (s.pieceByte ps (off + i)).map fun b => (phys + i, b.1, b.2))

/-- The drain, page by page: the state, and the failing address if it stops (14 R361). -/
def State.drain (n : Nat) (ps : List AreaPiece) (total : Nat) : Nat → State → State × Option Nat
  | 0, s => (s, none)
  | fuel + 1, s =>
    let p := s.part n
    if total ≤ p.progress then (s, none)
    else if p.savelen ≤ p.progress then (s, some (p.saveva.toNat + p.savelen))
    else
      let va := p.saveva.toNat + p.progress
      match s.translate n va 0 .write true with
      | .error _ => (s, some va)
      | .ok (s, l) =>
        let next := min total (min p.savelen ((p.progress / 0x10000 + 1) * 0x10000))
        let s := s.writeArea ps (l.phys va) p.progress (next - p.progress)
        State.drain n ps total fuel (s.setPart n { p with progress := next, drained := p.drained ++ [l.phys va] })

/-- The shared machinery of a partition alone; its memories are in the layout. -/
def State.sharedOf (s : State) (n : Nat) : Shared :=
  let p := s.part n
  let sh := s.sh
  { mem := ⟨[], []⟩, ue := [], ce := [], fabric := sh.fabric.filter fun m => m.ofPart s.device n p.has && !m.guest s.device,
    fallout := sh.fallout.filter fun e => e.2.ofPart s.device n p.has,
    held := sh.held.filter fun h => h.ofPart n p.has, copies := sh.copies.filter fun c => decide (c.req.part = n),
    fetches := sh.fetches.filter fun f => decide (f.req.part = n), asks := sh.asks.filter fun q => decide (q.req.part = n),
    kilns := sh.kilns.filter fun e => p.pallets.getLsbD (e.1 / 2),
    atomics := sh.atomics.filterMap fun e =>
      let q := e.2.ports.filter fun q => decide (q.2.1.part = n)
      if q.isEmpty then none else some (e.1, { e.2 with ports := q }),
    runs := sh.runs.filter fun r => p.has r.leader }

/-- The correctable entries of a receive queue are corrected and counted. -/
def State.countHeld (s : State) (k : Key) : State :=
  let n := ((s.core k).rq.filter fun i => i.err == some false).length
  (List.range n).foldl (fun s _ => s.countOneCe k)
    (s.updCore k fun co => { co with rq := co.rq.map fun i => if i.err == some false then { i with err := none } else i })

/-- The correctable words that the drain reads are counted for their cores (17 R415). -/
def State.countDrain (s : State) (p : Part) (ranges : List (Nat × List (Nat × Nat))) : State :=
  let s := ranges.foldl (fun s e => s.countCe (coreKey e.1) e.2) s
  let s := p.cores.foldl (fun s c =>
    (s.countHeld (coreKey c)).countCeAt (coreKey c) [(Loc.imem c 0, 0x8000), (Loc.acc c 0 0, 0x10000)]) s
  (hodsOf p.hods).foldl (fun s h => s.countCe (hodKey h) [(0, 0x40000)]) s

/-- R359, R361: the drain ends. The header is written last, with STATE 1; or the partition is INCOMPLETE. -/
def evSaveDrainEnd (part : Fin 64) (s : State) : Option State :=
  let n := part.val
  let p := s.part n
  if p.state ≠ .saving then none else
  let ranges := p.cores.map fun c => (c, s.liveRanges (coreKey c))
  let total := p.liveBase + liveBytes ranges
  match (s.countDrain p ranges).drain n (s.pieces p ranges) total (total / 0x10000 + 2) with
  | (t, some va) =>
    let q := t.part n
    some ((t.setPart n { q with state := .incomplete }).stateNotice n false va q.progress)
  | (t, none) =>
    let q := t.part n
    let area : SaveArea := { pages := q.drained, ranges := ranges, part := n, info := q, sh := s.sharedOf n,
                             cores := s.cores.filter (fun e => if h : e.1 < 4160 then p.has ⟨e.1, h⟩ else false),
                             launches := s.launches.filter (fun l => decide (l.a.part.val = n)), next := s.m.nextId }
    let t := t.setMem (t.sh.mem.write (q.drained.headD 0 + 8) 8 1)
    let t : State := { t with areas := t.areas.filter (fun (a : SaveArea) => a.pages.head? ≠ q.drained.head?) ++ [area] }
    some ((t.setPart n { q with state := .saved }).stateNotice n false 0 0)
def execSaveDrainEnd (part : Fin 64) (s : State) : Ending := fire s (evSaveDrainEnd part s)

/-- R361: the drain goes on at the failing byte, or starts again elsewhere. -/
def savecontCmd (part : Fin 64) (va : Word) (len : Nat) (s : State) : Cmd := do
  let p := s.part part.val
  check (p.state == .incomplete) 1
  check (farAddr va && decide (va ≠ 0 ∧ va.toNat % 0x10000 = 0 ∧ len % 0x10000 = 0)) 2
  let same := decide (va = p.saveva)
  pure (s.beginDrain part.val { p with
    saveva := va, savelen := len, progress := if same then p.progress else 0, drained := if same then p.drained else [] })

def evSavecont (port : Fin 2) (part : Fin 64) (va : Word) (len : Nat) (s : State) : Option State :=
  s.command port part (savecontCmd part va len)
def execSavecont (port : Fin 2) (part : Fin 64) (saveva : Word) (savelen : Nat) (s : State) : Ending :=
  fire s (evSavecont port part saveva savelen s)

/-! ## RESUME and RESTORE (14 R362, 15 R383) -/

/-- R362; a partition marked fatal does not resume (17 R407). -/
def resumeCmd (part : Fin 64) (tr : Nat) (s : State) : Cmd := do
  let p := s.part part.val
  check ((p.state == .stopped || p.state == .saved || p.state == .incomplete) && !p.fatal) 1
  check (s.timeOk tr) 4
  pure (s.setPart part.val { p with state := .resuming, tr := tr, before := p.state, restore := none })

def evResume (port : Fin 2) (part : Fin 64) (tr : Nat) (s : State) : Option State := s.command port part (resumeCmd part tr)
def execResume (port : Fin 2) (part : Fin 64) (tr : Nat) (s : State) : Ending := fire s (evResume port part tr s)

/-- The save area whose drain wrote its header at a physical address. -/
def State.areaAt (s : State) (phys : Nat) : Option SaveArea := s.areas.find? fun a => a.pages.head? = some phys

/-- The words of a header as they stand in far memory. -/
def State.headerAt (s : State) (phys : Nat) : List Nat := (List.range 10).map fun i => s.sh.mem.read (phys + 8 * i) 8
/-- A header that has STATE 1 is that of a save area. -/
def SaveArea.isAt (a : SaveArea) (s : State) (phys : Nat) : Bool := decide (s.headerAt phys = a.info.header (liveBytes a.ranges) 1)
/-- The save area that the header at a physical address tells: the one drained there, or the newest one with the same header, whose bytes
have been brought there (log entry 20). -/
def State.area (s : State) (phys : Nat) : Option SaveArea :=
  match (s.areaAt phys).filter fun a => a.isAt s phys with
  | some a => some a
  | none => s.areas.reverse.find? fun a => a.isAt s phys

/-- How many bytes the layout of an area has. -/
def SaveArea.size (a : SaveArea) : Nat := a.info.liveBase + liveBytes a.ranges

/-- The physical addresses of the pages of an area at a far address, as the partition maps them now; none where one faults. -/
def State.savePages (s : State) (n : Nat) (va : Word) (size : Nat) : State × Option (List Nat) :=
  match s.translateAll n 0 .read true (blockSpan va.toNat size) with
  | (s, .ok ls) => (s, (blockSpan va.toNat size).mapM fun b => (leafFor ls b.2).map fun l => l.phys b.2)
  | (s, .error _) => (s, none)

/-- R383: the header that a RESTORE accepts, and the area behind it. -/
def State.areaOk (s : State) (p : Part) (phys : Nat) : Bool :=
  let w := fun (i : Nat) => BitVec.ofNat 64 (s.sh.mem.read (phys + 8 * i) 8)
  let shape := decide ((w 4).toNat + (w 5).toNat * 2 ^ 64 + (w 6).toNat * 2 ^ 128 + (w 7).toNat * 2 ^ 192 = p.pallets.toNat) &&
    decide ((w 8).toNat = p.hods.toNat) && decide (bits (w 3) 47 32 = bits p.config 47 32 ∧ bits (w 3) 15 0 = bits p.config 15 0)
  decide ((w 1).toNat = 1 ∧ bits (w 0) 31 16 = 1) && shape && (match s.area phys with
    | some a => decide ((a.info.members a.info.device.toNat).length = 1) || decide (a.info.device = s.device)
    | none => false)

/-- R383, Table 14.2: every context and kiln queue of the target is empty. Every page of the area is translated now. -/
def restoreCmd (part : Fin 64) (tr : Nat) (va : Word) (s : State) : Cmd := do
  let n := part.val
  let p := s.part n
  check (p.state == .active) 1
  check (farAddr va && decide (va.toNat % 0x10000 = 0)) 2
  check (s.timeOk tr) 4
  check (p.keys.all fun k => (s.core k).kq.isEmpty && allCtx.all fun c => (s.ctx k c).run == .idle) 5
  match s.translate n va.toNat 0 .read true with
  | .error _ => .error 6
  | .ok (s, l) =>
    check (s.areaOk p (l.phys va.toNat)) 6
    match s.savePages n va (((s.area (l.phys va.toNat)).map SaveArea.size).getD 0) with
    | (_, none) => .error 6
    | (s, some ps) =>
      pure (s.setPart n { p with state := .resuming, tr := tr, before := .active, restore := some ps, since := some s.cycle })

def evRestore (port : Fin 2) (part : Fin 64) (tr : Nat) (va : Word) (s : State) : Option State :=
  s.command port part (restoreCmd part tr va)
def execRestore (port : Fin 2) (part : Fin 64) (tr : Nat) (saveva : Word) (s : State) : Ending :=
  fire s (evRestore port part tr saveva s)

/-! ## Rewriting of saved device numbers (15 R383) -/

/-- A slice address that names the saved device names the target device. -/
def rebase (old new : BitVec 8) (a : Word) : Word :=
  if isSlice a && decide (devOf a = old) then (a &&& 0xF00FFFFFFFFFFFFF) ||| at_ new.toNat 52 else a
def Owner.rebase (o : Owner) (old new : BitVec 8) : Owner := if o.dev = old then { o with dev := new } else o
/-- A target word keeps its form: its device field is rewritten. -/
def CopyDesc.rebase (x : CopyDesc) (f : Word → Word) : CopyDesc := { x with desc := f x.desc, src := f x.src, dst := f x.dst, fmeta := f x.fmeta }
def Txn.rebase (t : Txn) (f : Word → Word) : Txn :=
  { t with desc := f t.desc, disp := f t.disp, compl := f t.compl, reads := t.reads.map (fun e => (f e.1, e.2)),
           writes := t.writes.map f }
def PostOp.rebase (p : PostOp) (f : Word → Word) : PostOp :=
  match p with
  | .st a n d => .st (f a) n d
  | .nib a h d => .nib (f a) h d
  | .mc a r c t m d => .mc (f a) r c t m d
  | .rd a r c o t m d => .rd (f a) r c o t m d
  | .timed a d t => .timed (f a) d t
  | .amoq a o w x y => .amoq (f a) o w x y
def ROp.rebase (p : ROp) (f : Word → Word) : ROp :=
  match p with
  | .send q w a b s => .send q (f w) a b s
  | .post p => .post (p.rebase f)
  | .load a n => .load (f a) n
  | .loadv a t m => .loadv (f a) t m
  | .amo a o w x y => .amo (f a) o w x y
  | .trecon d t => .trecon (f d) (f t)
  | .copy d => .copy (d.rebase f)
  | .cfetch a s p => .cfetch (f a) s p
  | .tsub t r => .tsub (t.rebase f) r

/-- What a restored partition rewrites: its number, and the device numbers. -/
structure Move where
  part : Nat
  old : BitVec 8
  new : BitVec 8
  deriving DecidableEq, Repr

def Move.addr (m : Move) (a : Word) : Word := rebase m.old m.new a
def Move.dev (m : Move) (d : BitVec 8) : BitVec 8 := if d = m.old then m.new else d
def Move.req (m : Move) (r : Req) : Req := { r with part := m.part, dev := m.dev r.dev, op := r.op.rebase m.addr }
def Move.own (m : Move) (o : Owner) : Owner := o.rebase m.old m.new
/-- A member of the group, by its device number. -/
def Move.member (m : Move) (x : Nat) : Nat := if x = m.old.toNat then m.new.toNat else x
/-- The writer of an undo entry. -/
def Move.entry (m : Move) (e : LogEntry) : LogEntry :=
  match e.kind with
  | .slice c r d k h o => { e with kind := .slice c r (m.dev d) k h o }
  | _ => e
def Move.lockReq (m : Move) (r : LockReq) : LockReq := { r with part := m.part, dev := m.dev r.dev }
def Move.attempt (m : Move) (a : Attempt) : Attempt := { a with part := m.part, txn := a.txn.rebase m.addr }
def Move.sub (m : Move) (u : Sub) : Sub := { u with txn := u.txn.rebase m.addr }
def Move.msg (m : Move) (x : Msg) : Msg :=
  match x with
  | .req r d j => .req (m.req r) (m.own d) j
  | .ent d e sup _ => .ent (m.own d) e sup m.part
  | .portion _ r k l => .portion m.part r (m.member k) (l.map fun e => (m.own e.1, m.lockReq e.2))
  | .lock k r => .lock k (m.lockReq r)
  | .verdict _ k b => .verdict m.part k b
  | .reply k c d g i v p f op => .reply k c d g i v p f (op.rebase m.addr)
  | .push k t p w d c b v => .push k t p w (m.dev d) c b v
  | .release k t w d c b => .release k t w (m.dev d) c b
  | .away d k (.req r o j) => .away d k (.req (m.req r) o j)
  | .ask r d n a => .ask (m.req r) d n a
  | .rounds _ f k c => .rounds m.part (m.member f) (m.member k) c
  | y => y
def Move.strm (m : Move) (t : Stream) : Stream := { t with base := m.addr t.base }
/-- A context's bindings, deferred operations and named lines; a hod's far access is translated anew. -/
def Move.ctx (m : Move) (x : Ctx) : Ctx :=
  let lines := fun (l : List (Owner × Nat)) => l.map fun e => (m.own e.1, e.2)
  { x with aux := { x.aux with
      frames := x.aux.frames.map fun f => { f with strms := f.strms.map fun e => (e.1, e.2.map m.strm) },
      deferred := x.aux.deferred.map fun d => { d with req := m.req d.req },
      far := x.aux.far.map fun f => { f with phys := none, owners := [], leaves := [] },
      outs := x.aux.outs.map fun o => { o with lines := lines o.lines },
      posted := x.aux.posted.map fun p => { p with lines := lines p.lines } } }
def Move.core (m : Move) (co : Core) : Core :=
  { co with
    ctxs := co.ctxs.map m.ctx,
    log := co.log.map m.entry,
    strms := co.strms.map fun t => t.map m.strm,
    injq := co.injq.map m.req,
    kq := co.kq.map fun c => { c with ops := c.ops.map fun o => { o with a := m.addr o.a } },
    attempts := co.attempts.map m.attempt,
    lkm := { co.lkm with queue := co.lkm.queue.map m.lockReq },
    tlb := [] }

/-- What a lane holds of its members, requests and submissions. -/
def Move.lane (m : Move) (l : Lane) : Lane :=
  { l with intake := l.intake.map m.sub, restarts := l.restarts.map m.sub,
           portions := l.portions.map fun q => (q.1, m.member q.2.1, q.2.2.map fun e => (m.own e.1, m.lockReq e.2)),
           lastSeen := l.lastSeen.map fun e => (m.member e.1, e.2), heard := l.heard.map fun e => (m.member e.1, e.2),
           cuts := l.cuts.map fun e => (m.member e.1, e.2),
           told := l.told.map fun e => (m.member e.1, m.member e.2.1, e.2.2), telling := l.telling.map m.member }

/-- The saved requests of an atomic engine join its ports. -/
def Move.atomic (m : Move) (l : List (Nat × AtomicEng)) (e : Nat × AtomicEng) : List (Nat × AtomicEng) :=
  let old := ((aget l e.1).map (·.ports)).getD []
  let new := e.2.ports.map fun q => (q.1, m.req q.2.1, m.own q.2.2.1, q.2.2.2)
  aset l e.1 { e.2 with ports := old ++ new }

/-! ## The resumption (14 R362) -/

/-- The physical place of an offset of a save area. -/
def SaveArea.place (a : SaveArea) (o : Nat) : Nat := a.pages.getD (o / 0x10000) 0 + o % 0x10000

/-- Bytes of a save area, from an offset, read back to a place of the byte store, poisoned where their words are in error. -/
def State.readPiece (s : State) (a : SaveArea) (o dst n : Nat) : State :=
  s.putFar ((List.range n).map fun i =>
    (dst + i, s.sh.mem.get (a.place (o + i)), s.badAt (a.place (o + i))))

/-- The live ranges read back into the slices (R362). -/
def State.readBack (s : State) (a : SaveArea) : State :=
  (livePlaces a.info.liveBase a.ranges).foldl (fun s e => s.readPiece a e.1 e.2.1 e.2.2) s

/-- Bytes of a save area from an offset, as a number, and whether one of them is poisoned. -/
def State.areaBytes (s : State) (a : SaveArea) (o n : Nat) : Nat × Bool :=
  ((List.range n).foldr (fun j v => (s.sh.mem.get (a.place (o + j))).toNat + 256 * v) 0, (List.range n).any fun j => s.badAt (a.place (o + j)))

/-- The receive-queue entries of the core with a place in the order of a save area, as they stand there; a poisoned one is in error (17
R404). -/
def State.queueBack (s : State) (a : SaveArea) (c : Nat × Nat) (q : List RqItem) : List RqItem :=
  (q.foldl (fun (r : List RqItem × Nat) i =>
    if i.place == .spill || decide (64 ≤ r.2) then (r.1 ++ [i], r.2)
    else
      let b := s.areaBytes a (a.info.coreBase + c.2 * 0x80000 + 0x1D000 + 64 * r.2) 64
      (r.1 ++ [{ i with e := BitVec.ofNat 512 b.1, err := if b.2 then some true else none }], r.2 + 1))
    ([], 0)).1

/-- The undo log of such a core as it stands there, oldest first from LOGTAIL on: each entry, and whether it is poisoned. -/
def State.logBack (s : State) (a : SaveArea) (c : Nat × Nat) (l : List LogEntry) : List (LogEntry × Bool) :=
  let at0 := a.info.coreBase + c.2 * 0x80000 + 0x27000
  l.reverse.zipIdx.map fun e =>
    let b := s.areaBytes a (at0 + 16 * e.2) 16
    (LogEntry.ofWords (BitVec.ofNat 64 b.1) (BitVec.ofNat 64 (b.1 >>> 64)) e.1.byHod, b.2)
/-- A core with the log that was read back. -/
def Core.withLog (co : Core) (m : Move) (l : List (LogEntry × Bool)) : Core :=
  { co with log := (l.map fun e => m.entry e.1).reverse,
            logUe := (l.zipIdx.filter fun e => e.1.2).map fun e => co.logPlace e.2 }

/-- The memories and queues that the layout gives a form, read from a save area: accumulator tiles, instruction memories, receive queues,
undo logs, staging SRAM. -/
def State.formsBack (s : State) (m : Move) (a : SaveArea) : State :=
  let p := a.info
  let s := p.cores.zipIdx.foldl (fun s c =>
    let at0 := p.coreBase + c.2 * 0x80000
    let s := (s.readPiece a (at0 + 0x5000) (Loc.acc c.1 0 0) 0x10000).readPiece a (at0 + 0x15000) (Loc.imem c.1 0) 0x8000
    s.updCore (coreKey c.1) fun co => { co with rq := s.queueBack a c co.rq }.withLog m (s.logBack a c co.log)) s
  (hodsOf p.hods).zipIdx.foldl (fun s h =>
    s.readPiece a (p.hodBase + h.2 * 0x80000 + 0x4000) (Loc.staging h.1 0) 0x40000) s

/-- A suspended transfer translated under the root that the partition has now; one that faults ends as at its start (R383, 06
R198). -/
def State.remapCopy (s : State) (c : Copy) : State :=
  let others := fun (d : Copy) => !decide (d.id = c.id ∧ d.req.part = c.req.part)
  match s.transEnds c.req false (c.d.ends.filter fun e => !isSlice e.a) with
  | (s, .ok ps) => { s with sh := { s.sh with copies := s.sh.copies.map fun d => if others d then d else { d with pages := ps } } }
  | (s, .error (cause, va, acc)) =>
    ({ s with sh := { s.sh with copies := s.sh.copies.filter others } }).farFault c.req cause va acc
def State.remapFetch (s : State) (f : Fetch) : State :=
  let others := fun (d : Fetch) => !decide (d.id = f.id ∧ d.req.part = f.req.part)
  match s.transEnds f.req true (if isSlice f.src then [] else [fetchEnd f.src]) with
  | (s, .ok ps) => { s with sh := { s.sh with fetches := s.sh.fetches.map fun d => if others d then d else { d with pages := ps } } }
  | (s, .error (cause, va, acc)) =>
    ({ s with sh := { s.sh with fetches := s.sh.fetches.filter others } }).farFault f.req cause va acc

/-- The die from which the tiles of a submission were translated (15 R373). -/
def subDie (host : Option (Fin 2)) (src : Key) : Nat := if host.isSome then 0 else dieOf src

/-- The submissions of a lane, translated so; one that faults ends with status 3 (15 R379). -/
def State.remapSub (s : State) (n : Nat) (u : Sub) : State :=
  let mine := fun (v : Sub) => decide (v.id = u.id ∧ v.src = u.src)
  let put := fun (s : State) (l : List Leaf) => s.updLane n fun x => { x with
    intake := x.intake.map fun v => if mine v then { v with pages := l } else v,
    restarts := x.restarts.map fun v => if mine v then { v with pages := l } else v }
  match s.transTiles n (subDie u.host u.src) u.sup u.txn.tiles with
  | (s, .ok ls) => put s ls
  | (s, .error va) =>
    (s.updLane n fun x => { x with intake := x.intake.filter (fun v => !mine v), restarts := x.restarts.filter fun v => !mine v }).complete
      n u.src u.txn 0 3 u.fails va u.src u.host

/-- A message carries a tile's push or release of a commit. -/
def Msg.commitOf (m : Msg) (a : Attempt) (tile : Nat) : Bool :=
  match m with
  | .push _ t _ w _ _ _ _ | .release _ t w _ _ _ => decide (t = tile ∧ w = a.key)
  | _ => false
/-- The tiles of an attempt that it still uses: those of a commit that are pushed or released are done (15 R377). -/
def State.tilesLeft (s : State) (a : Attempt) : List (Nat × Word × Option (BitVec 32) × Bool) :=
  a.txn.tiles.filter fun e => !a.stage.commits || isSlice e.2.1 ||
    (s.sh.fabric ++ s.sh.fallout.map (·.2)).any fun m => m.commitOf a (e.2.1.toNat / 0x1000)

/-- An attempt that uses far pages, translated so. One that faults ends with status 3 (15 R379): its locks are released, its pushes that
are not written yet are gone, a body of it commits nothing, and a context that waits for its commit is idle (log entry 110). -/
def State.remapAttempt (s : State) (n : Nat) (k : Key) (a : Attempt) : State :=
  if a.pages.isEmpty then s else
  match s.transTiles n (subDie a.host a.sub) a.sup (s.tilesLeft a) with
  | (s, .ok ps) => s.updCore k fun co => { co with attempts := co.attempts.map fun b => if b.key = a.key then { b with pages := ps } else b }
  | (s, .error va) =>
    let t := (((s.withdraw k a).updLane n fun l => l.heardOf a.key).updCore k fun co =>
      { co with attempts := co.attempts.filter fun b => b.key ≠ a.key }).complete n k a.txn 0 3 a.failures va a.sub a.host
    match a.stage with
    | .committing (some c) _ _ => t.becomeIdle k c
    | _ => t

/-- The physical address of a far tile under the leaves that the attempt of a key at a core holds now. -/
def State.physNow (s : State) (core : Key) (key : Word) (tile old : Nat) : Nat :=
  (((s.core core).attempts.find? fun a => a.key = key).bind fun a =>
    (leafFor a.pages (tile * 0x1000)).map fun l => l.phys (tile * 0x1000)).getD old
def State.remapLock (s : State) (q : LockReq) : LockReq := { q with phys := q.phys.map fun o => s.physNow q.core q.key q.tile o }
/-- Messages with a physical address of a far tile: it lies in this package. -/
def State.remapMsg (s : State) (has : Key → Bool) (m : Msg) : Msg :=
  match m with
  | .lock k q => if has k then .lock k (s.remapLock q) else m
  | .push k t (some o) w d c b v => if has k then .push k t (some (s.physNow c w t o)) w d c b v else m
  | .portion n r d l => .portion n r d (l.map fun e => (e.1, if has e.2.core then s.remapLock e.2 else e.2))
  | m => m

/-- The requests for far tiles name the pages that their attempts use now. -/
def State.remapLocks (s : State) (n : Nat) : State :=
  let p := s.part n
  let t := p.keys.foldl (fun t k => t.updCore k fun co => { co with lkm := { co.lkm with queue := co.lkm.queue.map s.remapLock } }) s
  let t := t.updLane n fun l => { l with portions := l.portions.map fun q => (q.1, q.2.1, q.2.2.map fun e => (e.1, s.remapLock e.2)) }
  { t with sh := { t.sh with fabric := t.sh.fabric.map (s.remapMsg p.has), fallout := t.sh.fallout.map fun e => (e.1, s.remapMsg p.has e.2) } }

/-- Everything suspended of a partition translated anew (R383). -/
def State.remap (s : State) (n : Nat) : State :=
  let s := (s.sh.copies.filter fun c => c.req.part = n).foldl State.remapCopy s
  let s := (s.sh.fetches.filter fun f => f.req.part = n).foldl State.remapFetch s
  let s := ((s.part n).lane.intake ++ (s.part n).lane.restarts).foldl (fun s u => s.remapSub n u) s
  let s := (s.part n).keys.foldl (fun s k => (s.core k).attempts.foldl (fun s a => s.remapAttempt n k a) s) s
  s.remapLocks n

/-- The whole state of a save area in place of a partition's (R362, R383). Retry intervals go on from what was left of them at the
stop (Table 14.8). -/
def State.putArea (s : State) (n : Nat) (a : SaveArea) : State :=
  let p := s.part n
  let m : Move := ⟨n, a.info.device, s.device⟩
  let s := s.discardPart n
  let s := p.keys.foldl (fun s k => s.zeroCore k) s
  let cores := p.keys.foldl (fun l k => aset l k.val (m.core ((aget a.cores k.val).getD Core.init))) s.cores
  let sh := s.sh
  let t : State := { s with
    cores := cores,
    launches := s.launches ++ a.launches.map fun l => { l with a := { l.a with part := Fin.ofNat 64 n } },
    sh := { sh with
      fabric := a.sh.fabric.map m.msg ++ sh.fabric,
      fallout := sh.fallout ++ a.sh.fallout.map fun e => (e.1, m.msg e.2),
      held := sh.held ++ a.sh.held.map fun h => { h with part := n, at_ := s.now + min 1000 (h.at_ - a.info.t) },
      copies := sh.copies ++ a.sh.copies.map fun c => { c with req := m.req c.req, d := c.d.rebase m.addr },
      fetches := sh.fetches ++ a.sh.fetches.map fun f => { f with req := m.req f.req, src := m.addr f.src },
      asks := sh.asks ++ a.sh.asks.map fun q => { q with req := m.req q.req },
      kilns := sh.kilns ++ a.sh.kilns,
      atomics := a.sh.atomics.foldl m.atomic sh.atomics,
      runs := sh.runs ++ a.sh.runs },
    m := { s.m with nextId := max s.m.nextId a.next } }
  ((((t.setPart n { p with lane := m.lane a.info.lane, held := s.cycle - a.info.clock s.cycle, since := some s.cycle,
                           stops := a.info.stops }).formsBack m a).readBack a).remap n)

/-- Slice bytes outside the live ranges hold unpredictable values after a resume (08 R256). -/
def State.forget (s : State) (ranges : List (Nat × List (Nat × Nat))) : State :=
  let t := ranges.foldl (fun s e => (gaps 0 e.2).foldl (fun s g =>
    s.setMem (s.sh.mem.fill (Loc.slice e.1 g.1) (Loc.slice e.1 g.2) (some s.m.freeCtr))) s) s
  { t with m := { t.m with freeCtr := t.m.freeCtr + 1 } }

/-- The partition's state restored; none where the save area of a SAVED partition cannot be read. -/
def State.restored (s : State) (n : Nat) : Option State :=
  let p := s.part n
  match p.restore with
  | some pages => match s.area (pages.headD 0) with
    | some a => some ((s.putArea n { a with pages := pages }).forget a.ranges)
    | none => none
  | none =>
    if p.before = .saved then
      match p.drained.head?.bind s.areaAt with
      | some a => match s.savePages n p.saveva a.size with
        | (s, some ps) => some ((s.readBack { a with pages := ps }).forget a.ranges)
        | (_, none) => none
      | none => none
    else some (s.forget (p.cores.map fun c => (c, s.liveRanges (coreKey c))))

/-- A held entry's interval counts the partition's running time (14 Table 14.8): what was left of it at the stop, and at most the whole
of it, is left at TR. -/
def Held.thaw (h : Held) (n stop now : Nat) : Held := if h.part = n then { h with at_ := now + min 1000 (h.at_ - stop) } else h

/-- A core goes on at TR: its windows are closed; an error in the images of its contexts is met as they are restored (17 R407). -/
def State.resumeCore (s : State) (k : Key) : State :=
  let s := s.updCore k fun co => { co with ctxs := co.ctxs.map fun x => { x with aux := { x.aux with windows := [] } } }
  ((s.core k).flyUe.filter fun e => e.2 = 9).foldl (fun s e => s.fatalAt k e.1 1) (s.traceGang k 1)

/-- R362: at TR everything goes on; or, where the restoration is late, the partition is as before the command, and the host
is told. One that a thermal trip met meanwhile is armed at once (19 R431). -/
def evResumeStart (part : Fin 64) (late : Bool) (s : State) : Option State :=
  let n := part.val
  let p := s.part n
  if p.state ≠ .resuming then none else
  let back := fun (s : State) =>
    let q := { p with state := if p.fatal && p.before == .active then .armed else p.before, restore := none }
    let q := if p.before = .active then { q with held := q.held + (s.cycle - q.since.getD s.cycle), since := none } else q
    (s.setPart n q).stateNotice n true 0 0
  if late then (if s.now + 1000 < p.tr then none else some (back s))
  else if s.now < p.tr then none
  else match s.restored n with
    | none => some (back s)
    | some t =>
      let q := t.part n
      let gone := s.cycle - q.since.getD s.cycle
      let t := t.setPart n { q with state := if q.fatal then .armed else .active, held := q.held + gone, since := none, restore := none }
      let stop := (s.tsBase + (q.since.getD s.cycle * 5 / 9 : Nat)).toNat
      let t : State := { t with sh := { t.sh with held := t.sh.held.map fun (h : Held) => h.thaw n stop s.now } }
      let t := q.keys.foldl State.resumeCore (t.reinject n)
      some (t.stateNotice n false 0 0)
def execResumeStart (part : Fin 64) (late : Bool) (s : State) : Ending := fire s (evResumeStart part late s)

end Sys2Proof.Machine
end

