-- ==== Sys2Proof/Machine/Flit.lean ====
section
/-! DEFINITION. Flits and credits of the Slaup ports (16 R399, R400): the type, channel and data flits of a message, the counts of a
sender and of a receiver. -/
namespace Sys2Proof.Machine
open Sys2Proof

/-! ## Messages as flits (16 Table 16.4, Table 16.5; log entry 114) -/

/-- The TYPE of the control flit that heads a message. -/
def ROp.flitType : ROp → Nat
  | .load .. | .loadv .. | .trecon .. => 1
  | .amo .. | .post (.amoq ..) => 7
  | .post _ => 3
  | _ => 6
def Msg.flitType : Msg → Nat
  | .req r _ _ => r.op.flitType
  | .ent .. => 6
  | .ret .. => 5
  | .accept .. | .ack .. | .done .. => 4
  | .reply .. => 2
  | .portion .. | .lock .. | .verdict .. | .release .. => 8
  | .grant .. | .push .. => 9
  | .host _ _ n => if n.isSome then 2 else 4
  | .rounds .. => 13
  | .ctl _ k _ => k.val
  | .ask _ _ _ a => (match a with | .read .. => 1 | .write .. => 3 | _ => 6)
  | .told _ _ a => (match a with | .bytes _ => 2 | _ => 4)
  | .away _ _ m => m.flitType

/-- The virtual channel of a message: a timed send on 2 (09 R277), answers on 1 (06 R176, R186), portions on 0 (11 R310), grants on 5
(11 R314), link states, drain rounds and the rounds of a failed member on 7 (17 R412 to R414); of the others no rule tells. -/
def ROp.channel (op : ROp) : Fin 8 := if op.isTimed then 2 else Config.channel op.flitType
def Msg.channel : Msg → Fin 8
  | .req r _ _ => r.op.channel
  | .ret .. | .accept .. | .ack .. => 1
  | .portion .. => 0
  | .grant .. => 5
  | .rounds .. | .ctl .. => 7
  | .away _ _ m => m.channel
  | m => Config.channel m.flitType

/-- How many data flits of 512 bytes follow the header, whose OPER holds 8 bytes. -/
def ROp.ndata : ROp → Nat
  | .post (.st ..) | .post (.nib ..) => 0
  | .post (.amoq _ op ..) | .amo _ op .. => if op.val = 9 then 1 else 0
  | .post _ | .send .. => 1
  | _ => 0
def Msg.ndata : Msg → Nat
  | .req r _ _ => r.op.ndata
  | .ent .. | .ret .. => 1
  | .reply _ _ d .. => (match d with | .reg (.v _) => 1 | _ => 0)
  | .portion _ _ _ l => min 8 ((l.length + 15) / 16)
  | .grant _ _ _ _ d .. => (d.length + 511) / 512
  | .push _ _ _ _ _ _ d _ => (d.length + 511) / 512
  | .host _ _ n => if n.isSome then 1 else 0
  | .ask _ _ _ (.write _ _ l) | .told _ _ (.bytes l) => (l.length + 511) / 512
  | .away _ _ m => m.ndata
  | _ => 0

/-- The device that a message leaves for; none where it stays in the package or is an answer of it. -/
def Msg.leaves (m : Msg) (dev : BitVec 8) : Option (BitVec 8) :=
  match m with
  | .req _ d _ | .ent d .. | .ask _ d .. => if d.dev = dev then none else some d.dev
  | .away d _ _ => some d
  | _ => none

/-! ## The header (16 Table 16.4) -/

/-- The address that an operation names. -/
def ROp.addr : ROp → Option Word
  | .post (.st a ..) | .post (.nib a ..) | .post (.timed a ..) | .post (.amoq a ..) | .post (.mc a ..) | .post (.rd a ..)
  | .load a _ | .loadv a .. | .amo a .. | .trecon _ a => some a
  | _ => none

/-- The operand that goes in OPER: the bytes or the nibble of a posted store, the operand of an atomic operation (the compared value of
a compare and swap follows in its data flit), the first argument word of a message, the key that a restart submission names; none for
the others, whose data are in data flits (log entry 114). -/
def ROp.operand : ROp → Option (Nat × Nat × Nat)
  | .post (.st _ n d) => some (63 + 8 * n, 64, d.toNat % 2 ^ (8 * n))
  | .post (.nib _ _ d) => some (67, 64, d.toNat)
  | .post (.amoq _ _ w4 a _) | .amo _ _ w4 a _ => if w4 then some (95, 64, a.toNat % 2 ^ 32) else some (127, 64, a.toNat)
  | .send _ _ a1 .. => some (127, 64, a1.toNat)
  | .tsub _ (some (key, _)) => some (127, 64, key.toNat)
  | _ => none

/-- The number of the result register: REG's bits that hold it; the others, which tell its file, are free (log entry 114). -/
def Dest.number : Dest → Option Nat
  | .reg (.x r) | .reg (.v r) => some r.val
  | .reg (.p r) => some r.val
  | .trecon => none
/-- REG of a request with a result, and of its reply, whose tag it is (06 R191). -/
def Dest.regField (d : Dest) : List (Nat × Nat × Nat) := d.number.toList.map fun n => (195, 191, n)

/-- The address of an end's byte that an engine asks of. -/
def Ask.addr : Ask → Nat
  | .register e | .release e => offOf e.a
  | .read e _ j _ | .write e j _ => e.place j

/-- The fields of the header that the contents of a message fix: highest and lowest bit, value. DST, SRC and CTX name core or hod and
context; REG and GEN the tag of a request with a result and of its reply; ADDR the offset or far address; OPER the operand, or the key
of a transaction. SRCDEV of a portion and of a count of rounds is the member that sent it. -/
def Msg.fields : Msg → List (Nat × Nat × Nat)
  | .req r o _ =>
    [(235, 223, o.key), (222, 215, r.dev.toNat)] ++
    (if r.host.isSome then [] else [(214, 202, r.src.val), (201, 200, r.ctx.val)]) ++
    (if r.op.awaited then (190, 187, r.gen.toNat) :: r.dest.regField else []) ++
    (r.op.addr.toList.map fun a => (186, 130, if isSlice a then offOf a else a.toNat % 2 ^ 57)) ++
    r.op.operand.toList
  | .ent d e .. =>
    let h := eword e 0
    [(235, 223, d.key), (222, 215, bits h 59 52), (214, 202, bits h 51 40 + if h.getLsbD 39 then 4096 else 0), (201, 200, bits h 38 37)]
  | .ret k _ _ | .accept k _ => [(235, 223, k.val)]
  | .ack k c .. => [(235, 223, k.val), (201, 200, c.val)]
  | .reply k c d g .. => [(235, 223, k.val), (201, 200, c.val), (190, 187, g.toNat)] ++ d.regField
  | .lock k r => [(235, 223, k.val), (127, 64, r.key.toNat)]
  | .grant k _ w .. | .done k w _ => [(235, 223, k.val), (127, 64, w.toNat)]
  | .push k _ _ w d c .. | .release k _ w d c _ => [(235, 223, k.val), (222, 215, d.toNat), (214, 202, c.val), (127, 64, w.toNat)]
  | .verdict _ w _ => [(127, 64, w.toNat)]
  | .ctl _ _ v => [(127, 64, v.toNat)]
  | .away _ k m => (214, 202, k) :: m.fields
  | .portion _ _ m _ | .rounds _ _ m _ => [(222, 215, m)]
  | .ask r o _ a => [(235, 223, o.key), (222, 215, r.dev.toNat), (214, 202, r.src.val), (201, 200, r.ctx.val), (186, 130, a.addr % 2 ^ 20)]
  | .told k .. => [(235, 223, k.val)]
  | .host .. => []

/-- The fields of the header of a message for a device, with VC, TYPE, NDATA and DSTDEV. -/
def Msg.header (m : Msg) (dev : BitVec 8) : List (Nat × Nat × Nat) :=
  [(255, 253, m.channel.val), (252, 248, m.flitType), (247, 244, m.ndata), (243, 236, dev.toNat)] ++ m.fields

/-- Bits hi to lo of a flit. -/
def flitBits (f : BitVec 256) (hi lo : Nat) : Nat := f.toNat >>> lo % 2 ^ (hi + 1 - lo)
/-- A flit with a field set. -/
def flitSet (f : BitVec 256) (e : Nat × Nat × Nat) : BitVec 256 :=
  let m : BitVec 256 := BitVec.ofNat 256 ((2 ^ (e.1 + 1 - e.2.1) - 1) <<< e.2.1)
  (f &&& ~~~m) ||| (BitVec.ofNat 256 (e.2.2 <<< e.2.1) &&& m)
/-- A flit is the header of a message for a device. -/
def Msg.fits (m : Msg) (dev : BitVec 8) (f : BitVec 256) : Bool :=
  (m.header dev).all fun e => decide (flitBits f e.1 e.2.1 = e.2.2)

/-! ## Credits (16 R400) -/

/-- A credit return replaces RET, or is stale. -/
def Credit.took (c : Credit) (cnt : BitVec 16) : Option Credit :=
  if 2 ^ 15 ≤ (cnt - c.ret).toNat then none else some { c with ret := cnt }

/-- Flits may be sent against credit: the receive buffer holds 128 control flits, 64 data flits. -/
def Credit.maySend (c : Credit) (data : Bool) (n : Nat) : Bool :=
  decide ((c.sent - c.ret).toNat + n ≤ if data then 64 else 128)

/-- A port has credit for a message on a channel: its header and its data flits. -/
def SlaupPort.hasCredit (x : SlaupPort) (vc : Fin 8) (n : Nat) : Bool := x.ctl[vc].maySend false 1 && x.dat[vc].maySend true n

/-- A message is sent: SENT counts its flits. -/
def SlaupPort.sends (x : SlaupPort) (vc : Fin 8) (n : Nat) : SlaupPort :=
  { x with ctl := x.ctl.set vc { x.ctl[vc] with sent := x.ctl[vc].sent + 1 },
           dat := x.dat.set vc { x.dat[vc] with sent := x.dat[vc].sent + BitVec.ofNat 16 n } }

/-- A message is received, and its flits are freed at once: FREED counts them (log entry 115). A credit-only flit takes no buffer, and
neither end counts it (log entry 126). -/
def SlaupPort.frees (x : SlaupPort) (now : Nat) (vc : Fin 8) (n : Nat) : SlaupPort :=
  { x with ctl := x.ctl.set vc { x.ctl[vc] with freed := x.ctl[vc].freed + 1 },
           dat := x.dat.set vc { x.dat[vc] with freed := x.dat[vc].freed + BitVec.ofNat 16 n },
           changed := some (x.changed.getD now) }

/-- Some count is not reported. -/
def SlaupPort.unreported (x : SlaupPort) : Bool :=
  x.ctl.toList.any (fun c => c.freed ≠ c.reported) || x.dat.toList.any fun c => c.freed ≠ c.reported

/-- The count that the next control flit carries: CRVC, CRPL, CRCNT of the next channel and plane in rotation, and RSV. -/
def SlaupPort.creditFields (x : SlaupPort) : List (Nat × Nat × Nat) :=
  let vc := Fin.ofNat 8 x.rotate.val
  let c := if x.rotate.val < 8 then x.ctl[vc] else x.dat[vc]
  [(31, 29, vc.val), (28, 28, x.rotate.val / 8), (27, 12, c.freed.toNat), (11, 0, 0)]

/-- A control flit with some fields is emitted: it carries that count. The bits that no rule gives are free. -/
def SlaupPort.carries (x : SlaupPort) (head : List (Nat × Nat × Nat)) (n : Nat) : SlaupPort :=
  let x := { x with wire := (head ++ x.creditFields).foldl flitSet (Config.flitRest n) }
  let vc := Fin.ofNat 8 x.rotate.val
  let y := if x.rotate.val < 8 then { x with ctl := x.ctl.set vc { x.ctl[vc] with reported := x.ctl[vc].freed } }
    else { x with dat := x.dat.set vc { x.dat[vc] with reported := x.dat[vc].freed } }
  { y with rotate := x.rotate + 1, changed := if y.unreported then x.changed else none }

/-- A returned count at the sender; a stale one is counted (17 Table 17.5). -/
def SlaupPort.returned (x : SlaupPort) (vc : Fin 8) (data : Bool) (cnt : BitVec 16) : SlaupPort :=
  match (if data then x.dat[vc] else x.ctl[vc]).took cnt with
  | none => { x with stalecr := min (x.stalecr + 1) 0xFFFFFFFF }
  | some d => if data then { x with dat := x.dat.set vc d } else { x with ctl := x.ctl.set vc d }

/-- A credit-only flit must be sent by now: 256 ns after an unreported change, and every 1 µs (R400). -/
def SlaupPort.creditDue (x : SlaupPort) (now : Nat) : Bool :=
  x.up && (decide (x.credited + 1000 ≤ now) || (match x.changed with
    | some t => x.unreported && decide (t + 256 ≤ now)
    | none => false))

def State.updSlaup (s : State) (p : Fin 18) (f : SlaupPort → SlaupPort) : State := { s with slaup := s.slaup.set p (f s.slaup[p]) }

end Sys2Proof.Machine
end

