-- ==== Sys2Proof/Machine/Host.lean ====
section
/-! DEFINITION. The host ports (16 R386 to R395): the injection window, the notice queue, the semaphores. -/
namespace Sys2Proof.Machine
open Sys2Proof

/-! ## The injection window (16 R392 to R394) -/

/-- The state as a core of a partition sees it: the checks of an address use the partition's CONFIG. -/
def State.forPart (s : State) (n : Nat) : State := s.as_ ((s.part n).keys.headD 0) 0

/-- A handle word that R181 accepts. -/
def State.handleOk (s : State) (w : Word) : Bool :=
  isSlice w && decide (bits w 62 60 = 0 ∧ bits w 51 32 = 0) && (match s.checkFormat w with | .ok _ => true | .error _ => false)

/-- The kinds of a record. -/
inductive InjKind where
  | message | queue | write | read | txn
  deriving DecidableEq, Repr

/-- The address checks of R393 step 3. A line is 64 bytes and aligned (log entry 21). The descriptor of TYPE 4 is captured when the record
is performed (log entry 22). -/
def State.injAddr (s : State) (kind : InjKind) (n : Nat) (a : Word) : Bool :=
  let t := s.forPart n
  let line := isSlice a && decide (a.toNat % 64 = 0) && (match t.checkFormat a with | .ok _ => true | .error _ => false)
  (match kind with
    | .message => t.targetOk a
    | .queue => t.handleOk a
    | .write => line && decide (winOf a = 0)
    | .read => line
    | .txn => isSlice a && decide (s.resolve (devOf a) = s.device) && (match t.checkFormat a with | .ok _ => true | .error _ => false)) &&
  s.inSpan n (s.owner a)

/-- The request of an accepted record (R394). -/
def InjKind.op (kind : InjKind) (x : InjRec) : ROp :=
  let all : Word := BitVec.allOnes 64
  match kind with
  | .message => .send false x.addr x.arg1 x.arg2 x.sup
  | .queue => .send true x.addr x.arg1 x.arg2 x.sup
  | .write => .post (.mc x.addr 1 1 .i64 all x.data)
  | _ => .loadv x.addr .i64 all

/-- An accepted record enters the fabric under a name that the host injection queue holds (R393). -/
def State.inject (s : State) (p : Fin 2) (src : Key) (op : ROp) (x : InjRec) (dst : Owner) : State :=
  let (id, s) := s.freshId
  let r : Req := { id := id, dev := s.device, src := src, ctx := 0, pc := 0, mode := .supervisor, ord := .plain, op := op, dest := .trecon,
                   gen := 0, left := true, part := x.part.val, host := some p, htag := x.htag, notify := x.notify }
  let s := { s with ports := s.ports.set p { s.ports[p] with inj := s.ports[p].inj ++ [id] } }
  s.post (.req r dst 0)

/-- An accepted record (R394). -/
def State.injAct (s : State) (kind : InjKind) (p : Fin 2) (x : InjRec) : State :=
  match kind with
  | .txn => let k := coreKey (coreOf x.addr)
            s.inject p k (.tsub (.named x.addr) none) x ⟨s.device, k.val⟩
  | k => s.inject p 0 (k.op x) x (s.owner x.addr)

/-- The first hop of a record toward another package: the port of its plane (R397), with credit on its channel for one header and
for its data (R400); on the package the router takes it (log entry 113). -/
def State.hopFree (s : State) (kind : InjKind) (x : InjRec) : Bool :=
  let d := (s.owner x.addr).dev
  decide (d = s.device) || kind == .txn ||
    (match (s.reroute d (s.homePlane (kind.op x) 0 none)).bind s.portOn with
      | some p => s.slaup[p].hasCredit (kind.op x).channel (kind.op x).ndata
      | none => false)

/-- A record of TYPE 0 to 4 is accepted or refused when its write arrives (R393, 19 R432). -/
def evInject (kind : InjKind) (p : Fin 2) (x : InjRec) (s : State) : Option State :=
  if !s.portUp p then none else
  some (if s.mg.state ≠ .ready then s.status p 1
    else if x.rsv || (x.sup && decide (kind ≠ .message ∧ kind ≠ .queue)) then s.status p 2
    else if !(s.part x.part.val).live then s.status p 1
    else if !s.injAddr kind x.part.val x.addr then s.status p 2
    else if 32 ≤ s.ports[p].inj.length || !s.hopFree kind x then s.reply p true 7 0
    else (s.injAct kind p x).status p 0)

def evInjActiveMessage (p : Fin 2) (x : InjRec) (s : State) : Option State := evInject .message p x s
def evInjQueueMessage (p : Fin 2) (x : InjRec) (s : State) : Option State := evInject .queue p x s
def evInjLineWrite (p : Fin 2) (x : InjRec) (s : State) : Option State := evInject .write p x s
def evInjLineRead (p : Fin 2) (x : InjRec) (s : State) : Option State := evInject .read p x s
def evInjTxnSubmit (p : Fin 2) (x : InjRec) (s : State) : Option State := evInject .txn p x s
def execInjActiveMessage (port : Fin 2) (x : InjRec) (s : State) : Ending := fire s (evInjActiveMessage port x s)
def execInjQueueMessage (port : Fin 2) (x : InjRec) (s : State) : Ending := fire s (evInjQueueMessage port x s)
def execInjLineWrite (port : Fin 2) (x : InjRec) (s : State) : Ending := fire s (evInjLineWrite port x s)
def execInjLineRead (port : Fin 2) (x : InjRec) (s : State) : Ending := fire s (evInjLineRead port x s)
def execInjTxnSubmit (port : Fin 2) (x : InjRec) (s : State) : Ending := fire s (evInjTxnSubmit port x s)

/-- The firmware region (19 R432). -/
def firmwareBase : Nat := Loc.firmware
/-- Where a far line may be written in a state of bring-up (19 R432): anywhere in READY, the firmware region in WAITFW and
FAILED, nowhere in SELFTEST and VERIFY. -/
def MState.mayWrite (m : MState) (a : Nat) : Option Bool :=
  match m with
  | .ready => some true
  | .waitfw | .failed => some (decide (firmwareBase ≤ a))
  | _ => none

/-- R394: TYPE 5 writes a line at the stacks at once, and the SUB 8 notice says so (16 Table 16.3). -/
def evInjFarWrite (p : Fin 2) (x : InjRec) (s : State) : Option State :=
  if !s.portUp p then none else
  let a := x.addr.toNat
  some (match s.mg.state.mayWrite a with
    | none => s.status p 1
    | some ok =>
      if x.rsv || x.sup || decide (Loc.farEnd ≤ a ∨ a % 64 ≠ 0) || !ok then s.status p 2
      else if 32 ≤ s.ports[p].inj.length then s.reply p true 7 0
      else
        let t := s.putFar ((List.range 64).map fun i => (a + i, BitVec.ofNat 8 (x.data.toNat >>> (8 * i)), false))
        (t.notice p (hostNotice 0 0 false 0 8 x.addr 0 (at_ x.htag.toNat 0) 0 0 0)).status p 0)
def execInjFarWrite (port : Fin 2) (x : InjRec) (s : State) : Ending := fire s (evInjFarWrite port x s)

/-! ## Notices (16 R387, R395) -/

/-- The empty notice: KIND 15. -/
def noNotice : BitVec 1024 := BitVec.ofNat 1024 (15 <<< 60)

/-- R395: a read of NOTE pops the oldest notice. -/
def evNoteRead (p : Fin 2) (s : State) : Option State :=
  if !s.portUp p then none else
  match s.ports[p].notices with
  | [] => some (s.reply p false 0 noNotice)
  | n :: r => some (({ s with ports := s.ports.set p { s.ports[p] with notices := r } }).reply p false 0 n)
def execNoteRead (port : Fin 2) (s : State) : Ending := fire s (evNoteRead port s)

/-! ## Semaphores (16 R388, R389) -/

/-- R388: a read acquires a free semaphore; GOT and the holder. An access of another size than 8 bytes completes with status 2 and
has no effect (R387). Which of two accesses of one cycle goes first is decided where they
come in (R389: `State.tieFirst`). -/
def evSemRead (p : Fin 2) (n : Fin 64) (size : Nat) (s : State) : Option State :=
  if !s.portUp p then none else if size ≠ 8 then some (s.status p 2) else
  let h : Fin 3 := if s.sems[n] = 0 then Fin.ofNat 3 (p.val + 1) else s.sems[n]
  let got := decide (h.val = p.val + 1)
  some (({ s with sems := s.sems.set n h }).reply p false 0 (BitVec.ofNat 1024 (h.val + if got then 2 ^ 63 else 0)))
def execSemRead (port : Fin 2) (n : Fin 64) (size : Nat) (s : State) : Ending := fire s (evSemRead port n size s)

/-- R388: a write releases a semaphore that the port holds. -/
def evSemWrite (p : Fin 2) (n : Fin 64) (size : Nat) (s : State) : Option State :=
  if !s.portUp p then none else if size ≠ 8 then some (s.status p 2) else
  some (State.status (if s.holds p n then { s with sems := s.sems.set n 0 } else s) p 0)
def execSemWrite (port : Fin 2) (n : Fin 64) (size : Nat) (s : State) : Ending := fire s (evSemWrite port n size s)

/-- R386: a port loses its link: its semaphores are free, its notices are kept. -/
def evHostLinkLoss (p : Fin 2) (s : State) : Option State :=
  if !s.portUp p then none else
  some { s with ports := s.ports.set p { s.ports[p] with up := false },
                sems := s.sems.map fun h => if h.val = p.val + 1 then 0 else h }
def execHostLinkLoss (port : Fin 2) (s : State) : Ending := fire s (evHostLinkLoss port s)

end Sys2Proof.Machine
end

