-- ==== Sys2Proof/Machine/Slaup.lean ====
section
/-! DEFINITION. The Slaup ports and the domain (16 R396 to R400; 17 R411 to R413), the patrol of memories (17 R404). -/
namespace Sys2Proof.Machine
open Sys2Proof

/-- A report of a class that belongs to no partition, to both host ports (16 R396). -/
def State.reportPorts (s : State) (cls : Nat) : State :=
  let n := hostNotice 0 0 false 0 9 (at_ cls 8) 0 0 0 0 0
  (s.notice 0 n).notice 1 n

/-! ## Links (16 R396) -/

/-- The version that the Kyram 7 supports of each interface: 1.0, lowest and highest. -/
def ownVersion : Nat := 0x10000
/-- The interfaces that a port carries: a UCIe port the host protocol, the management interface and the ISA, a Slaup port the Slaup
protocol. -/
def interfaces (p : Fin 20) : Nat := if p.val < 2 then 3 else 1
/-- The versions that a link settles on, the highest one in both ranges for each interface that it carries, given the lowest and the
highest of the other side; none where some interface has no common one. -/
def settled (p : Fin 20) (theirs : List (Nat × Nat)) : Option (List Nat) :=
  if theirs.length < interfaces p then none
  else (theirs.take (interfaces p)).mapM fun r => if r.1 ≤ ownVersion ∧ ownVersion ≤ r.2 then some ownVersion else none

/-- R396: a link comes up with a common version of each of its interfaces, its credit counts at 0 and the link delay measured
(R398); or it stays down and is reported. Ports 0 and 1 are the host's, 2 to 19 the Slaup ports, which train in READY (19 R432). A
dead port does not come up (17 R411). -/
def evLinkUp (p : Fin 20) (hello : LinkHello) (s : State) : Option State :=
  if !s.mg.power then none else
  if (settled p hello.versions).isNone then some (s.reportPorts 8)
  else if p.val < 2 then
    let h := Fin.ofNat 2 p.val
    some { s with ports := s.ports.set h { s.ports[h] with up := true } }
  else
    let q := Fin.ofNat 18 (p.val - 2)
    if s.mg.state ≠ .ready || s.slaup[q].dead then none else
    some (s.updSlaup q fun x => { x with up := true, ctl := Vector.replicate 8 Credit.init, dat := Vector.replicate 8 Credit.init,
                                         changed := none, credited := s.now, rotate := 0, delay := hello.delay, flit := s.now,
                                         downAt := none, fails := 0 })
def execLinkUp (port : Fin 20) (hello : LinkHello) (s : State) : Ending := fire s (evLinkUp port hello s)

/-- The link of a Slaup port goes down. -/
def State.linkDown (s : State) (p : Fin 18) : State :=
  if s.slaup[p].up then s.updSlaup p fun x => { x with up := false, downAt := some s.now } else s

/-- The lane layer retries a flit (17 R411, Table 17.5): the one that failed last once more, or another. -/
def State.laneRetry (s : State) (p : Fin 18) (same : Bool) : State :=
  s.updSlaup p fun x => { x with lanerty := min (x.lanerty + 1) 0xFFFFFFFF, fails := if same then x.fails + 1 else 1 }

/-! ## Credits and flits (16 R399, R400) -/

/-- R400: a returned count at the sender; a stale one is counted (17 Table 17.5). -/
def evCreditReturn (p : Fin 18) (vc : Fin 8) (data : Bool) (cnt : BitVec 16) (s : State) : Option State :=
  if s.slaup[p].up then some (s.updSlaup p fun x => { x.returned vc data cnt with flit := s.now }) else none
def execCreditReturn (port : Fin 18) (vc : Fin 8) (data : Bool) (cnt : BitVec 16) (s : State) : Ending :=
  fire s (evCreditReturn port vc data cnt s)

/-- R400: a credit-only flit carries the count of the next channel and plane in rotation. -/
def evCreditFlitTimer (p : Fin 18) (s : State) : Option State :=
  let x := s.slaup[p]
  if x.creditDue s.now || (x.up && x.unreported) then
    some (s.bump.updSlaup p fun x => { x.carries [(252, 248, 0), (247, 244, 0)] s.m.freeCtr with credited := s.now })
  else none
def execCreditFlitTimer (port : Fin 18) (s : State) : Ending := fire s (evCreditFlitTimer port s)

/-- A port frees the buffers of a control flit and of its data flits on a channel (R400). -/
def State.freed (s : State) (p : Fin 18) (vc : Fin 8) (n : Nat) : State :=
  s.updSlaup p fun x => { x.frees s.now vc n with flit := s.now }

/-- A reserved type is counted (R399). -/
def State.badFlit (s : State) (p : Fin 18) : State := s.updSlaup p fun x => { x with badflit := min (x.badflit + 1) 0xFFFFFFFF }

/-- R399, R400: a control flit of a reserved type on a channel is discarded and counted, and its buffer is freed. -/
def evRsvFlitDiscard (f : RsvFlit) (s : State) : Option State :=
  if s.slaup[f.port].up then some ((s.freed f.port f.vc 0).badFlit f.port) else none
def execRsvFlitDiscard (flit : RsvFlit) (s : State) : Ending := fire s (evRsvFlitDiscard flit s)

/-- The timestamp counter takes a value. -/
def State.setNow (s : State) (v : Nat) : State := { s with tsBase := (v : Int) - (s.cycle * 5 / 9 : Nat) }

/-- R398: the time that a flit at a port brings, corrected by the link delay of the port. The first one after power-good gives the counter
the domain's value (19 R432); then it never decreases (00 R5). -/
def State.timeTold (s : State) (p : Fin 18) (ts : Nat) : State :=
  if s.mg.state ≠ .ready then s else
  let v := ts + s.slaup[p].delay
  if !s.dom.joined then { s.setNow v with dom := { s.dom with joined := true } } else if s.now < v then s.setNow v else s
/-- R398: a time flit arrives at a port. -/
def evTimeFlit (f : TimeFlit) (s : State) : Option State :=
  if s.mg.state ≠ .ready || !s.slaup[f.port].up then none
  else some ((s.freed f.port (Config.channel 10) 0).timeTold f.port f.ts)
def execTimeFlit (flit : TimeFlit) (s : State) : Ending := fire s (evTimeFlit flit s)

/-! ## Dead links (17 R411 to R413) -/

/-- The plane of a message that leaves the package, before any rerouting: of its path, or of its source core (16 R397). -/
def State.homeOf (s : State) (m : Msg) : Nat :=
  match m with
  | .req r .. | .away _ _ (.req r ..) => s.homePlane r.op r.src (s.pathOf r)
  | .ent _ e .. => bits (eword e 0) 51 40 % 16
  | .away _ k _ => index (Fin.ofNat 4160 k) % 16
  | .ask r .. => index r.src % 16
  | _ => 0
/-- The plane that it takes (R412); none where it stays in the package or no route is live. -/
def State.planeOf (s : State) (m : Msg) : Option Nat := (m.leaves s.device).bind fun d => s.reroute d (s.homeOf m)
/-- The packets that are queued toward a hop of some plane (R413). -/
def State.toward (s : State) (test : BitVec 8 → Nat → Bool) : List Msg :=
  s.sh.fabric.filter fun m => match m.leaves s.device, s.planeOf m with
    | some d, some q => test d q
    | _, _ => false

/-- A control flit of a TYPE goes out on every live port (R412, R413). -/
def State.flood (s : State) (kind : Fin 15) (oper : Nat) : State :=
  ((List.finRange 18).filter fun p => s.slaup[p].up && !s.slaup[p].dead).foldl (fun s p => s.post (.ctl p kind (BitVec.ofNat 64 oper))) s
/-- The OPER of a link-state flit: identity and sequence number (log entry 112). -/
def linkOper (ident : Nat) (sq : BitVec 16) : Nat := ident % 2 ^ 16 * 2 ^ 16 + sq.toNat
/-- A message is a control flit for a port. -/
def Msg.ctlAt (m : Msg) : Option (Fin 18) := match m with | .ctl p .. => some p | _ => none

/-- The rounds of a drain begin, ending at multiples of 10 µs (R413). -/
def Domain.drains (d : Domain) (now : Nat) : Domain :=
  { d with draining := match d.draining with
      | some x => some x
      | none => some (0, (now / 10000 + 1) * 10000) }

/-- A port is dead (R411): 16 consecutive retries of one flit, 10 µs of a link down, 2 µs without a flit. -/
def SlaupPort.dies (x : SlaupPort) (now : Nat) : Bool :=
  !x.dead && (decide (16 ≤ x.fails) || (x.up && decide (x.flit + 2000 ≤ now)) || (match x.downAt with
    | some t => decide (t + 10000 ≤ now)
    | none => false))

/-- R411, R412: a port is dead: the owners are told, a link-state flit with a new sequence number goes out on every live port, and the
packets queued toward the hop are drained in rounds. -/
def evPortDead (p : Fin 18) (s : State) : Option State :=
  if !s.slaup[p].dies s.now || s.mg.state ≠ .ready then none else
  let q := s.slaup[p].plane p
  let sq := s.slaup[p].seq + 1
  let ms := s.toward fun _ n => decide (n = q)
  let d := s.dom
  let t := s.updSlaup p fun x => { x with up := false, dead := true, seq := sq, downAt := none }
  let t := { t with
    dom := { d with
      deaths := d.deaths ++ [p], stuck := d.stuck ++ ms, pairs := d.pairs ++ [(hopName s.device q, sq)] }.drains s.now,
    sh := { t.sh with fabric := t.sh.fabric.filter fun m => m.ctlAt ≠ some p } }
  some ((t.flood 11 (linkOper (hopName s.device q) sq)).reportAll 4 0 (at_ p.val 0))
def execPortDead (port : Fin 18) (s : State) : Ending := fire s (evPortDead port s)

/-- The standby port of a dead port: 16 for the first to die, 17 for the second (R411). -/
def Domain.standby (d : Domain) (p : Fin 18) : Option (Fin 18) :=
  match (d.deaths.filter fun q => decide (q.val < 16)).findIdx? fun q => q = p with
  | some 0 => some 16
  | some 1 => some 17
  | _ => none

/-- R411: a standby port takes over the cable of a dead port. -/
def evStandbyTakeover (p : Fin 18) (s : State) : Option State :=
  match s.dom.standby p with
  | none => none
  | some q =>
    if s.slaup[q].dead || s.slaup[q].standbyFor.isSome then none else
    some ((s.updSlaup q fun x => { x with up := true, standbyFor := some p, flit := s.now, credited := s.now }).reportAll 5 0
      (at_ q.val 0))
def execStandbyTakeover (port : Fin 18) (s : State) : Ending := fire s (evStandbyTakeover port s)

/-- R412: each pair of identity and sequence number is forwarded once, on every live port; routes are computed anew, and what was
queued toward the hop is drained. -/
def State.linkTold (s : State) (ident : Nat) (sq : BitVec 16) : State :=
  if s.mg.state ≠ .ready || s.dom.pairs.contains (ident, sq) then s else
  let ms := s.toward fun dev q => decide (hopName dev q = ident)
  let d := { s.dom with pairs := s.dom.pairs ++ [(ident, sq)], stuck := s.dom.stuck ++ ms }
  { s with dom := if ms.isEmpty then d else d.drains s.now }.flood 11 (linkOper ident sq)
/-- R412: a link-state flit arrives at a port, on channel 7. -/
def evLinkStateFlit (f : LinkFlit) (sq : BitVec 16) (s : State) : Option State :=
  if s.mg.state ≠ .ready || !s.slaup[f.port].up then none else some ((s.freed f.port 7 0).linkTold f.ident sq)
def execLinkStateFlit (flit : LinkFlit) (sq : BitVec 16) (s : State) : Ending := fire s (evLinkStateFlit flit sq s)

/-- A dropped packet's outcome (R413). A reply leaves its request to time out (06 R191). -/
def State.dropPacket (s : State) (m : Msg) : State :=
  match m with
  | .req r dst j | .away _ _ (.req r dst j) => match r.op with
    | .send .. => s.returned r dst 6 0x0B
    | .post _ => s.ackPost r j (some 0x0B)
    | .load .. | .loadv .. | .amo .. | .trecon .. => s.answer r 0 false (some 0x0B)
    | .copy _ | .cfetch .. => (s.abandon r).refuse r.src r.ctx r.pc
    | .tsub .. => s
  | _ => s

/-- Packets that their senders keep and send again: grants, pushes, completions and what else passes between lanes, managers and dispatch
cores, and the answers on which a path count or an injection entry waits (R413; 14 R357; log entry 128). -/
def Msg.keeps : Msg → Bool
  | .req .. | .away _ _ (.req ..) | .away _ _ (.reply ..) => false
  | _ => true

/-- A packet that leaves the package has a live route. -/
def State.routed (s : State) (m : Msg) : Bool := (s.planeOf m).isSome
/-- The packets of a drain round: queued toward a hop that died, or without a live route. -/
def State.drained (s : State) (m : Msg) : Bool :=
  (m.leaves s.device).isSome && !s.dom.kept.contains m && (s.dom.stuck.contains m || !s.routed m)
/-- Messages of a partition leave the package: it runs, or it is gone and they are what DESTROY left (14 R344). -/
def Part.sends (p : Part) : Bool := p.live || p.state == .free
/-- Their partition runs; a gang stop freezes the rounds (14 Table 14.8). -/
def State.unfrozen (s : State) (m : Msg) : Bool :=
  match m with
  | .req r _ _ | .away _ _ (.req r _ _) => (s.part r.part).live
  | .ask r .. => (s.part r.part).sends
  | .ent _ _ _ n | .away _ _ (.portion n ..) | .away _ _ (.rounds n ..) => (s.part n).sends
  | .away _ k _ => (s.part (s.partNo (Fin.ofNat 4160 k))).live
  | _ => true
def State.lost (s : State) (m : Msg) : Bool := s.drained m && s.unfrozen m && !s.routed m

/-- R413: a drain round ends: its number goes out in a drain-round flit, packets with a live route are requeued, the others are dropped
and counted. The rounds end after one that finds no packet, and after four; a class 9 report follows. A round that finds only frozen
packets does not count. `n` is the round number, `ended` how many rounds of this drain have ended, `due` when this one ends. -/
def evDrainRound (n ended due : Nat) (s : State) : Option State :=
  match s.dom.draining with
  | none => none
  | some (k, t) =>
    if s.now < t || n ≠ s.dom.drainRound + 1 || k ≠ ended || t ≠ due then none else
    let all := s.sh.fabric.filter s.drained
    let now := all.filter s.unfrozen
    let frozen := all.filter fun m => !s.unfrozen m
    if now.isEmpty && !frozen.isEmpty then some { s with dom := { s.dom with draining := some (k, t + 10000) } } else
    let gone := s.sh.fabric.filter s.lost
    let u := (gone.filter fun m => !m.keeps).foldl State.dropPacket
      { s with sh := { s.sh with fabric := s.sh.fabric.filter fun m => !s.lost m || m.keeps } }
    let d := u.dom
    let sum := d.dropped + gone.length
    let fin := frozen.isEmpty && (now.isEmpty || decide (4 ≤ k + 1))
    let u := { u with dom := { d with
      stuck := frozen, kept := d.kept ++ gone.filter Msg.keeps, drainRound := n, dropped := if fin then 0 else sum,
      drainDrop := min (d.drainDrop + gone.length) 0xFFFFFFFF, draining := if fin then none else some (k + 1, t + 10000) } }
    let u := u.flood 12 n
    some (if fin then u.reportAll 9 sum 0 else u)
def execDrainRound (n ended due : Nat) (s : State) : Ending := fire s (evDrainRound n ended due s)

/-! ## Messages that leave and arrive (16 R397 to R400) -/

/-- A message may leave at a port: that of its plane, or, for a control flit, the one that it is for, with credit for it. -/
def State.exits (s : State) (m : Msg) (p : Fin 18) : Bool :=
  let x := s.slaup[p]
  x.up && !x.dead && decide (x.plane p < 16) && x.hasCredit m.channel m.ndata &&
    (match m.ctlAt with
      | some q => decide (q = p)
      | none => s.planeOf m == some (x.plane p))

/-- A message waits for nothing in the package: its partition runs, earlier ones on its path have left, no drain holds it. -/
def State.outTurn (s : State) (i : Nat) (m : Msg) : Bool :=
  !s.dom.stuck.contains m && (match m with
    | .req r dst _ => s.runs r.part r.op && s.pathTurn i r dst && s.hostTurn i r dst
    | .ent _ _ _ n | .away _ _ (.portion n ..) => (s.part n).sends
    | .ask r d .. => (s.part r.part).sends && s.askTurn i r d
    | _ => true)

/-- A message leaves the package at a port under credit: its header is formed, and carries a count (R399, R400). -/
def State.emit (s : State) (i : Nat) (p : Fin 18) : Option State :=
  match s.msg i with
  | none => none
  | some m =>
    if !s.exits m p || !s.outTurn i m then none else
    let src := match m with | .away .. => [(222, 215, s.device.toNat)] | _ => []
    let t := s.bump.updSlaup p fun x => (x.sends m.channel m.ndata).carries (m.header ((m.leaves s.device).getD 0) ++ src) s.m.freeCtr
    some ({ t with dom := { t.dom with kept := t.dom.kept.filter fun g => g ≠ m } }.unpost i)

/-- What was credited on a channel before a partition's T: within 128 of the count that the port had reported then (14 R357; 16 R400). -/
def State.creditedBefore (s : State) (n : Nat) (p : Fin 18) (vc : Fin 8) : Bool :=
  decide ((s.slaup[p].ctl[vc].freed - (s.part n).credits.getD (8 * p.val + vc.val) 0).toNat < 128)

/-- The partition that stops, among whose messages one that arrives on a channel of a port falls out: it was credited before T and goes
into the edge routers (14 R357). `s` is the state before the flit's buffer is freed. -/
def State.edge (s : State) (p : Fin 18) (vc : Fin 8) (m : Msg) : Bool :=
  s.parts.any fun e => e.2.state == .stopping && m.falls s.device e.1 e.2.has && s.creditedBefore e.1 p vc

/-- A message arrives from another package: it goes on, or falls out at the edge routers. -/
def State.letIn (s : State) (edge : Bool) (m : Msg) : State :=
  if edge then { s with sh := { s.sh with fallout := s.sh.fallout ++ [(256, m)] } } else s.post m

/-- A control flit arrives at a port with the data flits that follow it: `m` is the message that they carry; of their form the spec gives
the fields of the header (log entry 116). The port frees their buffers and takes the count that the flit carries; then the flit has its
effect. A message that its header does not fit is none. -/
def State.takeFlit (s : State) (p : Fin 18) (f : BitVec 256) (m : Option Msg) : State :=
  if !s.slaup[p].up then s else
  let vc := Fin.ofNat 8 (flitBits f 255 253)
  let kind := flitBits f 252 248
  let oper := flitBits f 127 64
  let u := if kind = 0 then s else s.freed p vc (flitBits f 247 244)
  let t := u.updSlaup p fun x =>
    { x.returned (Fin.ofNat 8 (flitBits f 31 29)) (decide (flitBits f 28 28 = 1)) (BitVec.ofNat 16 (flitBits f 27 12)) with flit := s.now }
  if 15 ≤ kind then t.badFlit p
  else match kind with
    | 10 => t.timeTold p oper
    | 11 => t.linkTold (oper / 2 ^ 16 % 2 ^ 16) (BitVec.ofNat 16 oper)
    | _ => match m with
      | some g => if g.fits s.device f && (g.leaves s.device).isNone && g.ctlAt.isNone then t.letIn (s.edge p vc g) g else t
      | none => t

/-! ## The patrol (17 R404) -/

/-- R404: every 4,096 cycles a core reads one line of its slice or staging SRAM; correctable words are corrected and counted,
uncorrectable ones counted and left. -/
def evPatrolRead (k : Key) (s : State) : Option State :=
  let co := s.core k
  let turn := s.cycle / 4096
  if !s.mg.power || turn ≤ co.patrolled then none else
  let a := Loc.local_ k (turn % (localSize k / 64) * 64) / 8
  let ws := (List.range 8).map (a + ·)
  let bad := (ws.filter fun w => s.sh.ue.contains w).length
  let mend := (ws.filter fun w => s.sh.ce.contains w).length
  let s := s.updCore k fun co => { co with patrolled := turn }
  let s := (List.range bad).foldl (fun s _ => s.updCore k fun co => co.count 1) s
  let s := (List.range mend).foldl (fun s _ => s.countOneCe k) s
  some { s with sh := { s.sh with ce := s.sh.ce.filter fun w => !ws.contains w } }
def execPatrolRead (c : Key) (s : State) : Ending := fire s (evPatrolRead c s)

/-! ## Physical upsets (17 R403, Table 17.1; log entry 80) -/

/-- A word in error: uncorrectable or correctable. -/
def State.upsetWord (s : State) (w : Nat) (ue : Bool) : State :=
  let add := fun (l : List Nat) => if l.contains w then l else w :: l
  { s with sh := if ue then { s.sh with ue := add s.sh.ue } else { s.sh with ce := add s.sh.ce } }

/-- What an upset leaves. A correctable word outside the byte store is corrected at once and counted (R415); one of a lane belongs to
no core and is only corrected. -/
def State.upset (s : State) (u : Upset) : State :=
  match u with
  | .word w ue => s.upsetWord w ue
  | .queue k i ue => s.updCore k fun co => { co with rq := lmod co.rq i fun q => { q with err := some ue } }
  | .log k q ue => if ue then s.updCore k fun co => { co with logUe := q :: co.logUe } else s.countOneCe k
  | .fly k c i ue => if ue then s.updCore k fun co => { co with flyUe := (c, i) :: co.flyUe } else s.countOneCe k
  | .locks k ue => if ue then s.updCore k fun co => { co with lkm := { co.lkm with ue := true } } else s.countOneCe k
  | .lane n ue => if ue then s.updPart n.val fun p => { p with lane := { p.lane with ue := true } } else s
  | .logic k c => s.updCtx k c fun x => { x with aux := { x.aux with flaw := true } }
  | .kiln k none => s.updCore k fun co => { co with kq := co.kq.map fun q => if q.started.isSome then { q with flaw := true } else q }
  | .kiln k (some e) => s.updCore k fun co =>
      { co with kq := co.kq.map fun q => if q.started.isSome then { q with failAt := some e } else q }

/-! ## The device number (16 R398) -/

/-- The host assigns the device number when it forms the domain: while no partition exists (log entry 66). -/
def State.assign (s : State) (n : BitVec 8) : State :=
  if n.toNat < 192 && s.mg.power && s.parts.all fun e => e.2.state == .free then { s with device := n } else s

end Sys2Proof.Machine
end

