-- ==== Sys2Proof/Machine/Psipen.lean ====
section
/-! DEFINITION. Debug commands (18 R417 to R423), trace records and sampling (18 R426, R429). -/
namespace Sys2Proof.Machine
open Sys2Proof

/-- A debug command (18 R417; 16 R390; 19 R432): the partition must be ACTIVE or ARMED and hold the core, and, but for DTREAD,
CONFIG.DEBUG be 1. -/
def State.debugCmd (s : State) (p : Fin 2) (part : Fin 64) (k : Key) (any : Bool) (f : State → Cmd) : Option State :=
  s.command p part fun s => do
    check (s.part part.val).live 1
    check (any || (s.part part.val).config.getLsbD 63) 2
    check ((s.part part.val).has k) 2
    f s

/-- The contexts of a mask. -/
def maskCtx (m : BitVec 4) : List CtxNo := allCtx.filter fun c => m.getLsbD c.val

/-! ## Stops (18 R418) -/

/-- A stop of scope 0: now, or at the context's next boundary. -/
def State.stopCtx (s : State) (k : Key) (c : CtxNo) : State :=
  let x := s.ctx k c
  if x.stopsNow then s.takeStop k c 0
  else if x.isStopped then s
  else s.updCtx k c fun x => { x with aux := { x.aux with dbg := { x.aux.dbg with want := some 0 } } }

/-- A stop that waits for a superstep's or a transaction's end. -/
def State.wantStop (s : State) (k : Key) (c : CtxNo) (scope : Fin 3) : State :=
  s.updCtx k c fun x => { x with aux := { x.aux with dbg := { x.aux.dbg with want := some scope } } }

/-- R418; the domain ends at the partition (00 R7). -/
def dstopCmd (k : Key) (m : BitVec 4) (scope : Fin 3) (s : State) : Cmd :=
  match scope.val with
  | 0 => .ok ((maskCtx m).foldl (fun s c => s.stopCtx k c) s)
  | 1 =>
    let co := s.core k
    let ks := if co.csr.dm[0].getLsbD 63 then s.rectOf k (co.rect 0) else [k]
    .ok (ks.foldl (fun s j => (maskCtx m).foldl (fun s c => s.wantStop j c 1) s) s)
  | _ => .ok ((maskCtx m).foldl (fun s c =>
      let x := s.ctx k c
      if x.csr.txbody || x.aux.recon.isSome then s.wantStop k c 2 else s.stopCtx k c) s)

def evDstop (p : Fin 2) (part : Fin 64) (k : Key) (m : BitVec 4) (scope : Fin 3) (s : State) : Option State :=
  s.debugCmd p part k false (dstopCmd k m scope)
def execDstop (port : Fin 2) (part : Fin 64) (c : Key) (mask : BitVec 4) (scope : Fin 3) (s : State) : Ending :=
  fire s (evDstop port part c mask scope s)

/-- How many words the BREAK that a context issues next has; none where that is another instruction. A follower of a course-fetch run
issues what its leader forwards (09 R268). -/
def State.atBreak (s : State) (k : Key) (c : CtxNo) : Option Nat :=
  let ws := if s.follower k c then
      ((s.runOf k).bind fun r => (r.ahead (k.val - r.leader.val)).map fun e => e.2.1).getD []
    else s.wordsAt k (s.ctx k c).pc 5
  match decode ws with
  | .ok (.brk _, n) => some n
  | _ => none

/-- A stopped context's BREAK of some words retires with no other effect (R419). -/
def State.passBreak (s : State) (k : Key) (c : CtxNo) (n : Nat) : State :=
  let x := s.ctx k c
  if x.faulty then s.blocked k c else
  (s.addHist k c x.pc (s.core k).logHead s.m.nextId false).updCtx k c fun y => { y.slide x.aux.windows with pc := nextPc x.pc n }

/-- A stopped context goes on, with a count of instructions or without. One that stopped after its transaction is idle
(R418). With SKIP the BREAK that it stopped at retires at once; in a course-fetch run, whose leader forwards it, as it issues
(R419). -/
def State.goOn (s : State) (k : Key) (c : CtxNo) (skip : Bool) (steps : Option Nat) : State :=
  match (s.ctx k c).run with
  | .stopped scope =>
    let pc := (s.ctx k c).pc
    let s := s.trace k c 8 pc scope.val 1
    if scope = 2 then
      (s.updCtx k c fun x => { x with aux := { x.aux with dbg := ⟨none, none, false⟩ } }).becomeIdle k c
    else
      let b := if skip then s.atBreak k c else none
      let s := s.updCtx k c fun x => { x with run := .running, aux := { x.aux with dbg := ⟨none, steps, b.isSome && s.slaved k c⟩ } }
      match b with
      | some n => if s.slaved k c then s else s.passBreak k c n
      | none => s
  | _ => s

/-- R417, R419: the stopped contexts of the mask go on; a context of the mask that is not stopped is refused with status 5. -/
def dgoCmd (k : Key) (m : BitVec 4) (skip : Bool) (s : State) : Cmd := do
  check ((maskCtx m).all fun c => (s.ctx k c).isStopped) 5
  pure ((maskCtx m).foldl (fun s c => s.goOn k c skip none) s)

def evDgo (p : Fin 2) (part : Fin 64) (k : Key) (m : BitVec 4) (skip : Bool) (s : State) : Option State :=
  s.debugCmd p part k false (dgoCmd k m skip)
def execDgo (port : Fin 2) (part : Fin 64) (c : Key) (mask : BitVec 4) (skip : Bool) (s : State) : Ending :=
  fire s (evDgo port part c mask skip s)

/-- R417. -/
def dstepCmd (k : Key) (c : CtxNo) (n : Nat) (s : State) : Cmd := do
  check (decide (1 ≤ n ∧ n ≤ 255)) 2
  check (s.ctx k c).isStopped 5
  pure (s.goOn k c false (some n))

def evDstep (p : Fin 2) (part : Fin 64) (k : Key) (c : CtxNo) (n : Nat) (s : State) : Option State :=
  s.debugCmd p part k false (dstepCmd k c n)
def execDstep (port : Fin 2) (part : Fin 64) (c : Key) (k : CtxNo) (n : Nat) (s : State) : Ending :=
  fire s (evDstep port part c k n s)

/-! ## Reverse steps (18 R421) -/

/-- The entry at a place of the log, if it is retained. -/
def Core.logAt (co : Core) (place : Nat) : Option LogEntry :=
  if place < co.logHead then co.log[co.logHead - 1 - place]? else none

/-- A later slice entry of another context, which may be one of another core, names the same word. -/
def Core.overwritten (co : Core) (c : CtxNo) (place : Nat) (e : LogEntry) : Bool :=
  match e.kind with
  | .slice _ _ _ _ _ off => (co.log.take (co.logHead - 1 - place)).any fun f => match f.kind with
    | .slice d remote _ _ _ o => decide (o = off) && (remote || decide (d ≠ c))
    | _ => false
  | _ => false

/-- The 8-byte part of a vector replaced. -/
def vPart (v : VWord) (i : Nat) (w : Word) : VWord :=
  BitVec.ofNat 512 (v.toNat - (eword v i).toNat <<< (64 * i) + w.toNat <<< (64 * i))

/-- An entry undone: a slice word, a CSR, a register part (R421). -/
def State.undo (s : State) (k : Key) (e : LogEntry) : State :=
  match e.kind with
  | .slice _ _ _ _ _ off => s.putRaw k [(off.toNat, 8, e.old.toNat)]
  | .csr c n => s.csrPut k c n.val e.old
  | .reg c cls r i => s.updCtx k c fun x =>
      if cls = 0 then x.putX r e.old
      else if cls = 1 then x.putV r (vPart (x.v r) i.val e.old)
      else x.putP (Fin.ofNat 8 r.val) e.old
  | _ => s

/-- The context after a reverse step: at the PC of the instruction taken back; a stop after a transaction is one before its `TEND` or
`HALT` again (R418, R421). -/
def Ctx.tookBack (x : Ctx) (pc : PC) (rest : List Hist) : Ctx :=
  { x with pc := pc, run := (match x.run with | .stopped _ => .stopped 0 | r => r), aux := { x.aux with hist := rest } }

/-- One reverse step of a context, or its refusal. -/
def State.stepBack (s : State) (k : Key) (c : CtxNo) : Option State :=
  match (s.ctx k c).aux.hist with
  | [] => none
  | h :: rest =>
    let co := s.core k
    let places := h.seqs.reverse
    let es := places.map fun p => (p, co.logAt p)
    let bad := h.irrev || es.any (fun e => match e.2 with
      | none => true
      | some x => co.overwritten c e.1 x)
    if bad then none else
    let s := es.foldl (fun (s : State) e => (match e.2 with
      | some x => s.undo k x
      | none => s)) s
    let mark := fun (co : Core) (e : LogEntry × Nat) =>
      if h.seqs.contains (co.logHead - 1 - e.2) then (⟨.void, 0⟩ : LogEntry) else e.1
    let s := s.updCore k fun co => { co with log := co.log.zipIdx.map (mark co) }
    some (s.updCtx k c fun x => x.tookBack h.pc rest)

/-- How many undo entries of a context's newest instruction are in error. -/
def State.backErrors (s : State) (k : Key) (c : CtxNo) : Nat :=
  match (s.ctx k c).aux.hist with
  | [] => 0
  | h :: _ => (h.seqs.filter fun p => (s.core k).logUe.contains p && ((s.core k).logAt p).isSome).length

/-- Up to n reverse steps: the state and how many were made. An entry in error takes no step back, and is partition-fatal as in any
replay (17 R407; log entry 141). -/
def State.stepsBack (k : Key) (c : CtxNo) : Nat → State → State × Nat
  | 0, s => (s, 0)
  | n + 1, s =>
    if s.backErrors k c ≠ 0 then (s.fatalAt k c (s.backErrors k c), 0) else
    match s.stepBack k c with
    | none => (s, 0)
    | some t => let r := State.stepsBack k c n t
                (r.1, r.2 + 1)

/-- A debug reply (16 Table 16.3, SUB 10). -/
def State.debugReply (s : State) (p : Fin 2) (op status count : Nat) (part : Fin 64) (number : Nat) (v : VWord) : State :=
  s.notice p (hostNotice 0 0 false 0 10 (at_ op 0) (at_ status 8 ||| at_ count 16) (at_ part.val 0) 0 (at_ number 0) v)

/-- R421: status 5 unless every context is stopped or idle; status 1 where the first step is refused (log entry 24), but that an undo
entry in error there is told in the reply (log entry 141). -/
def drstepCmd (p : Fin 2) (part : Fin 64) (k : Key) (c : CtxNo) (n : Nat) (s : State) : Cmd := do
  check (decide (1 ≤ n ∧ n ≤ 128)) 2
  check (allCtx.all fun d => (s.ctx k d).isStopped || (s.ctx k d).run == .idle) 5
  let r := State.stepsBack k c n s
  check (decide (r.2 ≠ 0 ∨ s.backErrors k c ≠ 0)) 1
  pure (r.1.debugReply p 4 (if r.2 = n then 0 else 1) r.2 part 0 0)

def evDrstep (p : Fin 2) (part : Fin 64) (k : Key) (c : CtxNo) (n : Nat) (s : State) : Option State :=
  s.debugCmd p part k false (drstepCmd p part k c n)
def execDrstep (port : Fin 2) (part : Fin 64) (c : Key) (k : CtxNo) (n : Nat) (s : State) : Ending :=
  fire s (evDrstep port part c k n s)

/-! ## Reading (18 R417) -/

/-- Eight free words: a history entry, whose layout the spec does not give (log entry 25). -/
def State.freeLine (s : State) : VWord × State :=
  let f := fun (i : Nat) => (Config.freeWord (s.m.freeCtr + i)).toNat <<< (64 * i)
  (BitVec.ofNat 512 ((List.range 8).foldl (fun a i => a + f i) 0), { s with m := { s.m with freeCtr := s.m.freeCtr + 8 } })

/-- The value that DREAD returns: none for a number that does not exist. Log and history entries count from the newest
(log entry 25). One that returns a slice word, as an entry of KIND 0 does, is entered in the histories (18 R422). An entry in error is
counted, and what it holds is not known: a free value (log entry 141). -/
def State.dread (s : State) (k : Key) (c : CtxNo) (cls : DClass) (n : Nat) : Option (VWord × State) :=
  let x := s.ctx k c
  let w := fun (v : Word) => some (v.setWidth 512, s)
  match cls with
  | .x => if n < 32 then w (x.x (Fin.ofNat 32 n)) else none
  | .v => if n < 32 then some (x.v (Fin.ofNat 32 n), s) else none
  | .p => if n < 8 then w (x.p (Fin.ofNat 8 n)) else none
  | .g => if n < 8 then w ((x.g (Fin.ofNat 8 n)).setWidth 64) else none
  | .csr => if (csrRights n).isSome then w (s.csrRead k c n) else none
  | .log => match (s.core k).log[n]? with
    | some e => if (s.core k).logUe.contains ((s.core k).logHead - 1 - n) then (let r := s.freeLine; some (r.1.setWidth 128 |>.setWidth 512, r.2.countUe k 1))
      else some (BitVec.ofNat 512 (e.old.toNat + e.word.toNat <<< 64), match e.kind with
        | .slice .. => s.irrevCore k
        | _ => s)
    | none => none
  | .hist => if n < x.aux.hist.length then some s.freeLine else none

/-- R417. -/
def dreadCmd (p : Fin 2) (part : Fin 64) (k : Key) (c : CtxNo) (cls : DClass) (n : Nat) (s : State) : Cmd :=
  match s.dread k c cls n with
  | none => .error 2
  | some (v, t) => .ok (t.debugReply p 5 0 0 part n v)

def evDread (p : Fin 2) (part : Fin 64) (k : Key) (c : CtxNo) (cls : DClass) (n : Nat) (s : State) : Option State :=
  s.debugCmd p part k false (dreadCmd p part k c cls n)
def execDread (port : Fin 2) (part : Fin 64) (c : Key) (k : CtxNo) (cls : DClass) (n : Nat) (s : State) : Ending :=
  fire s (evDread port part c k cls n s)

/-- Trace records four to a notice, in order (16 R395). -/
def State.traceReplies (s : State) (p : Fin 2) (part : Fin 64) (rs : List (BitVec 128)) : State :=
  let gs := if rs.isEmpty then [[]] else groups 4 rs rs.length
  gs.foldl (fun s g =>
    let v := g.zipIdx.foldl (fun (a : Nat) e => a + e.1.toNat <<< (128 * e.2)) 0
    s.debugReply p 6 0 g.length part 0 (BitVec.ofNat 512 v)) s

/-- R426, R417: up to MAX records leave the buffer, oldest first. -/
def dtreadCmd (p : Fin 2) (part : Fin 64) (k : Key) (n : Nat) (s : State) : Cmd := do
  check (decide (1 ≤ n ∧ n ≤ 64)) 2
  let rs := (s.core k).trace.recs.take n
  let t := s.updCore k fun co => { co with trace := { co.trace with recs := co.trace.recs.drop n } }
  pure (t.traceReplies p part rs)

def evDtread (p : Fin 2) (part : Fin 64) (k : Key) (n : Nat) (s : State) : Option State :=
  s.debugCmd p part k true (dtreadCmd p part k n)
def execDtread (port : Fin 2) (part : Fin 64) (c : Key) (n : Nat) (s : State) : Ending :=
  fire s (evDtread port part c n s)

/-- R429: at each multiple of 1,000 ns RATE moves by one step with the occupancy. -/
def evTraceRateAdjust (k : Key) (s : State) : Option State :=
  let t := (s.core k).trace
  let turn := s.now / 1000
  if !s.mg.power || turn ≤ t.rated then none else
  let n := t.recs.length
  let r : Fin 8 := if 768 < n ∧ t.rate < 7 then t.rate + 1 else if n < 256 ∧ 0 < t.rate then t.rate - 1 else t.rate
  some (s.updCore k fun co => { co with trace := { t with rate := r, rated := turn } })
def execTraceRateAdjust (c : Key) (s : State) : Ending := fire s (evTraceRateAdjust c s)

end Sys2Proof.Machine
end

