-- ==== Sys2Proof/Machine/Module.lean ====
section
/-! DEFINITION. Module, boot, attestation and power (19 R430 to R438), the error counters' registers (17 R415). -/
namespace Sys2Proof.Machine
open Sys2Proof

def State.setMgmt (s : State) (m : Mgmt) : State := { s with mg := m }

/-! ## Power (19 R431, R432, R437) -/

/-- Everything but the OTP fuses is lost, the device number among it. The model's own fields stay. -/
def State.blank (s : State) (power : Bool) : State :=
  { State.reset with
    cycle := if power then 0 else s.cycle, tsBase := if power then 0 else s.tsBase,
    mg := { Mgmt.init with power := power, svnmin := s.mg.svnmin, leafctr := s.mg.leafctr },
    m := { s.m with inputs := if power then s.m.inputs.map fun e => (e.1 - s.cycle, e.2) else s.m.inputs } }

/-- R432: at power-good self-test begins; the timestamp counter starts at 0. -/
def evPowerGood (s : State) : Option State := if s.mg.power then none else some (s.blank true)
def execPowerGood (s : State) : Ending := fire s (evPowerGood s)

/-- R437: power is lost. -/
def evPowerLoss (s : State) : Option State := if s.mg.power then some (s.blank false) else none
def execPowerLoss (s : State) : Ending := fire s (evPowerLoss s)

/-- 95 °C and 105 °C in the steps of a sensor, of 1/16 °C. -/
def warm : Nat := 95 * 16
def hot : Nat := 105 * 16
/-- The temperature of a reading. -/
def tempOf (w : Word) : Nat := bits w 15 0

/-- Each port is told the temperature (R431). -/
def State.tempNotice (s : State) (w : Word) : State :=
  let n := hostNotice 0 0 false 0 12 w 0 0 0 0 0
  (s.notice 0 n).notice 1 n

/-- R431: at 105 °C a pre-emption of every partition is armed, as for a partition-fatal error; once. -/
def State.tripped (s : State) : State :=
  if s.mg.trip.isSome then s else
  let s := s.setMgmt { s.mg with trip := some s.now }
  s.parts.foldl (fun s e => if e.2.live || e.2.state == .resuming then s.partFatal e.1 none 0 0 0 0 else s) s

/-- R431: a sensor at 95 °C or above; the temperature is in 1/16 °C. At 105 °C the trip is with it. -/
def evTempWarning (die : BitVec 4) (t : BitVec 16) (s : State) : Option State :=
  if !s.mg.power || decide (t.toNat < warm) then none else
  let w := at_ die.toNat 16 ||| at_ t.toNat 0
  let s := (s.setMgmt { s.mg with tempmax := w }).tempNotice w
  some (if hot ≤ t.toNat then s.tripped else s)
def execTempWarning (die : BitVec 4) (t : BitVec 16) (s : State) : Ending := fire s (evTempWarning die t s)

/-- R431: a sensor reaches 105 °C, of a die and to a height that are free; the ports have been told of the 95 °C that it passed. -/
def evThermalTrip (s : State) : Option State :=
  if !s.mg.power || s.mg.trip.isSome then none else
  if hot ≤ tempOf s.mg.tempmax then some s.tripped else
  let (x, u) := s.freeWord
  let w := at_ (bits x 18 16) 16 ||| at_ (hot + bits x 15 0 % (2 ^ 16 - hot)) 0
  let u := u.setMgmt { u.mg with tempmax := w }
  some (if tempOf s.mg.tempmax < warm then (u.tempNotice w).tripped else u.tripped)
def execThermalTrip (s : State) : Ending := fire s (evThermalTrip s)

/-- No partition runs or stops. -/
def State.allStopped (s : State) : Bool := s.parts.all fun e => match e.2.state with
  | .free | .stopped | .saved | .incomplete => true
  | _ => false

/-- R431: the rails go off once every partition is stopped, or 50 µs after the trip. -/
def evRailsOff (s : State) : Option State :=
  match s.mg.trip with
  | none => none
  | some t => if s.mg.power && (s.allStopped || decide (t + 50000 ≤ s.now)) then some (s.blank false) else none
def execRailsOff (s : State) : Ending := fire s (evRailsOff s)

/-! ## Bring-up and firmware (19 R432 to R435) -/

/-- R432: self-test ends. -/
def evSelftestDone (ok : Bool) (s : State) : Option State :=
  if !s.mg.power || s.mg.state ≠ .selftest then none else
  some (s.setMgmt (if ok then { s.mg with state := .waitfw } else { s.mg with state := .failed, fail := 5 }))
def execSelftestDone (ok : Bool) (s : State) : Ending := fire s (evSelftestDone ok s)

/-- R433: a write of FWCTL starts verification in WAITFW and FAILED. The address is in the firmware region, a multiple of
64 KiB (19 Table 19.4). An access of another size than 8 bytes completes with status 2 (16 R387). -/
def evFwctlWrite (p : Fin 2) (addr size : Nat) (s : State) : Option State :=
  if !s.portUp p then none else if size ≠ 8 then some (s.status p 2) else
  some (if s.mg.state ≠ .waitfw ∧ s.mg.state ≠ .failed then s.status p 1
    else if addr % 0x10000 ≠ 0 ∨ addr < firmwareBase ∨ Loc.farEnd ≤ addr then s.status p 2
    else (s.setMgmt { s.mg with state := .verify, fwaddr := addr }).status p 0)
def execFwctlWrite (port : Fin 2) (addr size : Nat) (s : State) : Ending := fire s (evFwctlWrite port addr size s)

/-- Bytes of far memory. -/
def State.farBytes (s : State) (a n : Nat) : List Byte := s.sh.mem.bytes a n

/-- The image at an address, with a body of a length, is signed with the Jalilte root key (R434). -/
def State.signed (s : State) (a len : Nat) : Bool :=
  xmssVerify (keyRoot jalilteKey) (keySeed jalilteKey) (s.farBytes a (64 + len)) (s.farBytes (a + 64 + len) 9732)

/-- The verdict on the image at an address: a FAIL code, or 0 (R434). The words of the header are 8 bytes. -/
def State.verify (s : State) (a : Nat) : Nat :=
  let w := fun (i : Nat) => s.sh.mem.read (a + 8 * i) 8
  let len := w 1
  if w 0 ≠ 0x4B595237 ∨ s.sh.mem.read (a + 24) 40 ≠ 0 then 1
  else if len % 64 ≠ 0 ∨ 0x4000000 < len then 2
  else if !s.signed a len then 3
  else if w 2 < s.mg.svnmin.toNat then 4
  else 0

/-- R434: verification ends. -/
def evVerifyDone (s : State) : Option State :=
  if !s.mg.power || s.mg.state ≠ .verify then none else
  let a := s.mg.fwaddr
  let code := s.verify a
  let image := s.farBytes a (64 + s.sh.mem.read (a + 8) 8)
  some (s.setMgmt (if code = 0 then
      { s.mg with state := .ready, fail := 0, svn := BitVec.ofNat 64 (s.sh.mem.read (a + 16) 8),
                  measure := shake256 image }
    else { s.mg with state := .failed, fail := BitVec.ofNat 8 code }))
def execVerifyDone (s : State) : Ending := fire s (evVerifyDone s)

/-- R435. -/
def evSvnsetWrite (p : Fin 2) (svn : BitVec 16) (s : State) : Option State :=
  if !s.portUp p then none else
  let up := s.mg.state == .ready && decide (s.mg.svnmin.toNat < svn.toNat ∧ svn.toNat ≤ s.mg.svn.toNat)
  some ((if up then s.setMgmt { s.mg with svnmin := svn } else s).status p 0)
def execSvnsetWrite (port : Fin 2) (svn : BitVec 16) (s : State) : Ending := fire s (evSvnsetWrite port svn s)

/-! ## Attestation (19 R436, R437) -/

/-- A word as bytes. -/
def wordBytes (n w : Nat) : List Byte := (List.range n).map fun i => BitVec.ofNat 8 (w >>> (8 * i))

/-- Bytes written to far memory. -/
def State.farWrite (s : State) (a : Nat) (bs : List Byte) : State := s.putFar (bs.zipIdx.map fun b => (a + b.2, b.1, false))

/-- The notice of a finished request (16 Table 16.3, SUB 11). -/
def State.attDone (s : State) (p : Fin 2) (status leaf addr : Nat) : State :=
  s.notice p (hostNotice 0 0 false 0 11 (at_ leaf 0) (at_ status 8) 0 0 (at_ addr 0) 0)

/-- R437, MODE 0: the leaf is committed before anything is signed. -/
def State.sign (s : State) (p : Fin 2) (addr : Nat) : State :=
  let i := s.mg.leafctr
  if 2 ^ 20 ≤ i then s.attDone p 1 0 addr else
  let s := s.setMgmt { s.mg with leafctr := i + 1 }
  let msg := s.farBytes addr 64 ++ wordBytes 8 Config.devid.toNat ++ wordBytes 8 s.mg.svn.toNat ++ s.mg.measure ++ wordBytes 8 i
  let s := s.farWrite (addr + 64) (msg.drop 64)
  let s := s.farWrite (addr + 152) (xmssSign deviceKey i msg)
  s.attDone p 0 i addr

/-- R437, MODE 1: the public key and its endorsement, a signature of 9,732 bytes (R434, R436). -/
def State.identity (s : State) (p : Fin 2) (addr : Nat) : State :=
  let s := s.farWrite addr (publicKey deviceKey)
  let s := s.farWrite (addr + 192) (xmssSign jalilteKey Config.endorseLeaf.val (wordBytes 8 Config.devid.toNat ++ publicKey deviceKey))
  s.attDone p 0 0 addr

/-- A write of ATTREQ: in READY, at a multiple of 64 below the firmware region, with an access of 8 bytes (16 R387). -/
def State.attreq (s : State) (p : Fin 2) (addr size : Nat) (f : State → State) : Option State :=
  if !s.portUp p then none else if size ≠ 8 then some (s.status p 2) else
  some (if s.mg.state ≠ .ready then s.status p 1
    else if addr % 64 ≠ 0 ∨ firmwareBase ≤ addr then s.status p 2
    else (f s).status p 0)

def evAttreqSign (p : Fin 2) (addr size : Nat) (s : State) : Option State := s.attreq p addr size fun s => s.sign p addr
def execAttreqSign (port : Fin 2) (addr size : Nat) (s : State) : Ending := fire s (evAttreqSign port addr size s)
def evAttreqIdentity (p : Fin 2) (addr size : Nat) (s : State) : Option State :=
  s.attreq p addr size fun s => s.identity p addr
def execAttreqIdentity (port : Fin 2) (addr size : Nat) (s : State) : Ending := fire s (evAttreqIdentity port addr size s)

/-! ## Management registers (19 R438, 17 R415) -/

/-- A counter that CSEL can name (17 Table 17.5). -/
inductive Counter where
  | core (k : Key) (i : Fin 11) | kiln (k : Nat) | port (p : Fin 18) (i : Fin 3) | drain
  deriving DecidableEq, Repr

/-- The counter that a CSEL word names; none where it names none. -/
def counterOf (w : Word) : Option Counter :=
  let i := bits w 27 16
  let n := bits w 7 0
  let hod := w.getLsbD 28
  if n = 3 then (if i < 512 ∧ !hod then some (.kiln i) else none)
  else if n ≤ 10 then
    if hod then (if i < 64 ∧ n ≤ 1 then some (.core (hodKey i) (Fin.ofNat 11 n)) else none)
    else some (.core (coreKey i) (Fin.ofNat 11 n))
  else if n ≤ 13 then (if i < 18 ∧ !hod then some (.port (Fin.ofNat 18 i) (Fin.ofNat 3 (n - 11))) else none)
  else if n = 14 then some .drain
  else none

/-- A counter's value. -/
def State.counter (s : State) : Counter → Nat
  | .core k i => (s.core k).counters[i]
  | .kiln k => (s.kiln k).resmis
  | .port p i => if i = 0 then s.slaup[p].lanerty else if i = 1 then s.slaup[p].badflit else s.slaup[p].stalecr
  | .drain => s.dom.drainDrop

/-- A counter cleared. -/
def State.clearCounter (s : State) : Counter → State
  | .core k i => s.updCore k fun co => { co with counters := co.counters.set i 0 }
  | .kiln k => s.setKiln k { s.kiln k with resmis := 0 }
  | .port p i => s.updSlaup p fun x =>
      if i = 0 then { x with lanerty := 0 } else if i = 1 then { x with badflit := 0 } else { x with stalecr := 0 }
  | .drain => { s with dom := { s.dom with drainDrop := 0 } }

/-- R415: a write of 0 clears the selected counter; any other value is ignored. -/
def evCdataWrite (p : Fin 2) (v : Word) (s : State) : Option State :=
  if !s.portUp p then none else
  some ((match counterOf s.ports[p].csel with
    | some c => if v = 0 then s.clearCounter c else s
    | none => s).status p 0)
def execCdataWrite (port : Fin 2) (v : Word) (s : State) : Ending := fire s (evCdataWrite port v s)

/-- A read of a management register by a port; none at an offset that is not listed (19 Table 19.4). -/
def State.mgmtRead (s : State) (p : Fin 2) (off : Nat) : Option Word :=
  match off with
  | 0x000 => some 0x10000
  | 0x008 => some (at_ s.mg.fail.toNat 8 ||| at_ (match s.mg.state with
      | .selftest => 1 | .waitfw => 2 | .verify => 3 | .ready => 4 | .failed => 5) 0)
  | 0x018 => some Config.devid
  | 0x020 => some (at_ s.mg.svnmin.toNat 0)
  | 0x030 => some (at_ s.mg.leafctr 0)
  | 0x040 => some (at_ s.mg.watts.toNat 0)
  | 0x048 => some s.mg.tempmax
  | 0x050 => some (at_ s.mg.cool.toNat 0)
  | 0x058 => some s.ports[p].csel
  | 0x060 => some (match counterOf s.ports[p].csel with
      | some c => at_ (s.counter c) 0
      | none => 0)
  | 0x010 | 0x028 | 0x038 | 0x200 => some 0
  | n => if 0x100 ≤ n ∧ n ≤ 0x1F8 ∧ n % 8 = 0 then some 0 else none

/-- Word i of a port's debug command. -/
def HostPort.word (x : HostPort) (i : Fin 32) : Word := x.dcmd[i]

/-- The temperatures that a reading stays below while no event tells of a higher one (R431): a sensor that reaches 95 °C warns, one that
reaches 105 °C trips. -/
def Mgmt.below (g : Mgmt) : Nat := if tempOf g.tempmax < warm then warm else if g.trip.isNone then hot else 2 ^ 16
/-- The sensors of POWER, TEMPMAX and COOL are read anew: free values, TEMPMAX below what would warn or trip, DIE from 0 to 7; at
power-good they read 0 (Table 19.4; log entry 26). -/
def Mgmt.sense (g : Mgmt) (n : Nat) : Mgmt :=
  let x := Config.freeWord (n + 2)
  { g with watts := (Config.freeWord n).setWidth 32, cool := (Config.freeWord (n + 1)).setWidth 32,
           tempmax := at_ (bits x 18 16) 16 ||| at_ (bits x 15 0 % g.below) 0 }

/-- The layout of a command (16 R391): word 0 holds an opcode and PART in [13:8]; the fields follow, one to a word, each below its
bound; a word or bit that no field uses is 0. -/
def cmdFits (w : Nat → Nat) (bounds : List Nat) : Bool :=
  decide (w 0 < 0x4000) && ((List.range 31).all fun i => decide (w (i + 1) < bounds.getD i 1))
/-- PART. -/
def cmdPart (w : Nat → Nat) : Fin 64 := Fin.ofNat 64 (w 0 / 256)
/-- A command or record that no layout fits: status 2, and before READY status 1 (19 R432). -/
def State.badCmd (s : State) (p : Fin 2) : State := s.status p (if s.mg.state ≠ .ready then 1 else 2)
/-- A command is carried out where its layout is right, and refused with status 2 where it is not. -/
def State.laidOut (s : State) (p : Fin 2) (w : Nat → Nat) (bounds : List Nat) (f : Option State) : Option State :=
  if cmdFits w bounds then f else some (s.badCmd p)

/-- The debug command of a port's DCMD words (19 R438): DGO holds the opcode. -/
def State.dgoWrite (s : State) (p : Fin 2) (op : Nat) : Option State :=
  let w := fun (i : Nat) => (s.ports[p].word (Fin.ofNat 32 i)).toNat
  let part := cmdPart w
  let k := coreKey (w 1)
  let go := s.laidOut p w
  let c := Fin.ofNat 4 (w 2)
  match op with
  | 1 => go [4096, 16, 3] (evDstop p part k (BitVec.ofNat 4 (w 2)) (Fin.ofNat 3 (w 3)) s)
  | 2 => go [4096, 16, 2] (evDgo p part k (BitVec.ofNat 4 (w 2)) (decide (w 3 = 1)) s)
  | 3 => go [4096, 4, 256] (evDstep p part k c (w 3) s)
  | 4 => go [4096, 4, 256] (evDrstep p part k c (w 3) s)
  | 5 => go [4096, 4, 7, 2 ^ 64] (evDread p part k c
      (([DClass.x, .v, .p, .g, .csr, .log, .hist] : List DClass).getD (w 3) .x) (w 4) s)
  | 6 => go [4096, 256] (evDtread p part k (w 2) s)
  | _ => some (s.badCmd p)

/-- R438: a write of a management register. Read-only registers ignore it (00 R11); an offset that is not listed completes
with status 2. -/
def evMgmtRegWrite (p : Fin 2) (off : Nat) (v : Word) (s : State) : Option State :=
  if !s.portUp p then none else
  let port := fun (f : HostPort → HostPort) => some (({ s with ports := s.ports.set p (f s.ports[p]) }).status p 0)
  match off with
  | 0x010 => evFwctlWrite p (bits v 38 0) 8 s
  | 0x028 => evSvnsetWrite p (BitVec.ofNat 16 v.toNat) s
  | 0x038 => if v.getLsbD 0 then evAttreqIdentity p (bits v 38 6 * 64) 8 s else evAttreqSign p (bits v 38 6 * 64) 8 s
  | 0x058 => port fun x => { x with csel := v &&& 0x1FFF00FF }
  | 0x060 => evCdataWrite p (v &&& 0xFFFFFFFF) s
  | 0x200 => s.dgoWrite p (bits v 7 0)
  | n =>
    if 0x100 ≤ n ∧ n ≤ 0x1F8 ∧ n % 8 = 0 then port fun x => { x with dcmd := x.dcmd.set (Fin.ofNat 32 ((n - 0x100) / 8)) v }
    else if (s.mgmtRead p n).isSome then some (s.status p 0)
    else some (s.status p 2)
/-- R438: a read of a management register completes with its value. -/
def State.mgmtGet (s : State) (p : Fin 2) (off : Nat) : State :=
  match s.mgmtRead p off with
  | some v => s.reply p false 0 (v.setWidth 1024)
  | none => s.status p 2

def execMgmtRegWrite (port : Fin 2) (off : Nat) (v : Word) (s : State) : Ending := fire s (evMgmtRegWrite port off v s)

end Sys2Proof.Machine
end

