-- ==== Sys2Proof/Machine/Aperture.lean ====
section
/-! DEFINITION. The aperture of a host port (16 R387, R389, R391, R392): an access given by its offset, size and data. -/
namespace Sys2Proof.Machine
open Sys2Proof

/-- 64-bit word i of the data of a write, low byte first (00 R9). -/
def dataWord (d : BitVec 2048) (i : Nat) : Word := BitVec.ofNat 64 (d.toNat >>> (64 * i))

/-- An injection record (16 Table 16.2): INJ takes 128 bytes. The bits of bytes 0 to 7 that the table does not list are RSV fields too. -/
def injRec (d : BitVec 2048) : InjRec :=
  let h := dataWord d 0
  { sup := h.getLsbD 59, notify := h.getLsbD 58, part := Fin.ofNat 64 (bits h 37 32), htag := BitVec.ofNat 16 h.toNat,
    addr := dataWord d 1, arg1 := dataWord d 2, arg2 := dataWord d 3, data := BitVec.ofNat 512 (d.toNat >>> 512),
    rsv := decide (bits h 57 38 ≠ 0 ∨ bits h 31 16 ≠ 0) || [4, 5, 6, 7].any fun i => dataWord d i ≠ 0 }

/-- A write of INJ: TYPE chooses; the types 6 to 15 are RSV (R393 step 1). -/
def State.injWrite (s : State) (p : Fin 2) (d : BitVec 2048) : Option State :=
  let x := injRec d
  match bits (dataWord d 0) 63 60 with
  | 0 => evInjActiveMessage p x s
  | 1 => evInjQueueMessage p x s
  | 2 => evInjLineWrite p x s
  | 3 => evInjLineRead p x s
  | 4 => evInjTxnSubmit p x s
  | 5 => evInjFarWrite p x s
  | _ => some (s.badCmd p)

/-- A number made of consecutive words, lowest bits first (R391). -/
def wide (w : Nat → Nat) (i n : Nat) : Nat := (List.range n).foldl (fun a j => a + w (i + j) <<< (64 * j)) 0

/-- A bound that every word meets. -/
def anyWord : Nat := 2 ^ 64

/-- The fields of CREATE in the order of 14 Table 14.2. -/
def createArgs (w : Nat → Nat) : CreateArgs :=
  { part := cmdPart w, pallets := BitVec.ofNat 256 (wide w 1 4), hods := BitVec.ofNat 64 (w 5), device := BitVec.ofNat 8 (w 6),
    debug := decide (w 7 = 1), grade := BitVec.ofNat 8 (w 8), domsize := BitVec.ofNat 8 (w 9), cfgtag := BitVec.ofNat 16 (w 10),
    job := BitVec.ofNat 32 (w 11), group := BitVec.ofNat 192 (wide w 12 3), root := w 15 }
def createBounds : List Nat :=
  List.replicate 5 anyWord ++ [0x100, 2, 0x100, 0x100, 0x10000, 0x100000000] ++ List.replicate 4 anyWord

/-- The fields of LAUNCH in the order of 14 Table 14.4. -/
def launchArgs (w : Nat → Nat) : LaunchArgs :=
  let x := fun (i : Nat) => BitVec.ofNat 64 (w i)
  { part := cmdPart w, row0 := Fin.ofNat 64 (w 1), col0 := Fin.ofNat 64 (w 2), rows := w 3, cols := w 4, runw := w 5,
    sup := decide (w 6 = 1), entry := BitVec.ofNat 15 (w 7), arg1 := x 8, arg2 := x 9, seg0 := x 10, seg1 := x 11, seg2 := x 12,
    seg3 := x 13, slsrc := x 14, sloff := w 15, sllen := w 16 }
def launchBounds : List Nat := [64, 64, 128, 128, 32, 2, 0x8000] ++ List.replicate 7 anyWord ++ [0x100000, 0x200000]

/-- A write of CMD: one command of 14 Table 14.2 or 15 Table 15.5 (R391). An opcode outside 1 to 10 gives status 2, before READY status 1 (19 R432). -/
def State.cmdWrite (s : State) (p : Fin 2) (d : BitVec 2048) : Option State :=
  let w := fun (i : Nat) => (dataWord d i).toNat
  let x := fun (i : Nat) => BitVec.ofNat 64 (w i)
  let n := cmdPart w
  let go := s.laidOut p w
  match w 0 % 256 with
  | 1 => go createBounds (evCreate p (createArgs w) s)
  | 2 => go launchBounds (evLaunch p (launchArgs w) s)
  | 3 => go [anyWord, anyWord, anyWord] (evPreempt p n (w 1) (x 2) (w 3) s)
  | 4 => go [anyWord] (evResume p n (w 1) s)
  | 5 => go [anyWord, anyWord] (evRestore p n (w 1) (x 2) s)
  | 6 => go [anyWord, anyWord] (evSavecont p n (x 1) (w 2) s)
  | 7 => go [4096] (evResetcore p n (coreKey (w 1)) s)
  | 8 => go [] (evDestroy p n s)
  | 9 => go [3, anyWord] (evShoot p n (Fin.ofNat 3 (w 1)) (x 2) s)
  | 10 => go [4096, 4, anyWord, anyWord, anyWord] (evMapdone p n (coreKey (w 1)) (Fin.ofNat 4 (w 2)) (x 3) (x 4) (x 5) s)
  | _ => some (s.badCmd p)

/-- An access of a port to its aperture (16 Table 16.1): one of another size, or at another offset, completes with status 2 and has no
effect (R387). -/
def State.access (s : State) (p : Fin 2) (write : Bool) (off size : Nat) (d : BitVec 2048) : Option State :=
  if !s.portUp p then none
  else if off = 0 ∧ size = 128 ∧ write then s.injWrite p d
  else if off = 0x1000 ∧ size = 256 ∧ write then s.cmdWrite p d
  else if off = 0x2000 ∧ size = 128 ∧ !write then evNoteRead p s
  else if 0x3000 ≤ off ∧ off < 0x3200 ∧ off % 8 = 0 ∧ size = 8 then
    let n := Fin.ofNat 64 ((off - 0x3000) / 8)
    if write then evSemWrite p n size s else evSemRead p n size s
  else if 0x10000 ≤ off ∧ off < 0x11000 ∧ off % 8 = 0 ∧ size = 8 then
    if write then evMgmtRegWrite p (off - 0x10000) (dataWord d 0) s else some (s.mgmtGet p (off - 0x10000))
  else some (s.status p 2)

/-! ## The tie bit (16 R389) -/

/-- The accesses that the tie bit orders, as port and class: semaphores, writes of FWCTL, writes of ATTREQ. -/
def Input.tied : Input → Option (Fin 2 × Fin 3)
  | .row (.semRead p _ z) | .row (.semWrite p _ z) => if z = 8 then some (p, 0) else none
  | .row (.fwctlWrite p _ z) => if z = 8 then some (p, 1) else none
  | .row (.attreqSign p _ z) | .row (.attreqIdentity p _ z) => if z = 8 then some (p, 2) else none
  | .row (.mgmtRegWrite p off _) => if off = 0x10 then some (p, 1) else if off = 0x38 then some (p, 2) else none
  | .access p w off size _ =>
    if size ≠ 8 then none
    else if 0x3000 ≤ off ∧ off < 0x3200 ∧ off % 8 = 0 then some (p, 0)
    else if w ∧ off = 0x10010 then some (p, 1)
    else if w ∧ off = 0x10038 then some (p, 2)
    else none
  | _ => none

/-- The place of the input that goes first: where the input at a place meets one of the other port in its cycle and class, the tie bit
names it, and flips. -/
def State.tieFirst (s : State) (i : Nat) : Nat × State :=
  match s.m.inputs[i]? with
  | some (t, e) =>
    (match e.tied with
      | some (p, k) =>
        let other := s.m.inputs.findIdx? fun q => decide (q.1 = t) &&
          (match q.2.tied with
            | some (o, j) => decide (o ≠ p ∧ j = k) && s.portUp p && s.portUp o
            | none => false)
        (match other with
          | some j => (if s.tie = p then i else j, { s with tie := s.tie + 1 })
          | none => (i, s))
      | none => (i, s))
  | none => (i, s)

end Sys2Proof.Machine
end

