-- ==== Sys2Proof/Machine/Ext.lean ====
section
/-! DEFINITION. Major 6: extension, selection and address composition (04 R103 to R107). -/
namespace Sys2Proof.Machine
open Sys2Proof

/-- Width 8, 16 or 32 of the codes 0 to 2 (04 R103). -/
def extWidth (n : Fin 3) : Nat := 8 * 2 ^ n.val

/-- R103. -/
def execSext (o : R2) (n : Fin 3) (s : State) : Ending :=
  conclude s (alu2 (fun b => BitVec.ofInt 64 (Int.bmod (b.toNat : Int) (2 ^ extWidth n))) o s)
/-- R103. -/
def execZext (o : R2) (n : Fin 3) (s : State) : Ending :=
  conclude s (alu2 (fun b => BitVec.ofNat 64 (b.toNat % 2 ^ extWidth n)) o s)
/-- R103: |b|, and −2^63 for itself. -/
def execAbs (o : R2) (s : State) : Ending := conclude s (alu2 (fun b => if b.toInt < 0 then 0 - b else b) o s)
/-- R104. -/
def execCsel (o : R3) (s : State) : Ending := conclude s (alu3 (fun t b => if s.x o.a ≠ 0 then t else b) o s)
/-- R105. -/
def execLea (o : R3) (sh : Fin 4) (imm : Int) (s : State) : Ending :=
  conclude s (alu3 (fun t b => t + b <<< sh.val + BitVec.ofInt 64 imm) o s)
/-- The slice address of R106 from an offset and a coordinate word (04 Table 4.6). -/
def flaOf (t b : Word) : Word :=
  bit true 63 ||| at_ (bits b 26 24) 60 ||| at_ (bits b 23 16) 52 ||| at_ (bits b 13 8 * 64 + bits b 5 0) 20 |||
    at_ (bits t 19 0) 0
/-- R106. -/
def execFla (o : R3) (s : State) : Ending := conclude s (alu3 flaOf o s)
/-- R107. -/
def execBfx (o : R2) (pos len1 : Fin 64) (sx : Bool) (s : State) : Ending :=
  conclude s (alu2 (fun b =>
    let f := b.toNat >>> pos.val % 2 ^ (len1.val + 1)
    if sx then BitVec.ofInt 64 (Int.bmod (f : Int) (2 ^ (len1.val + 1))) else BitVec.ofNat 64 f) o s)
/-- R107. -/
def execBfi (o : R2) (pos len1 : Fin 64) (s : State) : Ending :=
  conclude s (alu2 (fun b =>
    let mask := BitVec.ofNat 64 ((2 ^ (len1.val + 1) - 1) <<< pos.val)
    (s.x o.a &&& ~~~mask) ||| (b <<< pos.val &&& mask)) o s)

end Sys2Proof.Machine
end

