-- ==== Sys2Proof/Machine/Dispatch.lean ====
section
/-! DEFINITION. `exec`: one arm per constructor of `Instr`, each one direct call of that instruction's meaning. -/
namespace Sys2Proof.Machine
open Sys2Proof

def exec (i : Instr) (s : State) : Host.Outcome State Fault Refusal :=
  match i with
  -- major 0, SYS
  | .nop => Sys2Proof.Machine.execNop s
  | .halt => Sys2Proof.Machine.execHalt s
  | .yield => Sys2Proof.Machine.execYield s
  | .eret => Sys2Proof.Machine.execEret s
  | .trap c => Sys2Proof.Machine.execTrap c s
  | .sysc c => Sys2Proof.Machine.execSysc c s
  | .time a => Sys2Proof.Machine.execTime a s
  | .brk c => Sys2Proof.Machine.execBrk c s
  -- majors 1 to 4
  | .add o => Sys2Proof.Machine.execAdd o s
  | .sub o => Sys2Proof.Machine.execSub o s
  | .and o => Sys2Proof.Machine.execAnd o s
  | .or o => Sys2Proof.Machine.execOr o s
  | .xor o => Sys2Proof.Machine.execXor o s
  | .andn o => Sys2Proof.Machine.execAndn o s
  | .mov o => Sys2Proof.Machine.execMov o s
  | .neg o => Sys2Proof.Machine.execNeg o s
  | .sll o => Sys2Proof.Machine.execSll o s
  | .srl o => Sys2Proof.Machine.execSrl o s
  | .sra o => Sys2Proof.Machine.execSra o s
  | .rol o => Sys2Proof.Machine.execRol o s
  | .clz o => Sys2Proof.Machine.execClz o s
  | .ctz o => Sys2Proof.Machine.execCtz o s
  | .pop o => Sys2Proof.Machine.execPop o s
  | .bswap o => Sys2Proof.Machine.execBswap o s
  | .mul o => Sys2Proof.Machine.execMul o s
  | .mulh o => Sys2Proof.Machine.execMulh o s
  | .mulhu o => Sys2Proof.Machine.execMulhu o s
  | .mulhsu o => Sys2Proof.Machine.execMulhsu o s
  | .div o => Sys2Proof.Machine.execDiv o s
  | .divu o => Sys2Proof.Machine.execDivu o s
  | .rem o => Sys2Proof.Machine.execRem o s
  | .remu o => Sys2Proof.Machine.execRemu o s
  | .min o => Sys2Proof.Machine.execMin o s
  | .max o => Sys2Proof.Machine.execMax o s
  | .minu o => Sys2Proof.Machine.execMinu o s
  | .maxu o => Sys2Proof.Machine.execMaxu o s
  | .slt o => Sys2Proof.Machine.execSlt o s
  | .sltu o => Sys2Proof.Machine.execSltu o s
  | .seq o => Sys2Proof.Machine.execSeq o s
  | .sne o => Sys2Proof.Machine.execSne o s
  -- major 5
  | .addi o => Sys2Proof.Machine.execAddi o s
  | .andi o => Sys2Proof.Machine.execAndi o s
  | .ori o => Sys2Proof.Machine.execOri o s
  | .xori o => Sys2Proof.Machine.execXori o s
  | .slli o => Sys2Proof.Machine.execSlli o s
  | .srli o => Sys2Proof.Machine.execSrli o s
  | .srai o => Sys2Proof.Machine.execSrai o s
  | .slti o => Sys2Proof.Machine.execSlti o s
  -- major 6 (n of SEXT and ZEXT: 0 for 8, 1 for 16, 2 for 32; len1 is len - 1)
  | .sext o n => Sys2Proof.Machine.execSext o n s
  | .zext o n => Sys2Proof.Machine.execZext o n s
  | .csel o => Sys2Proof.Machine.execCsel o s
  | .lea o sh imm => Sys2Proof.Machine.execLea o sh imm s
  | .fla o => Sys2Proof.Machine.execFla o s
  | .bfx o pos len1 sx => Sys2Proof.Machine.execBfx o pos len1 sx s
  | .bfi o pos len1 => Sys2Proof.Machine.execBfi o pos len1 s
  | .abs o => Sys2Proof.Machine.execAbs o s
  -- major 7
  | .csrr a n => Sys2Proof.Machine.execCsrr a n s
  | .csrw n b => Sys2Proof.Machine.execCsrw n b s
  | .csrs a n b => Sys2Proof.Machine.execCsrs a n b s
  | .csrc a n b => Sys2Proof.Machine.execCsrc a n b s
  | .csrx a n b => Sys2Proof.Machine.execCsrx a n b s
  -- majors 8 and 9
  | .ldb a m => Sys2Proof.Machine.execLdb a m s
  | .ldbu a m => Sys2Proof.Machine.execLdbu a m s
  | .ldh a m => Sys2Proof.Machine.execLdh a m s
  | .ldhu a m => Sys2Proof.Machine.execLdhu a m s
  | .ldw a m => Sys2Proof.Machine.execLdw a m s
  | .ldwu a m => Sys2Proof.Machine.execLdwu a m s
  | .ldd a m => Sys2Proof.Machine.execLdd a m s
  | .lddForward a => Sys2Proof.Machine.execLddForward a s
  | .lda a m => Sys2Proof.Machine.execLda a m s
  | .stb a m => Sys2Proof.Machine.execStb a m s
  | .sth a m => Sys2Proof.Machine.execSth a m s
  | .stw a m => Sys2Proof.Machine.execStw a m s
  | .std a m => Sys2Proof.Machine.execStd a m s
  | .stl a m => Sys2Proof.Machine.execStl a m s
  | .zln m => Sys2Proof.Machine.execZln m s
  -- major 10
  | .vld a m md => Sys2Proof.Machine.execVld a m md s
  | .vst a m md => Sys2Proof.Machine.execVst a m md s
  | .vldb a m md => Sys2Proof.Machine.execVldb a m md s
  | .vlds a m t md => Sys2Proof.Machine.execVlds a m t md s
  | .vsts a m t md => Sys2Proof.Machine.execVsts a m t md s
  | .vgath a m t md => Sys2Proof.Machine.execVgath a m t md s
  | .vscat a m t md => Sys2Proof.Machine.execVscat a m t md s
  | .vstc a m md => Sys2Proof.Machine.execVstc a m md s
  -- majors 11 to 14 (m is MB = 1: sat of VADD, VSUB, VABS, VNEG, hi of VMUL)
  | .vadd o m => Sys2Proof.Machine.execVadd o m s
  | .vsub o m => Sys2Proof.Machine.execVsub o m s
  | .vmul o m => Sys2Proof.Machine.execVmul o m s
  | .vfma o => Sys2Proof.Machine.execVfma o s
  | .vfms o => Sys2Proof.Machine.execVfms o s
  | .vmin o => Sys2Proof.Machine.execVmin o s
  | .vmax o => Sys2Proof.Machine.execVmax o s
  | .vsel o => Sys2Proof.Machine.execVsel o s
  | .vand o => Sys2Proof.Machine.execVand o s
  | .vor o => Sys2Proof.Machine.execVor o s
  | .vxor o => Sys2Proof.Machine.execVxor o s
  | .vshl o => Sys2Proof.Machine.execVshl o s
  | .vshr o => Sys2Proof.Machine.execVshr o s
  | .vabs o m => Sys2Proof.Machine.execVabs o m s
  | .vneg o m => Sys2Proof.Machine.execVneg o m s
  | .vcmp a t b md cond => Sys2Proof.Machine.execVcmp a t b md cond s
  | .vred o op => Sys2Proof.Machine.execVred o op s
  | .vbcast o => Sys2Proof.Machine.execVbcast o s
  | .vperm o => Sys2Proof.Machine.execVperm o s
  | .vext a b ty idx => Sys2Proof.Machine.execVext a b ty idx s
  | .vins a b ty idx => Sys2Proof.Machine.execVins a b ty idx s
  | .vcvt o dt rm part => Sys2Proof.Machine.execVcvt o dt rm part s
  | .vrnd o rm => Sys2Proof.Machine.execVrnd o rm s
  | .vclass o mask => Sys2Proof.Machine.execVclass o mask s
  | .vrecip o => Sys2Proof.Machine.execVrecip o s
  | .vrsqrt o => Sys2Proof.Machine.execVrsqrt o s
  | .vexp2 o => Sys2Proof.Machine.execVexp2 o s
  | .vlog2 o => Sys2Proof.Machine.execVlog2 o s
  | .vscale o => Sys2Proof.Machine.execVscale o s
  | .vdot o => Sys2Proof.Machine.execVdot o s
  | .vbmax o => Sys2Proof.Machine.execVbmax o s
  | .vpmov op pr => Sys2Proof.Machine.execVpmov op pr s
  -- major 15
  | .sbind q m => Sys2Proof.Machine.execSbind q m s
  | .sunbind q => Sys2Proof.Machine.execSunbind q s
  | .sstat a q => Sys2Proof.Machine.execSstat a q s
  | .sskip q b => Sys2Proof.Machine.execSskip q b s
  | .slink on => Sys2Proof.Machine.execSlink on s
  | .recv a => Sys2Proof.Machine.execRecv a s
  | .peek a => Sys2Proof.Machine.execPeek a s
  | .waitmsg => Sys2Proof.Machine.execWaitmsg s
  -- majors 16 to 21
  | .li a imm => Sys2Proof.Machine.execLi a imm s
  | .beqz a off => Sys2Proof.Machine.execBeqz a off s
  | .bnez a off => Sys2Proof.Machine.execBnez a off s
  | .loop a dist => Sys2Proof.Machine.execLoop a dist s
  | .beq a b off => Sys2Proof.Machine.execBeq a b off s
  | .bne a b off => Sys2Proof.Machine.execBne a b off s
  | .blt a b off => Sys2Proof.Machine.execBlt a b off s
  | .bge a b off => Sys2Proof.Machine.execBge a b off s
  | .bltu a b off => Sys2Proof.Machine.execBltu a b off s
  | .bgeu a b off => Sys2Proof.Machine.execBgeu a b off s
  | .jalr a b off => Sys2Proof.Machine.execJalr a b off s
  | .ret b => Sys2Proof.Machine.execRet b s
  | .jf b off => Sys2Proof.Machine.execJf b off s
  | .callf a b off => Sys2Proof.Machine.execCallf a b off s
  -- major 22
  | .send o mb => Sys2Proof.Machine.execSend o mb s
  | .sendq o mb => Sys2Proof.Machine.execSendq o mb s
  | .sendt a b slot => Sys2Proof.Machine.execSendt a b slot s
  | .fst a m size mb => Sys2Proof.Machine.execFst a m size mb s
  | .fstb a m hi mb => Sys2Proof.Machine.execFstb a m hi mb s
  | .mcst a m t md mb => Sys2Proof.Machine.execMcst a m t md mb s
  | .rdst a m t op md mb => Sys2Proof.Machine.execRdst a m t op md mb s
  -- major 23
  | .bar n g ss => Sys2Proof.Machine.execBar n g ss s
  | .wait g => Sys2Proof.Machine.execWait g s
  | .waitany a mask => Sys2Proof.Machine.execWaitany a mask s
  | .pegset g b imm => Sys2Proof.Machine.execPegset g b imm s
  | .pegadd g b imm => Sys2Proof.Machine.execPegadd g b imm s
  | .fence sc => Sys2Proof.Machine.execFence sc s
  | .fencea sc => Sys2Proof.Machine.execFencea sc s
  | .domset n b => Sys2Proof.Machine.execDomset n b s
  -- majors 24 and 25
  | .j off => Sys2Proof.Machine.execJ off s
  | .jal off => Sys2Proof.Machine.execJal off s
  -- major 26 (write is kind 1 of TDECL)
  | .tsub b => Sys2Proof.Machine.execTsub b s
  | .tdecl a b write => Sys2Proof.Machine.execTdecl a b write s
  | .trecon a b => Sys2Proof.Machine.execTrecon a b s
  | .tend => Sys2Proof.Machine.execTend s
  | .rbeg off irv => Sys2Proof.Machine.execRbeg off irv s
  | .rprs kind b => Sys2Proof.Machine.execRprs kind b s
  | .rend => Sys2Proof.Machine.execRend s
  | .rxit => Sys2Proof.Machine.execRxit s
  -- major 27
  | .lpush b imm => Sys2Proof.Machine.execLpush b imm s
  | .lpop => Sys2Proof.Machine.execLpop s
  | .uwmark a => Sys2Proof.Machine.execUwmark a s
  | .chkpt b => Sys2Proof.Machine.execChkpt b s
  | .faultinj kind b => Sys2Proof.Machine.execFaultinj kind b s
  -- major 28 (w4 is size 1, the 4-byte form, of AMO and AMOQ)
  | .fld t m size acq la => Sys2Proof.Machine.execFld t m size acq la s
  | .fldv t m md acq la => Sys2Proof.Machine.execFldv t m md acq la s
  | .amo t b op w4 acq la => Sys2Proof.Machine.execAmo t b op w4 acq la s
  | .amoq t b op w4 mb la => Sys2Proof.Machine.execAmoq t b op w4 mb la s
  | .copy t m mb la => Sys2Proof.Machine.execCopy t m mb la s
  | .copysp t m mb la => Sys2Proof.Machine.execCopysp t m mb la s
  | .copyq t m mb la => Sys2Proof.Machine.execCopyq t m mb la s
  | .cfetch t b seg la => Sys2Proof.Machine.execCfetch t b seg la s
  -- major 29 (z is RB[0] of KMMA and KSPMMA; src the first source tile of KMMAC)
  | .kmma k z => Sys2Proof.Machine.execKmma k z s
  | .kmmac k src => Sys2Proof.Machine.execKmmac k src s
  | .kspmma k z => Sys2Proof.Machine.execKspmma k z s
  | .klda k ty => Sys2Proof.Machine.execKlda k ty s
  | .ksta k ty => Sys2Proof.Machine.execKsta k ty s
  | .kzero k => Sys2Proof.Machine.execKzero k s
  | .kcfg b la => Sys2Proof.Machine.execKcfg b la s
  | .kres t clr la => Sys2Proof.Machine.execKres t clr la s
  -- the events: fabric, messages, copies, streams
  | .messageArrival ix => Sys2Proof.Machine.execMessageArrival ix s
  | .returnArrival ix => Sys2Proof.Machine.execReturnArrival ix s
  | .heldEntryRetry ix => Sys2Proof.Machine.execHeldEntryRetry ix s
  | .injectionDepart c ix => Sys2Proof.Machine.execInjectionDepart c ix s
  | .deferredRelease c k => Sys2Proof.Machine.execDeferredRelease c k s
  | .postedOpPerform ix => Sys2Proof.Machine.execPostedOpPerform ix s
  | .ackReturn ix => Sys2Proof.Machine.execAckReturn ix s
  | .remoteLoadPerform ix => Sys2Proof.Machine.execRemoteLoadPerform ix s
  | .atomicServe pallet => Sys2Proof.Machine.execAtomicServe pallet s
  | .replyArrival ix => Sys2Proof.Machine.execReplyArrival ix s
  | .replyTimeout c k ix => Sys2Proof.Machine.execReplyTimeout c k ix s
  | .copyRequestArrival ix => Sys2Proof.Machine.execCopyRequestArrival ix s
  | .copyComplete ix => Sys2Proof.Machine.execCopyComplete ix s
  | .cfetchLanded c seg => Sys2Proof.Machine.execCfetchLanded c seg s
  | .streamLineFill c q => Sys2Proof.Machine.execStreamLineFill c q s
  | .streamLineDrain c q => Sys2Proof.Machine.execStreamLineDrain c q s
  | .courseLinkDeliver c => Sys2Proof.Machine.execCourseLinkDeliver c s
  -- kilns, synchronisation, rollbacks
  | .kilnStartOpportunity kiln => Sys2Proof.Machine.execKilnStartOpportunity kiln s
  | .tileComplete c => Sys2Proof.Machine.execTileComplete c s
  | .tileAbandon c => Sys2Proof.Machine.execTileAbandon c s
  | .kresResult c => Sys2Proof.Machine.execKresResult c s
  | .barrierRelease c level => Sys2Proof.Machine.execBarrierRelease c level s
  | .waitWake c k => Sys2Proof.Machine.execWaitWake c k s
  | .fenceRetire c k => Sys2Proof.Machine.execFenceRetire c k s
  | .regionRollback c k => Sys2Proof.Machine.execRegionRollback c k s
  | .superstepRollback c k => Sys2Proof.Machine.execSuperstepRollback c k s
  | .txBodyRetry c k => Sys2Proof.Machine.execTxBodyRetry c k s
  -- transactions
  | .tsubIntake ix => Sys2Proof.Machine.execTsubIntake ix s
  | .batchClose part => Sys2Proof.Machine.execBatchClose part s
  | .portionArrival part ix => Sys2Proof.Machine.execPortionArrival part ix s
  | .lockRequest ix => Sys2Proof.Machine.execLockRequest ix s
  | .grant mgr tile => Sys2Proof.Machine.execGrant mgr tile s
  | .versionQuery ix => Sys2Proof.Machine.execVersionQuery ix s
  | .grantLanding ix => Sys2Proof.Machine.execGrantLanding ix s
  | .txnDispatch c => Sys2Proof.Machine.execTxnDispatch c s
  | .failedAttempt c => Sys2Proof.Machine.execFailedAttempt c s
  | .commitComplete c => Sys2Proof.Machine.execCommitComplete c s
  -- translation and partitions
  | .translateRequest c k => Sys2Proof.Machine.execTranslateRequest c k s
  | .shootComplete ix => Sys2Proof.Machine.execShootComplete ix s
  | .faultRecordPlaced ix => Sys2Proof.Machine.execFaultRecordPlaced ix s
  | .launchStart ix => Sys2Proof.Machine.execLaunchStart ix s
  | .gangStop part => Sys2Proof.Machine.execGangStop part s
  | .quiescence part => Sys2Proof.Machine.execQuiescence part s
  | .saveDrainEnd part => Sys2Proof.Machine.execSaveDrainEnd part s
  | .resumeStart part late => Sys2Proof.Machine.execResumeStart part late s
  | .resetComplete c => Sys2Proof.Machine.execResetComplete c s
  -- the Slaup ports
  | .creditFlitTimer port => Sys2Proof.Machine.execCreditFlitTimer port s
  | .standbyTakeover port => Sys2Proof.Machine.execStandbyTakeover port s
  -- patrol, trace
  | .patrolRead c => Sys2Proof.Machine.execPatrolRead c s
  | .traceRateAdjust c => Sys2Proof.Machine.execTraceRateAdjust c s
  -- module
  | .selftestDone ok => Sys2Proof.Machine.execSelftestDone ok s
  | .verifyDone => Sys2Proof.Machine.execVerifyDone s
  | .railsOff => Sys2Proof.Machine.execRailsOff s
  -- the remaining steps of the fabric and of commits
  | .verdictArrival ix => Sys2Proof.Machine.execVerdictArrival ix s
  | .atomicRequestArrival ix => Sys2Proof.Machine.execAtomicRequestArrival ix s
  | .farAccessComplete c k => Sys2Proof.Machine.execFarAccessComplete c k s
  | .commitPushWritten ix => Sys2Proof.Machine.execCommitPushWritten ix s
  | .lockRelease ix => Sys2Proof.Machine.execLockRelease ix s
  | .sendAcceptance ix => Sys2Proof.Machine.execSendAcceptance ix s
  -- the domain: members and links
  | .memberFailure part dev loss => Sys2Proof.Machine.execMemberFailure part dev loss s
  | .portDead port => Sys2Proof.Machine.execPortDead port s
  | .drainRound n ended due => Sys2Proof.Machine.execDrainRound n ended due s
  -- what the outside does: the host's commands, records and register accesses, the links, the module
  | .create port x => Sys2Proof.Machine.execCreate port x s
  | .launch port x => Sys2Proof.Machine.execLaunch port x s
  | .preempt port part t saveva savelen => Sys2Proof.Machine.execPreempt port part t saveva savelen s
  | .resume port part tr => Sys2Proof.Machine.execResume port part tr s
  | .restore port part tr saveva => Sys2Proof.Machine.execRestore port part tr saveva s
  | .savecont port part saveva savelen => Sys2Proof.Machine.execSavecont port part saveva savelen s
  | .resetcore port part c => Sys2Proof.Machine.execResetcore port part c s
  | .destroy port part => Sys2Proof.Machine.execDestroy port part s
  | .shoot port part scope va => Sys2Proof.Machine.execShoot port part scope va s
  | .mapdone port part c k va arg1 arg2 => Sys2Proof.Machine.execMapdone port part c k va arg1 arg2 s
  | .injActiveMessage port x => Sys2Proof.Machine.execInjActiveMessage port x s
  | .injQueueMessage port x => Sys2Proof.Machine.execInjQueueMessage port x s
  | .injLineWrite port x => Sys2Proof.Machine.execInjLineWrite port x s
  | .injLineRead port x => Sys2Proof.Machine.execInjLineRead port x s
  | .injTxnSubmit port x => Sys2Proof.Machine.execInjTxnSubmit port x s
  | .injFarWrite port x => Sys2Proof.Machine.execInjFarWrite port x s
  | .noteRead port => Sys2Proof.Machine.execNoteRead port s
  | .semRead port n size => Sys2Proof.Machine.execSemRead port n size s
  | .semWrite port n size => Sys2Proof.Machine.execSemWrite port n size s
  | .linkUp port hello => Sys2Proof.Machine.execLinkUp port hello s
  | .creditReturn port vc data cnt => Sys2Proof.Machine.execCreditReturn port vc data cnt s
  | .rsvFlitDiscard flit => Sys2Proof.Machine.execRsvFlitDiscard flit s
  | .timeFlit flit => Sys2Proof.Machine.execTimeFlit flit s
  | .linkStateFlit flit sq => Sys2Proof.Machine.execLinkStateFlit flit sq s
  | .dstop port part c mask scope => Sys2Proof.Machine.execDstop port part c mask scope s
  | .dgo port part c mask skip => Sys2Proof.Machine.execDgo port part c mask skip s
  | .dstep port part c k n => Sys2Proof.Machine.execDstep port part c k n s
  | .drstep port part c k n => Sys2Proof.Machine.execDrstep port part c k n s
  | .dread port part c k cls n => Sys2Proof.Machine.execDread port part c k cls n s
  | .dtread port part c n => Sys2Proof.Machine.execDtread port part c n s
  | .powerGood => Sys2Proof.Machine.execPowerGood s
  | .fwctlWrite port addr size => Sys2Proof.Machine.execFwctlWrite port addr size s
  | .svnsetWrite port svn => Sys2Proof.Machine.execSvnsetWrite port svn s
  | .attreqSign port addr size => Sys2Proof.Machine.execAttreqSign port addr size s
  | .attreqIdentity port addr size => Sys2Proof.Machine.execAttreqIdentity port addr size s
  | .cdataWrite port v => Sys2Proof.Machine.execCdataWrite port v s
  | .mgmtRegWrite port off v => Sys2Proof.Machine.execMgmtRegWrite port off v s
  | .tempWarning die t => Sys2Proof.Machine.execTempWarning die t s
  | .thermalTrip => Sys2Proof.Machine.execThermalTrip s
  | .hostLinkLoss port => Sys2Proof.Machine.execHostLinkLoss port s
  | .powerLoss => Sys2Proof.Machine.execPowerLoss s

end Sys2Proof.Machine
end

