-- ==== Sys2Proof/Machine/Issue.lean ====
section
/-! DEFINITION. Issue: fetch and decode, the interlocks and lookahead windows (03 R76 to R79), result delays (04 Table 4.1, 05
Table 5.2, 06 Table 6.13), what surrounds an instruction's own meaning, the selector (09 R265), course-fetch runs (09 R268
to R270), and what happens at an instruction boundary (08 R261, 18 R418). -/
namespace Sys2Proof.Machine
open Sys2Proof

/-! ## The registers that an instruction names (03 R76) -/

def n3 (o : R3) : List RegName := [.x o.a, .x o.t, .x o.b]
def n2 (o : R2) : List RegName := [.x o.a, .x o.b]
def nI (o : RI) : List RegName := [.x o.a, .x o.t]
def nM (a : Reg) : MSrc → List RegName
  | .addr m => [.x a, .x m.b]
  | .strm _ => [.x a]
def nVM (a : Reg) (d : Md) : MSrc → List RegName
  | .addr m => [.v a, .x m.b, .p d.pr]
  | .strm _ => [.v a, .p d.pr]
def nV3 (o : V3) : List RegName := [.v o.a, .v o.t, .v o.b, .p o.md.pr]
def nV2 (o : V2) : List RegName := [.v o.a, .v o.b, .p o.md.pr]
/-- x[b] and the n − 1 registers after it. -/
def nX (b : Reg) (n : Nat) : List RegName := (List.range n).map fun i => RegName.x (Fin.ofNat 32 (b.val + i))

def nPm : PmOp → List RegName
  | .mov a b | .not a b => [.p a, .p b]
  | .and a t b | .or a t b | .xor a t b | .andn a t b => [.p a, .p t, .p b]
  | .fromx a b => [.p a, .x b]
  | .tox a b => [.x a, .p b]

/-- Sources and destinations. Events name none. -/
def allNames (i : Instr) : List RegName :=
  match i with
  | .time a => [.x a]
  | .add o | .sub o | .and o | .or o | .xor o | .andn o | .sll o | .srl o | .sra o | .rol o => n3 o
  | .mul o | .mulh o | .mulhu o | .mulhsu o | .div o | .divu o | .rem o | .remu o => n3 o
  | .min o | .max o | .minu o | .maxu o | .slt o | .sltu o | .seq o | .sne o => n3 o
  | .mov o | .neg o | .clz o | .ctz o | .pop o | .bswap o | .abs o => n2 o
  | .addi o | .andi o | .ori o | .xori o | .slli o | .srli o | .srai o | .slti o => nI o
  | .sext o _ | .zext o _ => n2 o
  | .csel o | .fla o => n3 o
  | .lea o _ _ => n3 o
  | .bfx o _ _ _ => n2 o
  | .bfi o _ _ => n2 o
  | .csrr a _ => [.x a]
  | .csrw _ b => [.x b]
  | .csrs a _ b | .csrc a _ b | .csrx a _ b => [.x a, .x b]
  | .ldb a m | .ldbu a m | .ldh a m | .ldhu a m | .ldw a m | .ldwu a m | .ldd a m => nM a m
  | .stb a m | .sth a m | .stw a m | .std a m => nM a m
  | .lddForward a => [.x a]
  | .lda a m | .stl a m => [.x a, .x m.b]
  | .zln m => [.x m.b]
  | .vld a m d | .vst a m d => nVM a d m
  | .vldb a m d | .vstc a m d => [.v a, .x m.b, .p d.pr]
  | .vlds a m t d | .vsts a m t d => [.v a, .x m.b, .x t, .p d.pr]
  | .vgath a m t d | .vscat a m t d => [.v a, .x m.b, .v t, .p d.pr]
  | .vadd o _ | .vsub o _ | .vmul o _ => nV3 o
  | .vfma o | .vfms o | .vmin o | .vmax o | .vsel o | .vand o | .vor o | .vxor o | .vshl o | .vshr o => nV3 o
  | .vperm o | .vscale o | .vdot o => nV3 o
  | .vabs o _ | .vneg o _ => nV2 o
  | .vred o _ => nV2 o
  | .vcmp a t b d _ => [.p a, .v t, .v b, .p d.pr]
  | .vbcast o => [.v o.a, .x o.b, .p o.md.pr]
  | .vext a b _ _ => [.x a, .v b]
  | .vins a b _ _ => [.v a, .x b]
  | .vcvt o _ _ _ => nV2 o
  | .vrnd o _ => nV2 o
  | .vclass o _ => [.x o.a, .v o.b, .p o.md.pr]
  | .vrecip o | .vrsqrt o | .vexp2 o | .vlog2 o | .vbmax o => nV2 o
  | .vpmov op p => .p p :: nPm op
  | .sbind _ m => [.x m.b]
  | .sstat a _ => [.x a]
  | .sskip _ b => [.x b]
  | .recv a | .peek a => [.v a]
  | .li a _ | .beqz a _ | .bnez a _ => [.x a]
  | .loop a _ => [.x a]
  | .beq a b _ | .bne a b _ | .blt a b _ | .bge a b _ | .bltu a b _ | .bgeu a b _ => [.x a, .x b]
  | .jalr a b _ | .callf a b _ => [.x a, .x b]
  | .ret b => [.x b]
  | .jf b _ => [.x b]
  | .send o _ | .sendq o _ => n3 o
  | .sendt a b _ => [.v a, .x b]
  | .fst a m _ _ => [.x a, .x m.b]
  | .fstb a m _ _ => [.x a, .x m.b]
  | .mcst a m t d _ => [.v a, .x m.b, .x t, .p d.pr]
  | .rdst a m t _ d _ => [.v a, .x m.b, .x t, .p d.pr]
  | .waitany a _ => [.x a]
  | .pegset _ b _ => [.x b]
  | .pegadd _ b _ => [.x b]
  | .domset _ b => nX b 2
  | .jal _ => [.x 1]
  | .tsub b => [.x b]
  | .tdecl a b _ => [.x a, .x b]
  | .trecon a b => [.x a, .x b]
  | .rprs _ b => [.x b]
  | .lpush b _ => [.x b]
  | .uwmark a => [.x a]
  | .chkpt b => [.x b]
  | .faultinj _ b => [.x b]
  | .fld t m _ _ _ => [.x t, .x m.b]
  | .fldv t m d _ _ => [.v t, .x m.b, .p d.pr]
  | .amo t b op _ _ _ => .x b :: nX t (if op.val = 9 then 2 else 1)
  | .amoq t b op _ _ _ => .x b :: nX t (if op.val = 9 then 2 else 1)
  | .copy _ m _ _ | .copysp _ m _ _ | .copyq _ m _ _ => [.x m.b]
  | .cfetch _ b _ _ => [.x b]
  | .kmma k _ => nX k.b 4
  | .kspmma k _ => nX k.b 3
  | .kmmac k _ => nX k.b 2
  | .klda k _ | .ksta k _ => nX k.b 2
  | .kcfg b _ => nX b 3
  | .kres t _ _ => [.x t]
  | _ => []

/-- The names that create dependences: not x0 and p0 (R76). -/
def names (i : Instr) : List RegName := (allNames i).filter fun r => r ≠ RegName.x 0 && r ≠ RegName.p 0

/-- The instruction accesses memory: it waits for an earlier `.acq` (06 R190). A SEND or SENDQ is no access here and is not held back (log
entry 133). -/
def accesses (i : Instr) : Bool :=
  match i with
  | .ldb .. | .ldbu .. | .ldh .. | .ldhu .. | .ldw .. | .ldwu .. | .ldd .. | .lda .. => true
  | .stb .. | .sth .. | .stw .. | .std .. | .stl .. | .zln .. => true
  | .vld .. | .vst .. | .vldb .. | .vlds .. | .vsts .. | .vgath .. | .vscat .. | .vstc .. => true
  | .sbind .. | .sendt .. | .fst .. | .fstb .. | .mcst .. | .rdst .. => true
  | .fld .. | .fldv .. | .amo .. | .amoq .. | .copy .. | .copysp .. | .copyq .. | .cfetch .. => true
  | .kmma .. | .kmmac .. | .kspmma .. | .klda .. | .ksta .. | .tsub .. | .tdecl .. | .trecon .. | .chkpt .. => true
  | _ => false

/-! ## Delays (04 Table 4.1, 05 Table 5.2, 06 Table 6.13) -/

/-- The effective type is a floating type. -/
def State.isFloat (s : State) (d : Md) : Bool :=
  match s.effType d.ty setAny with
  | .ok t => t.isFp
  | .error _ => false

/-- The delay of a load at an address: longer through windows 1 to 7. -/
def loadDelay (ad : Word) : Nat := if isSlice ad && decide (winOf ad ≠ 0) then 6 else 3
def State.delayOf (s : State) : MSrc → Nat
  | .addr m => loadDelay (s.addr m)
  | .strm _ => 3

/-- The result of an instruction and its delay, where that is more than one cycle. -/
def delay (i : Instr) (s : State) : Option (RegName × Nat) :=
  match i with
  | .mul o | .mulh o | .mulhu o | .mulhsu o => some (.x o.a, 3)
  | .div o | .divu o | .rem o | .remu o => some (.x o.a, 36)
  | .time a => some (.x a, 4)
  | .ldb a m | .ldbu a m | .ldh a m | .ldhu a m | .ldw a m | .ldwu a m | .ldd a m => some (.x a, s.delayOf m)
  | .lda a m => some (.x a, loadDelay (s.addr m))
  | .lddForward a => some (.x a, 3)
  | .vld a m _ => some (.v a, s.delayOf m)
  | .vldb a m _ => some (.v a, loadDelay (s.addr m))
  | .vlds a _ _ _ | .vgath a _ _ _ => some (.v a, 6)
  | .vadd o _ | .vsub o _ => some (.v o.a, if s.isFloat o.md then 4 else 2)
  | .vmin o | .vmax o => some (.v o.a, if s.isFloat o.md then 4 else 2)
  | .vabs o _ | .vneg o _ => some (.v o.a, if s.isFloat o.md then 4 else 2)
  | .vcmp a _ _ d _ => some (.p a, if s.isFloat d then 4 else 2)
  | .vshl o | .vshr o | .vperm o => some (.v o.a, 2)
  | .vext a _ _ _ => some (.x a, 2)
  | .vclass o _ => some (.x o.a, 2)
  | .vmul o _ => some (.v o.a, 4)
  | .vscale o => some (.v o.a, 4)
  | .vcvt o _ _ _ => some (.v o.a, 4)
  | .vrnd o _ => some (.v o.a, 4)
  | .vfma o | .vfms o | .vdot o => some (.v o.a, 5)
  | .vbmax o => some (.v o.a, 5)
  | .vred o _ => some (.v o.a, 8)
  | .vrecip o | .vrsqrt o | .vexp2 o | .vlog2 o => some (.v o.a, 10)
  | .recv a | .peek a => some (.v a, 2)
  | .sstat a _ => some (.x a, 2)
  | _ => none

/-- The delay of whatever follows: control transfers, and `LDA`, before whose retirement nothing issues (06 R158). -/
def hold (i : Instr) (taken : Bool) (s : State) : Nat :=
  match i with
  | .jf .. | .callf .. | .ret _ | .eret => 3
  | .j _ | .jal _ | .jalr .. => 2
  | .beqz .. | .bnez .. | .beq .. | .bne .. | .blt .. | .bge .. | .bltu .. | .bgeu .. => if taken then 2 else 1
  | .lda _ m => loadDelay (s.addr m)
  | _ => 1

/-! ## Fetch -/

/-- The instruction at a context's PC with its words; or the cause and XVALUE: an uncorrectable word of it (17 R404), or an
illegal sequence of words (03 R85). -/
def State.fetch (s : State) (k : Key) (c : CtxNo) : Except (BitVec 8 × Word) (Instr × List Nat) :=
  let pc := (s.ctx k c).pc
  let ws := s.wordsAt k pc 5
  let r := decode ws
  let n := match r with
    | .ok (_, n) => n
    | .error e => e.pos + 1
  match (List.range n).find? fun i => s.sh.ue.contains (Loc.imem k.val (nextPc pc i).toNat / 8) with
  | some i => .error (0x21, bit true 63 ||| at_ (nextPc pc i).toNat 0)
  | none => match r with
    | .ok (i, n) => .ok (i, ws.take n)
    | .error e => .error (0x01, e.xvalue)

/-! ## One instruction -/

/-- The instruction is covered by an open window of a result (R76). -/
def Ctx.covers (x : Ctx) (id : Nat) : Bool := x.aux.windows.any fun w => decide (w.id = id) && decide (0 < w.left)

/-- Every interlock is satisfied: delays, outstanding results that no open window covers, `.acq` (R76, R92, R124, R440,
R190); a push that fills a write stream's buffer is over (06 R168; log entry 50). -/
def State.unlocked (s : State) (i : Instr) : Bool :=
  let x := s.my
  let ns := names i
  x.aux.busy.all (fun b => decide (b.2 ≤ s.cycle) || !ns.contains b.1) &&
  x.aux.outs.all (fun o => (match o.dest with
    | .reg r => !ns.contains r || x.covers o.id
    | .trecon => true) && !(o.acq && accesses i)) && !s.pushing s.me s.cc

/-- In debug mode, the PC of the instruction whose result register a covered instruction names (R78); of several open windows the
oldest tells (log entry 92). -/
def State.hazard (s : State) (i : Instr) : Option PC :=
  if !s.debug s.me then none
  else (s.my.aux.windows.find? fun w => decide (0 < w.left) && (names i).contains w.dest).map (·.pc)

/-- The shape code of a kiln command is one that it does not take (03 R81): step 4 of 03 Table 3.14. -/
def State.badShape (s : State) (i : Instr) : Bool :=
  let c := s.myCore.kcfgIssue
  match i with
  | .kmma k _ | .kmmac k _ => decide (23 < k.shape.val)
  | .kspmma k _ => decide (k.shape.val < 24 ∨ 27 < k.shape.val) || !(sparseTy c.atype && sparseTy c.btype)
  | .klda k _ | .ksta k _ | .kzero k => decide (8 < k.shape.val)
  | _ => false

/-- A check of the instruction's own entry that gives 0x01: step 6 of 03 Table 3.14. -/
def entryIllegal (i : Instr) : Bool :=
  match i with
  | .copy .. | .copysp .. | .copyq .. | .bar .. | .tsub .. | .waitmsg | .tend => true
  | _ => false

/-- A cause of steps 1 to 4 of 03 Table 3.14: it comes before a lookahead hazard. -/
def State.earlyCause (s : State) (i : Instr) (c : BitVec 8) : Bool :=
  c = 0x02 || (c = 0x01 && !entryIllegal i) || (c = 0x15 && s.badShape i)

/-- An instruction sent something off the package, or starts a copy into far memory (18 R422): among the requests made
since a name. -/
def State.wentOff (s : State) (since : Nat) : Bool :=
  let off := fun (r : Req) => decide (since ≤ r.id) && (match r.op with
    | .send .. | .post _ => (s.owners r.op).any fun o => decide (o.dev ≠ s.device)
    | .copy d => d.dsts.isNone && !isSlice d.dst
    | _ => false)
  s.myCore.injq.any off || s.my.aux.deferred.any fun d => off d.req

/-- The delays that an instruction leaves: a branch's by its direction, wherever it leads (04 Table 4.1). -/
def State.delays (t s : State) (i : Instr) : State :=
  let t := match delay i s with
    | some (r, n) => t.updCtx s.me s.cc fun x => { x with aux := { x.aux with
        busy := (x.aux.busy.filter fun b => decide (s.cycle < b.2) && b.1 ≠ r) ++ [(r, s.cycle + n)] } }
    | none => t
  let h := hold i (s.taken i) s
  if 1 < h then t.updCtx s.me s.cc fun x => { x with aux := { x.aux with stall := s.cycle + h } } else t

/-- DSTEP counts an instruction that has issued (18 R417); a SKIP of DGO is for the next one alone (18 R419). -/
def State.stepped (t : State) (k : Key) (c : CtxNo) : State :=
  let d := (t.ctx k c).aux.dbg
  match d.steps, d.skip with
  | some (n + 1), _ => t.updCtx k c fun x => { x with aux := { x.aux with dbg := { d with steps := some n, skip := false } } }
  | _, true => t.updCtx k c fun x => { x with aux := { x.aux with dbg := { d with skip := false } } }
  | _, false => t

/-- The context ends with the instruction: `HALT`, a cause that cannot be taken (17 R405), or an `RXIT` whose cause is partition-fatal
(11 Table 11.8). -/
def State.endsWith (s t : State) (i : Instr) : Bool :=
  let v := s.my.csr.xvec
  decide (i = .halt) || (t.m.fate == .raised && (!v.valid || decide (s.myCore.segSt v.pc ≠ 2) ||
    (decide (i = .rxit) && (s.upd Ctx.popFrame).level s.me s.cc == .fatal)))
/-- It was started anew with it: its history is that of the new start (18 R420). -/
def State.restarted (s t : State) (i : Instr) : Bool :=
  s.endsWith t i && (t.ctx s.me s.cc).run == .running

/-- The checker finds the executing instruction wrong: 0x20 in place of its effects. -/
def State.wrong (s : State) : State := (s.blocked s.me s.cc).stepped s.me s.cc

/-- What surrounds the meaning of an instruction that has issued: `s` is the state before it, `t` the state that its meaning
gives. The checker recomputes what it writes, in a trap what trap entry writes too (08 R263). A hod's access that waits for its
translation has not issued yet: it does when it goes on. -/
def State.after (s t : State) (i : Instr) : State :=
  let k := s.me
  let c := s.cc
  match t.m.fate with
  | .retired | .raised =>
    if s.my.faulty then s.wrong else
    let t := (t.updCtx k c fun x => x.slide s.my.aux.windows).delays s i
    let irr := t.wentOff s.m.nextId || (match s.my.aux.far with | some f => f.write | none => false)
    let t := if s.restarted t i then t else t.addHist k c s.my.pc s.myCore.logHead s.m.nextId irr
    t.stepped k c
  | .parked =>
    match (t.ctx k c).run with
    | .parked .far _ => t
    | _ => (t.updCtx k c fun x => x.slide s.my.aux.windows).stepped k c
  | .trapped _ => if s.my.aux.flaw then s.wrong else t.stepped k c
  | _ => t

/-- The executing context issues an instruction: none where it is not ready (09 R264). The state has its words in `m.ir`. -/
def State.issueInstr (s : State) (i : Instr) : Option Ending :=
  if !s.unlocked i then none else
  match exec i s with
  | .next t =>
    match s.hazard i, t.m.fate with
    | some pc, .trapped q => some (.next (if s.earlyCause i q then s.after t i else s.after (s.raise 0x07 (some (at_ pc.toNat 0))) i))
    | some pc, _ => some (.next (s.after (s.raise 0x07 (some (at_ pc.toNat 0))) i))
    | none, .stalled => none
    | none, _ => some (.next (s.after t i))
  | e => some e

/-- Something waits for the context's next boundary. -/
def Ctx.pending (x : Ctx) : Bool :=
  !x.aux.reports.isEmpty || x.aux.dbg.want == some 0 || x.aux.dbg.steps == some 0

/-- The context may issue in this cycle, if its instruction can. -/
def State.awake (s : State) (k : Key) (c : CtxNo) : Bool :=
  let x := s.ctx k c
  x.run == .running && decide (x.aux.stall ≤ s.cycle) && !x.pending

/-- The state in which a context executes an instruction of some words. -/
def State.executing (s : State) (k : Key) (c : CtxNo) (ws : List Nat) (lead : Option Bool) : State :=
  { s with m := { s.m with cur := (k, c), ir := ws, lead := lead } }

/-- Correctable words among the instruction words of a fetch are counted (17 R403, R415). -/
def State.fetchCe (s : State) (k : Key) (pc : PC) (n : Nat) : State :=
  s.countCeAt k ((List.range n).map fun i => (Loc.imem k.val (nextPc pc i).toNat, 2))

/-- A context issues the instruction at its PC: none where it is not ready. -/
def State.issueAt (s : State) (k : Key) (c : CtxNo) : Option Ending :=
  if !s.awake k c then none else
  match s.fetch k c with
  | .error (q, v) =>
    let s := s.executing k c [] none
    some (.next (if s.my.aux.flaw then s.wrong else (s.raise q (some v)).stepped k c))
  | .ok (i, ws) => ((s.fetchCe k (s.ctx k c).pc ws.length).executing k c ws none).issueInstr i

/-! ## Course-fetch runs (09 R269, R270) -/

/-- The distances at which something is due. -/
def CourseRun.dues (r : CourseRun) : List Nat := (List.range r.len).filter fun d => (r.due d).isSome

/-- The core has used its issue slot of this cycle. -/
def State.slotUsed (s : State) (k : Key) : Bool := (s.core k).sel.slot == some s.cycle

/-- A follower issues its due instruction with its own registers; its PC is that of the instruction (R268). -/
def State.issueDue (s : State) (r : CourseRun) (d : Nat) : Option Ending :=
  let k := r.member d
  match r.due d with
  | none => none
  | some (pc, ws, taken) =>
    if !s.awake k 0 || s.slotUsed k then none else
    match decode ws with
    | .error _ => none
    | .ok (i, _) =>
      match (((s.executing k 0 ws (some taken)).updCtx k 0 fun x => { x with pc := pc }).issueInstr i) with
      | some (.next t) =>
        let t : State := { t with m := { t.m with lead := none } }
        some (.next (if t.follower k 0 && (t.m.fate == .retired || t.m.fate == .parked) then
          t.updCtx k 0 fun x => { x with pc := pc } else t))
      | e => e

/-- Every due instruction of the run is ready (R270). -/
def State.runReady (s : State) (r : CourseRun) : Bool :=
  !r.dues.isEmpty && s.liveCore r.leader && r.dues.all fun d => (s.issueDue r d).isSome

/-! ## The selector (09 R265) -/

/-- A context parked on pegs, and not as a follower, takes an issue slot to retire its `WAIT` or `WAITANY` (08 R236: the cycle
in which it can be chosen; log entry 29). -/
def State.waitEnds (s : State) (k : Key) (c : CtxNo) : Option State :=
  match (s.ctx k c).run with
  | .parked .msg _ => none
  | .parked .. => if s.follower k c || (s.ctx k c).pending then none else evWaitWake k c (s.setFate .quiet)
  | _ => none

/-- The ready contexts of a core. Context 0 of a follower issues forwarded instructions only, that of a leader nothing while
its run has something due (R269, R270). -/
def State.readyCtxs (s : State) (k : Key) : List CtxNo :=
  allCtx.filter fun c =>
    (match (if c = 0 then s.runOf k else none) with
      | some r => decide (r.leader = k) && r.dues.isEmpty
      | none => true) && ((s.issueAt k c).isSome || (s.waitEnds k c).isSome)

/-- S of R265, given the ready contexts: one that yielded in the last cycle stands back where another is ready. -/
def State.standBack (s : State) (k : Key) (l : List CtxNo) : List CtxNo :=
  match (s.core k).sel.yielded with
  | some (c, t) => if t + 1 = s.cycle && l.any (fun d => d ≠ c) then l.filter fun d => d ≠ c else l
  | none => l
def State.selectable (s : State) (k : Key) : List CtxNo := s.standBack k (s.readyCtxs k)
/-- S at a follower with a forwarded instruction due: context 0 is in it where the instruction is ready. -/
def State.selectableDue (s : State) (k : Key) (ready : Bool) : List CtxNo :=
  s.standBack k (if ready then 0 :: s.readyCtxs k else s.readyCtxs k)

/-- The first of some contexts after a pointer. -/
def firstAfter (l : List CtxNo) (p : Fin 4) : Option CtxNo :=
  (([1, 2, 3, 4] : List Nat).map fun i => Fin.ofNat 4 (p.val + i)).find? fun c => l.contains c

/-- The chosen context with the pointer that moves to it: 4 is that of promoted contexts. -/
def State.chosen (s : State) (k : Key) (l : List CtxNo) : Option (CtxNo × Fin 5) :=
  let z := (s.core k).sel
  let p := l.filter fun c => decide (64 ≤ z.u[c])
  if !p.isEmpty then (firstAfter p z.ptr[(4 : Fin 5)]).map fun c => (c, 4)
  else
    let q := l.foldl (fun b c => min b ((s.ctx k c).csr.cls).val) 3
    let j : Fin 5 := Fin.ofNat 5 q
    (firstAfter (l.filter fun c => decide ((s.ctx k c).csr.cls.val = q)) z.ptr[j]).map fun c => (c, j)

/-- The counts of contexts that were not chosen. -/
def Selector.waits (z : Selector) (l : List CtxNo) : Selector :=
  { z with u := l.foldl (fun (u : Vector Nat 4) (d : CtxNo) => u.set d (min (u[d] + 1) 127)) z.u }
/-- The counts after a context has issued, and the slot: the count of the context that issued becomes 0, but not with a
trap, a rollback or an `ERET`. -/
def Selector.charge (z : Selector) (l : List CtxNo) (c : CtxNo) (cycle : Nat) (keeps : Bool) : Selector :=
  let w := z.waits (l.filter fun d => d ≠ c)
  { w with u := if keeps then w.u else w.u.set c 0, slot := some cycle }

/-- What a context issued leaves its unchosen count: a trap, also that of `TRAP`, `SYSC` and `BREAK`, a rollback, an `ERET` (R265). -/
def State.keepsCount (t : State) (k : Key) (c : CtxNo) : Bool :=
  (match t.m.fate with | .trapped _ | .raised => true | _ => false) || (t.ctx k c).isRolling || (t.m.fate == .retired && t.m.ir == [0x0300])

/-- The leader of a run has issued: the instruction is forwarded with its run time and its direction (R269, 04 R95); one that it executes
again has been forwarded before (18 R418). -/
def State.forward (t s : State) (k : Key) (c : CtxNo) : State :=
  if c ≠ 0 || !(t.m.fate == .retired || t.m.fate == .parked) then t else
  let taken := match decode t.m.ir with
    | .ok (i, _) => (s.executing k c t.m.ir none).taken i
    | .error _ => false
  let e := ((s.ctx k 0).pc, t.m.ir, taken)
  let next := fun (r : CourseRun) =>
    if r.leader ≠ k then r
    else if r.again.contains 0 then { r with again := r.again.filter (· ≠ 0) }
    else { r with fwd := r.fwd ++ [(r.clock, e)] }
  { t with sh := { t.sh with runs := t.sh.runs.map next } }

/-- How the retirement of a waiting instruction ended: it may be a trap. -/
def State.wakeFate (t : State) : State :=
  match t.m.fate with
  | .trapped _ => t
  | _ => t.setFate .quiet

/-- A core issues: the chosen context's instruction, and the selector's new state. -/
def State.issueCore (s : State) (k : Key) : Ending :=
  let l := s.selectable k
  match s.chosen k l with
  | none => .next s
  | some (c, j) =>
    match (match s.waitEnds k c with
      | some t => some (Host.Outcome.next t.wakeFate)
      | none => s.issueAt k c) with
    | some (.next t) =>
      let t := t.updCore k fun co => { co with sel := { (co.sel.charge l c s.cycle (t.keepsCount k c)) with ptr := co.sel.ptr.set j c } }
      .next (t.forward s k c)
    | some e => e
    | none => .next s

/-- The core is a member of a run that has to issue first: a follower whose forwarded instruction is due, whether or not the run holds
(R265, R267), or a member of a run whose due instructions are ready. -/
def State.runFirst (s : State) (k : Key) : Bool :=
  s.sh.runs.any fun r => r.has k && ((r.due (k.val - r.leader.val)).isSome || s.runReady r)

/-- The core has something to issue in this cycle. -/
def State.issues (s : State) (k : Key) : Bool :=
  s.liveCore k && !s.slotUsed k && !s.runFirst k && !(s.selectable k).isEmpty

/-- One due member of a run issues; where an earlier member broke the run nothing is due. One that stops before its instruction, or seals
a region for it, has not issued it. -/
def State.oneDue (s : State) (leader : Key) (d : Nat) : Ending :=
  match s.sh.runs.find? fun r => r.leader = leader with
  | none => .next s
  | some r =>
    let k := r.member d
    match s.issueDue r d, r.due d with
    | some (.next t), some e =>
      let t := t.updCore k fun co =>
        { co with sel := co.sel.charge (s.selectableDue k true) 0 s.cycle (t.keepsCount k 0) }
      .next (if t.m.fate == .quiet then t else
        { t with sh := { t.sh with runs := t.sh.runs.map fun q => if q.leader = leader then q.issued d e else q } })
    | some (.next t), none => .next t
    | some e, _ => e
    | none, _ => .next s

/-- The due members of a run issue, in order of distance. -/
def State.runIssues (leader : Key) : List Nat → State → Ending
  | [], s => .next s
  | d :: ds, s =>
    match s.oneDue leader d with
    | .next t => State.runIssues leader ds t
    | e => e

/-! ## Boundaries (08 R261, R233; 18 R418) -/

/-- What waits for a context's boundary happens: a reported cause is delivered with the PC of the next instruction and that of the
instruction which it concerns, a waiting instruction being abandoned; or a debug stop. -/
def State.boundary (s : State) (k : Key) (c : CtxNo) : Option State :=
  let x := s.ctx k c
  if !x.stopsNow || !s.liveCore k then none else
  match x.aux.reports with
  | r :: rest =>
    let s := s.updCtx k c fun x => { x.abandonWait with aux := { x.abandonWait.aux with reports := rest } }
    let (v, s) := match r.value with
      | some v => (v, s)
      | none => s.freeWord
    some (s.deliver k c r.cause v (s.resumePc k c x) r.pc)
  | [] =>
    if x.aux.dbg.want = some 0 then some (s.takeStop k c 0)
    else if x.run = .running && x.aux.dbg.steps = some 0 then some (s.debugStop k c 0)
    else none

/-! ## Time -/

/-- A run's clock: it counts the cycles in which nothing that is due was held (R269, R270). -/
def CourseRun.tick (r : CourseRun) (live : Bool) : CourseRun :=
  if live && r.dues.isEmpty then
    { r with clock := r.clock + 1, done := [], fwd := r.fwd.filter fun e => decide (r.clock < e.1 + r.len) }
  else r

/-- A held follower issues nothing: its ready contexts were not chosen (R265, R270). -/
def State.holdCounts (s : State) (r : CourseRun) : State :=
  if !s.liveCore r.leader then s else
  r.dues.foldl (fun t d =>
    let k := r.member d
    if s.slotUsed k then t
    else t.updCore k fun co => { co with sel := co.sel.waits (s.selectableDue k (s.issueDue r d).isSome) }) s

/-- One cycle passes: the runs' clocks count, the sensors are read anew (log entry 26). -/
def State.tick (s : State) : State :=
  let t := s.sh.runs.foldl State.holdCounts s
  { t with cycle := s.cycle + 1,
           sh := { t.sh with runs := t.sh.runs.map fun r => r.tick (t.liveCore r.leader) },
           mg := t.mg.sense t.m.freeCtr, m := { t.m with freeCtr := t.m.freeCtr + 3 } }

end Sys2Proof.Machine
end

