-- ==== Sys2Proof/Machine/Moves.lean ====
section
/-! DEFINITION. What can happen next: the events that the outside causes (inputs), those that the device causes by itself, and
the issue of instructions. The spec orders only part of what happens in one cycle; the rest is a free choice (log
entry 4). -/
namespace Sys2Proof.Machine
open Sys2Proof

/-- One thing that can happen; `copy` and `fetch` are a message of a transfer that is not its last, `emit` a message that leaves the
package at a port, `dead`, `drain` and `member` the events PORT_DEAD, DRAIN_ROUND and MEMBER_FAILURE of the domain, `tell` what a lane
tells the others of a silent member (17 R414). -/
inductive Action where
  | input | event (i : Instr) | copy (i : Nat) | fetch (i : Nat) | copyAsk (i : Nat) | fetchAsk (i : Nat) | emit (i : Nat) (p : Fin 18)
  | dead (p : Fin 18) | drain (n ended due : Nat) | member (part : Fin 64) (dev : BitVec 8) (told : List Nat) | tell (part : Fin 64) (dev : Nat)
  | boundary (k : Key) (c : CtxNo) | issue (k : Key) | run (leader : Key) | tick | off
  deriving DecidableEq, Repr

/-- Events that the outside causes: commands and records of the host, its register accesses, the other packages, the
module's sensors and rails. -/
def outside (i : Instr) : Bool :=
  match i with
  | .memberFailure .. | .create .. | .launch .. | .preempt .. | .resume .. | .restore .. | .savecont .. | .resetcore .. => true
  | .destroy .. | .shoot .. | .mapdone .. => true
  | .injActiveMessage .. | .injQueueMessage .. | .injLineWrite .. | .injLineRead .. | .injTxnSubmit .. | .injFarWrite .. => true
  | .noteRead .. | .semRead .. | .semWrite .. | .linkUp .. | .creditReturn .. | .rsvFlitDiscard .. | .timeFlit .. => true
  | .linkStateFlit .. => true
  | .dstop .. | .dgo .. | .dstep .. | .drstep .. | .dread .. | .dtread .. => true
  | .powerGood | .fwctlWrite .. | .svnsetWrite .. | .attreqSign .. | .attreqIdentity .. | .cdataWrite .. => true
  | .mgmtRegWrite .. | .tempWarning .. | .thermalTrip | .hostLinkLoss .. | .powerLoss => true
  | _ => false

/-- An event with the state that it leads to, if it is enabled. -/
abbrev Chance := Instr × Option State

/-- The enabled ones. -/
def enabled (l : List Chance) : List Action := (l.filter fun e => e.2.isSome).map fun e => .event e.1

/-- The cores and hods that hold something. -/
def State.keys (s : State) : List Key := s.cores.map fun e => Fin.ofNat 4160 e.1
/-- The partitions that exist. -/
def State.partNos (s : State) : List (Fin 64) := s.parts.map fun e => Fin.ofNat 64 e.1
def reg8s : List Reg8 := [0, 1, 2, 3, 4, 5, 6, 7]
def slaupPorts : List (Fin 18) := List.finRange 18

/-- A context waits in a `WAITMSG`. -/
def State.waitsMsg (s : State) (k : Key) (c : CtxNo) : Bool :=
  match (s.ctx k c).run with
  | .parked .msg _ => true
  | _ => false

/-- The end of a cycle: a `WAITMSG` wakes for an entry that no dispatch of the cycle has popped (06 R179). -/
def State.wakeMsgs (s : State) : State :=
  s.keys.foldl (fun s k => allCtx.foldl (fun s c => if s.waitsMsg k c then (evWaitWake k c s).getD s else s) s) s

/-- Events at a core that happen in a fixed cycle. -/
def State.timedAt (s : State) (k : Key) : List Chance :=
  (allCtx.map fun n => (.barrierRelease k n, evBarrierRelease k n s)) ++
  [(.tileComplete k, evTileComplete k s), (.tileAbandon k, evTileAbandon k s), (.kresResult k, evKresResult k s),
   (.traceRateAdjust k, evTraceRateAdjust k s)] ++
  allCtx.flatMap fun c =>
    [(.waitWake k c, if (s.waitEnds k c).isSome || s.waitsMsg k c then none else evWaitWake k c s), (.fenceRetire k c, evFenceRetire k c s)] ++
    (List.range (s.ctx k c).aux.outs.length).map fun i => (.replyTimeout k c i, evReplyTimeout k c i s)

/-- The cores that the patrol reads: every core and hod does, but where no word is in error the reading changes nothing beyond the
cores that hold something (17 R404). -/
def State.patrolKeys (s : State) : List Key :=
  s.keys ++ (List.finRange 4160).filter fun k => (aget s.cores k.val).isNone && (s.sh.ue ++ s.sh.ce).any fun w =>
    decide (Loc.local_ k 0 ≤ 8 * w ∧ 8 * w < Loc.local_ k (localSize k))

/-- The kilns with a command in some queue. -/
def State.busyKilns (s : State) : List (Fin 512) :=
  ((s.cores.filter fun e => !e.2.kq.isEmpty && decide (e.1 < 4096)).map fun e => Fin.ofNat 512 (kilnOf e.1)).eraseDups

/-- A context has a timed send whose cycle has come in the injection queue: its oldest request leaves, so that the send can be
performed in its cycle (09 R277). Where another rule holds an earlier request back the send is late (log entry 140). -/
def State.timedDeparts (s : State) (k : Key) : List Chance :=
  let q := (s.core k).injq
  let due := fun (r : Req) => !r.left && (match r.op with
    | .post (.timed _ _ t) => decide (t ≤ s.pclk k)
    | _ => false)
  (List.range q.length).map fun i => (.injectionDepart k i, match q[i]? with
    | some r => if q.any fun e => due e && decide (e.ctx = r.ctx) then s.depart k i else none
    | none => none)

/-- A message is a timed send (09 R277). -/
def Msg.isTimed : Msg → Bool
  | .req r _ _ => (match r.op with | .post (.timed ..) => true | _ => false)
  | _ => false

/-- What must happen in this cycle before anything else. -/
def State.urgent (s : State) : List Action :=
  (s.keys.flatMap fun k => (allCtx.filter fun c => (s.boundary k c).isSome).map fun c => .boundary k c) ++
  ((slaupPorts.filter fun p => (evPortDead p s).isSome).map .dead) ++
  (s.dom.draining.toList.filterMap fun q =>
    if (evDrainRound (s.dom.drainRound + 1) q.1 q.2 s).isSome then some (.drain (s.dom.drainRound + 1) q.1 q.2) else none) ++
  enabled (
    (s.partNos.flatMap fun n => [(.gangStop n, evGangStop n s), (.resumeStart n false, evResumeStart n false s)]) ++
    (s.partNos.map fun n => (.batchClose n, evBatchClose n s)) ++
    (s.keys.flatMap s.timedAt) ++ ((if s.sh.ue.isEmpty && s.sh.ce.isEmpty then s.keys else s.patrolKeys).map fun k => (.patrolRead k, evPatrolRead k s)) ++
    (s.keys.flatMap s.timedDeparts) ++
    (s.busyKilns.map fun z => (.kilnStartOpportunity z, evKilnStartOpportunity z s)) ++
    (s.sh.atomics.map fun e => (.atomicServe (Fin.ofNat 256 e.1), evAtomicServe (Fin.ofNat 256 e.1) s)) ++
    ((List.range s.sh.held.length).flatMap fun i =>
      [(.heldEntryRetry i, evHeldEntryRetry i s), (.faultRecordPlaced i, evFaultRecordPlaced i s)]) ++
    ((List.range s.sh.fabric.length).map fun i =>
      (.postedOpPerform i, if ((s.msg i).map Msg.isTimed).getD false then evPostedOpPerform i s else none)) ++
    ((List.range s.launches.length).map fun i =>
      (.launchStart i, if (s.launches[i]?.bind (·.ts)).isSome then evLaunchStart i s else none)) ++
    (slaupPorts.map fun p => (.creditFlitTimer p, if s.slaup[p].creditDue s.now then evCreditFlitTimer p s else none)) ++
    [(.railsOff, evRailsOff s)])

/-- Events of a message in the fabric. -/
def State.fabricAt (s : State) (i : Nat) : List Chance :=
  [(.messageArrival i, evMessageArrival i s), (.returnArrival i, evReturnArrival i s),
   (.sendAcceptance i, evSendAcceptance i s), (.postedOpPerform i, evPostedOpPerform i s), (.ackReturn i, evAckReturn i s),
   (.remoteLoadPerform i, evRemoteLoadPerform i s), (.atomicRequestArrival i, evAtomicRequestArrival i s),
   (.replyArrival i, evReplyArrival i s), (.copyRequestArrival i, evCopyRequestArrival i s), (.tsubIntake i, evTsubIntake i s),
   (.verdictArrival i, evVerdictArrival i s), (.lockRequest i, evLockRequest i s), (.versionQuery i, evVersionQuery i s),
   (.grantLanding i, evGrantLanding i s), (.commitPushWritten i, evCommitPushWritten i s), (.lockRelease i, evLockRelease i s)] ++
  (match s.msg i with
    | some (.portion n ..) => [(.portionArrival (Fin.ofNat 64 n) i, evPortionArrival (Fin.ofNat 64 n) i s)]
    | _ => [])

/-- Events at a core whose time no rule fixes. -/
def State.looseAt (s : State) (k : Key) : List Chance :=
  ((List.range (s.core k).injq.length).map fun i => (.injectionDepart k i, s.depart k i)) ++
  (allCtx.flatMap fun c =>
    [(.deferredRelease k c, s.releaseDeferred k c), (.regionRollback k c, evRegionRollback k c s),
     (.superstepRollback k c, evSuperstepRollback k c s), (.txBodyRetry k c, evTxBodyRetry k c s),
     (.translateRequest k c, evTranslateRequest k c s), (.farAccessComplete k c, evFarAccessComplete k c s)]) ++
  (reg8s.flatMap fun q =>
    [(.streamLineFill k q, if s.liveCore k then s.fillLine k q else none),
     (.streamLineDrain k q, if s.liveCore k then s.drainLine k q else none)]) ++
  (((s.core k).lkm.queue.map fun r => r.tile).eraseDups.map fun t => (.grant k t, evGrant k t s)) ++
  [(.courseLinkDeliver k, evCourseLinkDeliver k s), (.txnDispatch k, evTxnDispatch k s),
   (.failedAttempt k, evFailedAttempt k s), (.commitComplete k, evCommitComplete k s), (.resetComplete k, evResetComplete k s)]

/-- Events whose time no rule fixes, or fixes only as a bound. -/
def State.loose (s : State) : List Action :=
  enabled (
    ((List.range s.sh.fabric.length).flatMap s.fabricAt) ++
    (s.keys.flatMap s.looseAt) ++
    ((List.range s.sh.copies.length).map fun i => (.copyComplete i, evCopyComplete i s)) ++
    (s.sh.fetches.map fun f => (.cfetchLanded f.req.src f.seg, evCfetchLanded f.req.src f.seg s)) ++
    (s.partNos.flatMap fun n =>
      [(.quiescence n, evQuiescence n s), (.saveDrainEnd n, evSaveDrainEnd n s),
       (.resumeStart n true, evResumeStart n true s)]) ++
    ((List.range s.launches.length).map fun i => (.launchStart i, evLaunchStart i s)) ++
    ((List.range s.shoots.length).map fun i => (.shootComplete i, evShootComplete i s)) ++
    (slaupPorts.flatMap fun p =>
      [(.standbyTakeover p, evStandbyTakeover p s), (.creditFlitTimer p, evCreditFlitTimer p s)]) ++
    [(.selftestDone true, evSelftestDone true s), (.selftestDone false, evSelftestDone false s), (.verifyDone, evVerifyDone s)])

/-- Members of a group that have been silent (17 R414): this lane tells the others its number of their rounds, and, when all have told it
theirs, takes the cut. -/
def State.lostMembers (s : State) : List Action :=
  s.partNos.flatMap fun n => ((s.part n.val).others.filter fun d => s.silent n.val d).flatMap fun d =>
    if !(s.part n.val).live then [] else
    (if (s.part n.val).lane.telling.contains d then [] else [.tell n d]) ++
    (match s.toldOf n.val d with
      | some l => if (evMemberFailure n (BitVec.ofNat 8 d) ⟨false, l⟩ s).isSome then [.member n (BitVec.ofNat 8 d) l] else []
      | none => [])

/-- Messages that move on: those of transfers, and those that leave the package. -/
def State.messages (s : State) : List Action :=
  (((List.range s.sh.copies.length).filter fun i => (s.copyPiece i 1).isSome).map .copy) ++
  (((List.range s.sh.fetches.length).filter fun i => (s.fetchPiece i 1).isSome).map .fetch) ++
  (((List.range s.sh.copies.length).filter fun i => (s.copyAsk i).isSome).map .copyAsk) ++
  (((List.range s.sh.fetches.length).filter fun i => (s.fetchAsk i).isSome).map .fetchAsk) ++
  (List.range s.sh.fabric.length).flatMap fun i => (slaupPorts.filter fun p => (s.emit i p).isSome).map (.emit i)

/-- What the cores can issue in this cycle: due members of course-fetch runs, and contexts that the selectors choose. -/
def State.issueMoves (s : State) : List Action :=
  ((s.sh.runs.filter s.runReady).map fun r => .run r.leader) ++ ((s.keys.filter s.issues).map .issue)

/-- The first input that is due. -/
def State.inputDue (s : State) : Option Nat := s.m.inputs.findIdx? fun e => e.1 ≤ s.cycle

/-- What can happen next. Time passes once nothing is due and no core has anything to issue (09 R265). -/
def State.moves (s : State) : List Action :=
  if s.inputDue.isSome then [.input]
  else if !s.mg.power then (if s.m.inputs.isEmpty then [.off] else [.tick])
  else
    let u := s.urgent
    if !u.isEmpty then u
    else
      let l := s.issueMoves
      l ++ s.loose ++ s.lostMembers ++ s.messages ++ (if l.isEmpty then [.tick] else [])

/-- What the outside does, done. Only events of the outside come in as rows; without power nothing else has an effect. -/
def State.comesIn (s : State) (e : Input) : Ending :=
  let quiet := fun (t : State) => Host.Outcome.next ((if s.mg.power then t else s).setFate .quiet)
  match e with
  | .row i => if outside i then exec i s else .next s
  | .access p w off size d => fire s (s.access p w off size d)
  | .flit p f m => quiet (s.takeFlit p f m)
  | .linkDown p => quiet (s.linkDown p)
  | .laneRetry p same => quiet (s.laneRetry p same)
  | .device n => quiet (s.assign n)
  | .peer q => quiet { s with peers := q :: s.peers.filter fun e => !decide (e.dev = q.dev ∧ e.job = q.job) }
  | .upset u => quiet (s.upset u)
  | .area a => quiet { s with areas := s.areas ++ [a] }

/-- The first input that is due happens, or the one that goes before it by the tie bit (16 R389). -/
def State.takeInput (s : State) : Ending :=
  match s.inputDue with
  | none => .next s
  | some i =>
    let r := s.tieFirst i
    match r.2.m.inputs[r.1]? with
    | none => .next s
    | some e => ({ r.2 with m := { r.2.m with inputs := r.2.m.inputs.eraseIdx r.1 } }).comesIn e.2

/-- A message of a transfer, of a free number of lines up to the limit, or of one line where those would end it. -/
def State.someLines (s : State) (limit : Nat) (f : State → Nat → Option State) : State :=
  let t := s.bump
  match f t (1 + Config.pick s.m.freeCtr % limit) with
  | some u => u
  | none => (f t 1).getD s

/-- A move made. -/
def State.make (s : State) (a : Action) : Ending :=
  match a with
  | .input => s.takeInput
  | .event i => exec i s
  | .copy i => .next (s.someLines (((s.sh.copies[i]?).map (·.limit)).getD 1) fun t n => t.copyPiece i n)
  | .fetch i => .next (s.someLines (((s.sh.fetches[i]?).map (·.limit)).getD 1) fun t n => t.fetchPiece i n)
  | .copyAsk i => .next ((s.copyAsk i).getD s)
  | .fetchAsk i => .next ((s.fetchAsk i).getD s)
  | .dead p => Sys2Proof.Machine.execPortDead p s
  | .drain n e t => Sys2Proof.Machine.execDrainRound n e t s
  | .member n d l => Sys2Proof.Machine.execMemberFailure n d ⟨false, l⟩ s
  | .tell n d => .next (s.tellRounds n.val d)
  | .emit i p => .next ((s.emit i p).getD s)
  | .boundary k c => .next ((s.boundary k c).getD s)
  | .issue k => s.issueCore k
  | .run j => match s.sh.runs.find? fun r => r.leader = j with
    | some r => State.runIssues j r.dues s
    | none => .next s
  | .tick => .next s.wakeMsgs.tick
  | .off => .fault .poweredOff

/-- The move that is made: the only one, or a free choice (log entry 4). -/
def State.act (s : State) : Ending :=
  match s.moves with
  | [] => .next s.wakeMsgs.tick
  | [m] => s.make m
  | m :: l =>
    ({ s with m := { s.m with freeCtr := s.m.freeCtr + 1 } }).make
      ((m :: l).getD (Config.pick s.m.freeCtr % (l.length + 1)) m)

/-! ## A program placed for a run -/

/-- The words of an instruction in memory, low byte first, from a place (00 R9, 03 R63). -/
def putWords (m : Memory) (a : Nat) : List Nat → Memory
  | [] => m
  | w :: ws => putWords (m.write a 2 w) (a + 2) ws

/-- The state in which core 0 of partition 0, alone and in supervisor mode, is about to run some words: the device is in READY,
the partition holds pallet 0, segment 0 is present. It stands for the CREATE and the LAUNCH that load a program (log
entry 27). -/
def State.place (s : State) (ws : List Nat) : State :=
  let p : Part := { Part.init with state := .active, pallets := 1, config := at_ 1 32 ||| at_ 1 16 }
  let x := s.ctx 0 0
  let seg : BitVec 7 := 2
  let s := { s with mg := { s.mg with power := true, state := .ready }, parts := aset s.parts 0 p }
  let s := s.updCore 0 fun co => { (co.setCtx 0 { x with run := .running }) with csr := { co.csr with seg := co.csr.seg.set 0 seg } }
  s.setMem (putWords s.sh.mem (Loc.imem 0 x.pc.toNat) ws)

end Sys2Proof.Machine
end

