-- ==== Sys2Proof/Machine/Step.lean ====
section
/-! DEFINITION. `step`: one move of the device. -/
namespace Sys2Proof.Machine
open Sys2Proof

/-- One step: an input that is due; else something that must happen in this cycle; else an instruction that a core issues, an
event, or, where no core has anything to issue, a cycle passing. -/
def step (s : State) : Host.Outcome State Fault Refusal := s.act

/-- The state with an instruction placed so that the next step runs it: `tableWords` lays it out. -/
def State.withFetchWord (s : State) (nbits w : Nat) : State := s.place (tableWords nbits w)

end Sys2Proof.Machine
end

