-- ==== Sys2Proof/Safety.lean ====
section
/-! DEFINITION. What counts as a safe run, in the terms that statements use. -/
namespace Sys2Proof.Machine
open Sys2Proof

/-- The byte store is in its canonical form: equal memories are equal data. -/
def State.Canonical (s : State) : Prop := s.sh.mem.wf = true

/-- No fault and no refusal ends a run of n steps. -/
def State.RunsFor (s : State) (n : Nat) : Prop :=
  match Host.Core.run Sys2Proof.core n s with
  | .next _ => True
  | _ => False

/-- In debug mode the undo log takes n more register entries without giving up a window (11 R329, 04 R94). -/
abbrev State.Room (s : State) (n : Nat) : Prop := s.debug s.me = true → 256 + n < s.myCore.logFree

/-- The undo log takes n more entries without giving up a window, in every mode (11 R329). -/
abbrev State.LogRoom (s : State) (n : Nat) : Prop := 256 + n < s.myCore.logFree

/-- The executing core's undo log with entries appended, the first one first (11 R321). -/
def State.withLog (s : State) (es : List LogEntry) : State := s.updMine fun co => es.foldl Core.push co

/-- Register entries are appended in debug mode only (04 R94). -/
def State.noted (s : State) (es : List LogEntry) : State := if s.debug s.me then s.withLog es else s

/-- The register entry of x[r] (11 Table 11.6). -/
def State.entryX (s : State) (r : Reg) : List LogEntry := [⟨.reg s.cc 0 r 0, s.x r⟩]
/-- The register entry of p[r]. -/
def State.entryP (s : State) (r : Reg8) : List LogEntry := [⟨.reg s.cc 2 (Fin.ofNat 32 r.val) 0, s.p r⟩]
/-- The eight register entries of v[r] (11 R322). -/
def State.entriesV (s : State) (r : Reg) : List LogEntry :=
  ([0, 1, 2, 3, 4, 5, 6, 7] : List (Fin 8)).map fun i => ⟨.reg s.cc 1 r i, eword (s.v r) i.val⟩

/-- x[r] = w, with its register entry in debug mode. -/
def State.wroteX (s : State) (r : Reg) (w : Word) : State := (s.noted (s.entryX r)).upd fun c => c.putX r w
/-- p[r] = w, with its register entry in debug mode. -/
def State.wroteP (s : State) (r : Reg8) (w : Word) : State := (s.noted (s.entryP r)).upd fun c => c.putP r w
/-- v[r] = w, with its register entries in debug mode. -/
def State.wroteV (s : State) (r : Reg) (w : VWord) : State := (s.noted (s.entriesV r)).upd fun c => c.putV r w

/-- Pieces (offset, length, value) stored into the executing core's local store: in a slice the undo entries of the words
that change come first (06 R148, R156), in a hod's staging SRAM there are none. -/
def State.storeEntries (s : State) (ps : List (Nat × Nat × Nat)) : List LogEntry :=
  undoEntries s s.me ⟨⟨s.device, s.me.val⟩, s.cc, false⟩ (putPieces s.sh.mem s.me ps) (wordsOf ps)
def State.stored (s : State) (ps : List (Nat × Nat × Nat)) : State :=
  if isHod s.me then s.putRaw s.me ps else (s.withLog (s.storeEntries ps)).putRaw s.me ps

/-- Some steps lead from one state to another. -/
inductive Leads : State → State → Prop where
  | refl (s : State) : Leads s s
  | step (s t u : State) : step s = .next t → Leads t u → Leads s u

end Sys2Proof.Machine
end

