-- ==== Sys2Proof/Certificates/Slice0/Obligations.lean ====
section
/-! DEFINITION. The statements for the provers. The names before the statements say what several of them share. -/
namespace Sys2Proof.Machine
open Sys2Proof

/-- The instruction retires with one x register written and nothing else done. -/
def GivesX (i : Instr) (s : State) (a : Reg) (w : Word) : Prop := exec i s = .next (s.wroteX a w).retire

/-- The instruction retires with one v register written and nothing else done. -/
def GivesV (i : Instr) (s : State) (a : Reg) (w : VWord) : Prop := exec i s = .next (s.wroteV a w).retire

/-- The instruction retires with one p register written and nothing else done. -/
def GivesP (i : Instr) (s : State) (a : Reg8) (w : Word) : Prop := exec i s = .next (s.wroteP a w).retire

/-- The instruction raises a cause with an XVALUE, and does nothing else (08 R261). -/
def Traps (i : Instr) (s : State) (cause : BitVec 8) (v : Word) : Prop := exec i s = .next (s.raise cause (some v))

/-- The instruction raises a cause whose XVALUE no rule gives: a free value, the model's reading (log entry 11). -/
def TrapsFree (i : Instr) (s : State) (cause : BitVec 8) : Prop := exec i s = .next (s.raise cause none)

/-- The instruction stalls at issue: nothing changes but the model's note of it (09 R264). -/
def Stalls (i : Instr) (s : State) : Prop := exec i s = .next (s.setFate .stalled)

/-- An event happens: the state it leads to. -/
def Happens (i : Instr) (s t : State) : Prop := exec i s = .next (t.setFate .quiet)

/-- The binary functions of 04 Table 4.3, but the divisions. -/
def binaryTable : List ((R3 → Instr) × (Word → Word → Word)) :=
  [(.add, fun a b => a + b), (.sub, fun a b => a - b), (.and, fun a b => a &&& b), (.or, fun a b => a ||| b),
   (.xor, fun a b => a ^^^ b), (.andn, fun a b => a &&& ~~~b),
   (.sll, fun a b => BitVec.ofNat 64 (a.toNat * 2 ^ (b.toNat % 64))),
   (.srl, fun a b => BitVec.ofNat 64 (a.toNat / 2 ^ (b.toNat % 64))),
   (.sra, fun a b => BitVec.ofInt 64 (a.toInt / 2 ^ (b.toNat % 64))),
   (.rol, fun a b => a.rotateLeft (b.toNat % 64)),
   (.mul, fun a b => BitVec.ofNat 64 (a.toNat * b.toNat)),
   (.mulh, fun a b => BitVec.ofInt 64 (a.toInt * b.toInt / 2 ^ 64)),
   (.mulhu, fun a b => BitVec.ofNat 64 (a.toNat * b.toNat / 2 ^ 64)),
   (.mulhsu, fun a b => BitVec.ofInt 64 (a.toInt * (b.toNat : Int) / 2 ^ 64)),
   (.min, fun a b => BitVec.ofInt 64 (Min.min a.toInt b.toInt)),
   (.max, fun a b => BitVec.ofInt 64 (Max.max a.toInt b.toInt)),
   (.minu, fun a b => BitVec.ofNat 64 (Min.min a.toNat b.toNat)),
   (.maxu, fun a b => BitVec.ofNat 64 (Max.max a.toNat b.toNat)),
   (.slt, fun a b => if a.toInt < b.toInt then 1 else 0), (.sltu, fun a b => if a.toNat < b.toNat then 1 else 0),
   (.seq, fun a b => if a = b then 1 else 0), (.sne, fun a b => if a ≠ b then 1 else 0)]

/-- n is the number of leading zero bits of w. -/
def LeadingZeros (w : Word) (n : Nat) : Prop :=
  n ≤ 64 ∧ (∀ i, i < n → w.getLsbD (63 - i) = false) ∧ (n < 64 → w.getLsbD (63 - n) = true)

/-- n is the number of trailing zero bits of w. -/
def TrailingZeros (w : Word) (n : Nat) : Prop :=
  n ≤ 64 ∧ (∀ i, i < n → w.getLsbD i = false) ∧ (n < 64 → w.getLsbD n = true)

/-- Byte j of a number, and of a word. -/
def natByte (n j : Nat) : Nat := n / 256 ^ j % 256
def byteOf (w : Word) (j : Nat) : Nat := natByte w.toNat j

/-- The results of R101, as its pseudocode has them. -/
def divTable : List ((R3 → Instr) × (Word → Word → Word)) :=
  [(.div, fun a b => if b = 0 then 0xFFFFFFFFFFFFFFFF else if a = 0x8000000000000000 ∧ b = 0xFFFFFFFFFFFFFFFF then a
      else BitVec.ofInt 64 (Int.tdiv a.toInt b.toInt)),
   (.rem, fun a b => if b = 0 then a else if a = 0x8000000000000000 ∧ b = 0xFFFFFFFFFFFFFFFF then 0
      else BitVec.ofInt 64 (a.toInt - b.toInt * Int.tdiv a.toInt b.toInt)),
   (.divu, fun a b => if b = 0 then 0xFFFFFFFFFFFFFFFF else BitVec.ofNat 64 (a.toNat / b.toNat)),
   (.remu, fun a b => if b = 0 then a else BitVec.ofNat 64 (a.toNat - b.toNat * (a.toNat / b.toNat)))]

/-- The divider is taken for 36 cycles (04 Table 4.1). -/
def State.divides (s : State) : State := s.updMine fun co => { co with divFree := s.cycle + 36 }

/-- The immediate functions of 04 Table 4.4 whose immediate is signed. -/
def signedTable : List ((RI → Instr) × (Word → Word → Word)) :=
  [(.addi, fun a v => a + v), (.andi, fun a v => a &&& v), (.ori, fun a v => a ||| v), (.xori, fun a v => a ^^^ v),
   (.slti, fun a v => if a.toInt < v.toInt then 1 else 0)]

/-- A target in the segment, off half-words from a PC: R111's formula, field by field. -/
def segTarget (pc : PC) (off : Int) : PC :=
  (pc.extractLsb' 13 2 ++ (pc.extractLsb' 0 13 + BitVec.ofInt 13 (2 * off)) : BitVec 15)

/-- The conditions of 04 Table 4.8. -/
def branchTable : List ((Reg → Reg → Int → Instr) × (Word → Word → Bool)) :=
  [(.beq, fun a b => a == b), (.bne, fun a b => a != b), (.blt, fun a b => decide (a.toInt < b.toInt)),
   (.bge, fun a b => decide (b.toInt ≤ a.toInt)), (.bltu, fun a b => decide (a.toNat < b.toNat)),
   (.bgeu, fun a b => decide (b.toNat ≤ a.toNat))]

/-- The state in which a follower of a course-fetch run executes an instruction forwarded to it (09 R269, 04 R95): its words, its PC and
whether the leader branched. -/
def State.asDue (s : State) (k : Key) (pc : PC) (ws : List Nat) (taken : Bool) : State :=
  (s.executing k 0 ws (some taken)).updCtx k 0 fun x => { x with pc := pc }

/-- The instruction forwarded to the follower at a distance is due, and the follower can issue it (09 R269, R270). -/
structure State.FollowerIssues (s : State) (r : CourseRun) (d : Nat) (pc : PC) (ws : List Nat) (taken : Bool) (i : Instr) : Prop where
  due : r.due d = some (pc, ws, taken)
  follower : s.follower (r.member d) 0 = true
  awake : s.awake (r.member d) 0 = true
  slot : s.slotUsed (r.member d) = false
  reads : ∃ rest, decode ws = .ok (i, rest)
  ready : (s.asDue (r.member d) pc ws taken).unlocked i = true
  hazard : (s.asDue (r.member d) pc ws taken).hazard i = none
  sound : (s.asDue (r.member d) pc ws taken).my.faulty = false
  room : (s.asDue (r.member d) pc ws taken).Room 1

/-- The segment of a PC is present and landed (02 Table 2.8, SEGSTAT). -/
def State.landed (s : State) (pc : PC) : Bool := decide (s.myCore.segSt pc = 2)

/-- The counter of TIME's instant is passed (log entry 15). -/
def State.passed (s : State) : State := { s with m := { s.m with freeCtr := s.m.freeCtr + 1 } }

/-- 02 Table 2.4: numbers from the first to the second, rights in user and in supervisor mode. -/
def csrTable : List (Nat × Nat × Right × Right) :=
  [(0x000, 0x000, .r, .rw), (0x001, 0x004, .no, .rw), (0x005, 0x00C, .rw, .rw), (0x00D, 0x010, .r, .r),
   (0x011, 0x011, .r, .rw), (0x012, 0x013, .rw, .rw), (0x014, 0x017, .r, .r), (0x018, 0x019, .rw, .rw),
   (0x100, 0x102, .r, .r), (0x104, 0x10B, .r, .rw), (0x110, 0x117, .rw, .rw), (0x118, 0x11B, .r, .r),
   (0x11C, 0x11C, .r, .rw), (0x11D, 0x11D, .no, .rw), (0x11E, 0x11E, .r, .rw), (0x11F, 0x11F, .rw, .rw)]

/-- The right of the executing mode to a CSR, where the table has it. -/
def State.csrRight (s : State) (n : Fin 512) : Option Right :=
  (csrTable.find? fun e => decide (e.1 ≤ n.val ∧ n.val ≤ e.2.1)).map fun e =>
    if s.my.csr.mode = .user then e.2.2.1 else e.2.2.2

/-- A CSR written by an instruction: the entry with the old value, then the fields (04 R94, R108). -/
def State.wroteCsr (s : State) (n : Fin 512) (w : Word) : State :=
  (s.withLog [⟨.csr s.cc n, s.csrRead s.me s.cc n.val⟩]).csrPut s.me s.cc n.val w

/-- The correctable words of the live-range table that a write to CHKTAB installs are counted (08 R255, 17 R415). -/
def State.tableRead (s : State) (n : Fin 512) (w : Word) : State :=
  if n = 0x018 ∧ w.getLsbD 63 = true then
    s.countCe s.me [(bits w 19 0 / 64 * 64, s.tableLen s.me (bits w 19 0 / 64 * 64))]
  else s

/-- What a write that the mode may make leaves. -/
def State.installed (s : State) (n : Fin 512) (w : Word) : State := (s.tableRead n w).wroteCsr n w

/-- A live-range table that a write to CHKTAB installs is well formed, and no word of it is in error (08 R255, 17 R403). -/
def State.tableFits (s : State) (n : Fin 512) (w : Word) : Prop :=
  n = 0x018 → w.getLsbD 63 = true → let o := bits w 19 0 / 64 * 64
    s.badRaw [(o, min (s.tableLen s.me o) (localSize s.me - o))] = none ∧ s.badTable o = none

/-- CSRs whose value after a write is the written word under a mask: the writable fields of 02 Table 2.4 and Table 2.8. -/
def csrMasks : List (Fin 512 × Word) :=
  [(0x001, 0xFF), (0x002, 0xFFFFFFFFFFFFFFFF), (0x003, 0x7FFE), (0x004, 0x8000000000007FFE), (0x005, 0x8000000000007FFE),
   (0x006, 0xFF), (0x007, 0xFFFFFFFFFFFFFFFF), (0x008, 0x7FFE), (0x009, 0xF), (0x00B, 0xFFFFFFFFFFFFFFFF),
   (0x00C, 0xFFFFFFFFFFFFFFFF), (0x011, 0xFFFFFFFFFFFFFFFF), (0x012, 0xFFFF8), (0x018, 0x80000000000FFFC0),
   (0x110, 0)]

/-- The domain CSRs DM0 to DM3; DMn.EN of a hod reads 0 (08 R239). -/
def domainCsrs : List (Fin 512) := [0x104, 0x105, 0x106, 0x107]
def domainMask (k : Key) : Word := if isHod k then 0xFFFF else 0x800000000000FFFF

/-- CSRs that ignore a write, whoever makes it (02 Table 2.4). -/
def readOnlyCsrs : List (Fin 512) := [0x00D, 0x00E, 0x00F, 0x010, 0x014, 0x015, 0x016, 0x017, 0x100, 0x101, 0x102, 0x118, 0x119, 0x11A,
  0x11B]

/-- A trap can be taken: the vector is valid and its segment is landed (08 R261), and the context leads or follows no run. -/
def State.vectored (s : State) : Prop :=
  s.my.csr.xvec.valid = true ∧ s.landed s.my.csr.xvec.pc = true ∧ s.slaved s.me s.cc = false

/-- The trap entry of 08 R261 at the executing context, which takes it with a PC: the registers it writes and the PC;
everything else of the context stays but the lookahead windows and a hod's translations at hand, and no other context, no byte of memory and no register
changes. -/
def EntersTrap (s t : State) (cause : BitVec 8) (v : Word) (pc : PC) : Prop :=
  t.my.csr = { s.my.csr with xcause := cause, xvalue := v, xpc := pc, pmode := s.my.csr.mode, mode := .supervisor } ∧
  t.my.pc = s.my.csr.xvec.pc ∧ t.my.run = .running ∧ t.my.regs = s.my.regs ∧
  t.my.aux = { s.my.aux with windows := [], far := none } ∧ t.sh = s.sh ∧ t.me = s.me ∧ t.cc = s.cc ∧
  (∀ k c, (k, c) ≠ (s.me, s.cc) → t.ctx k c = s.ctx k c) ∧ t.myCore.csr = s.myCore.csr ∧ t.myCore.log = s.myCore.log ∧
  t.parts = s.parts ∧ t.ports = s.ports

/-- The upcall entry of 08 R261. -/
def EntersUpcall (s t : State) (cause : BitVec 8) (v : Word) (pc : PC) : Prop :=
  t.my.csr = { s.my.csr with ucause := cause, uvalue := v, upc := pc, ubusy := true } ∧
  t.my.pc = s.my.csr.uvec.pc ∧ t.my.run = .running ∧ t.my.regs = s.my.regs ∧
  t.my.aux = { s.my.aux with windows := [], far := none } ∧ t.sh = s.sh ∧ (∀ k c, (k, c) ≠ (s.me, s.cc) → t.ctx k c = s.ctx k c)

/-- Everything that 06 R146 checks of a load of n bytes passes, and the address is at hand: the bytes behind it are a
piece. -/
structure State.Readable (s : State) (ad : Word) (n align : Nat) (p : Piece) : Prop where
  access : s.checkAccess false ad n align = .ok ()
  piece : s.loadPiece ad n = .ok p
  loads : s.checkLoads [(ad, p)] = .ok ()
  here : s.farPending false (fars [(ad, p)]) = false
  unmarked : (fars [(ad, p)]).find? (s.farLocked false) = none
  sound : s.farBad (fars [(ad, p)]) = none

/-- The state after a load: corrected words are counted, and a hod's far access is over. -/
def State.counted (s : State) (p : Piece) : State := s.countCe s.me p.raws
def State.loadEnd (s : State) (ad : Word) : State := if isSlice ad then s else s.farEnd

/-- The loads of 06 Table 6.3: sign-extended or not, bytes. -/
def loadTable : List ((Reg → MSrc → Instr) × Bool × Nat) :=
  [(.ldb, true, 1), (.ldbu, false, 1), (.ldh, true, 2), (.ldhu, false, 2), (.ldw, true, 4), (.ldwu, false, 4), (.ldd, false, 8)]

/-- The stores of 06 Table 6.3. -/
def storeTable : List ((Reg → MSrc → Instr) × Nat) := [(.stb, 1), (.sth, 2), (.stw, 4), (.std, 8)]

/-- A value of n bytes extended to 64 bits. -/
def extended (sgn : Bool) (n v : Nat) : Word :=
  if sgn then (BitVec.ofNat (8 * n) v).signExtend 64 else (BitVec.ofNat (8 * n) v).setWidth 64

/-- Everything that 06 R146 checks of a store of n bytes into the own local store passes. -/
structure State.Writable (s : State) (ad : Word) (n align : Nat) : Prop where
  access : s.checkAccess true ad n align = .ok ()
  slice : isSlice ad = true
  body : s.bodyOk true [(offOf ad, n)] = true
  free : s.locksFree true [(offOf ad, n)] = true

/-- The same for far memory of a hod, whose translation is at hand at a physical address. -/
structure State.FarWritable (s : State) (ad : Word) (n align ph : Nat) : Prop where
  access : s.checkAccess true ad n align = .ok ()
  far : isSlice ad = false
  body : s.my.csr.txbody = false
  revocable : s.my.aux.frames = []
  phys : s.farPhys ad true = some ph
  unmarked : s.farLocked true (ad, n) = false

/-- An access of n bytes through window 0 to the core's own slice, by its full conditions. -/
structure State.PlainOwn (s : State) (ad : Word) (n : Nat) : Prop where
  sound : n = 8 ∨ s.badRaw [(offOf ad, n)] = none
  free : s.locksFree true [(offOf ad, n)] = true
  calm : s.my.trigger 0 = none
  core : isHod s.me = false
  slice : isSlice ad = true
  rsv : bits ad 51 32 = 0
  dev : devOf ad = 0xFF
  own : coreOf ad = s.me.val
  raw : winOf ad = 0
  aligned : ad.toNat % n = 0
  body : s.my.csr.txbody = false

/-- Earlier remote loads and atomics have settled, and nothing posted is under way (06 R158). -/
def State.released (s : State) : Bool :=
  s.my.aux.posted.isEmpty && !(s.postWaiting s.me s.cc) && s.my.remoteSettled

/-- The loads and the stores of an address that can issue, with their bytes (06 Table 6.3, R157): `LDA` and `STL` wait as R158 says. -/
def State.addrLoads (s : State) (a : Reg) (m : MAddr) : List (Instr × Nat) :=
  loadTable.map (fun e => (e.1 a (.addr m), e.2.2)) ++ (if s.my.remoteSettled then [(.lda a m, 8)] else [])
def State.addrStores (s : State) (a : Reg) (m : MAddr) : List (Instr × Nat) :=
  storeTable.map (fun e => (e.1 a (.addr m), e.2)) ++ [(.zln m, 64)] ++ (if s.released then [(.stl a m, 8)] else [])

/-- The types that the windows 1 to 7 decode from and to (02 Table 2.6). -/
def WindowPair (w : Nat) (src dst : ETy) : Prop :=
  match w with
  | 1 => src = .q4n ∧ dst = .bf16
  | 2 => src = .e2m1 ∧ dst = .bf16
  | 3 => src = .e4m3 ∧ dst = .bf16
  | 4 => src = .e5m2 ∧ dst = .bf16
  | 5 => src = .bf16 ∧ dst = .f32
  | 6 => (src = .f16 ∧ dst = .f16) ∨ ((src = .bf16 ∨ src = .e4m3 ∨ src = .e5m2) ∧ dst = .bf16)
  | 7 => src ≠ .i64 ∧ src ≠ .e8m0 ∧ (dst = .f32 ∨ dst = .bf16 ∨ dst = .f16)
  | _ => False

/-- The code of decoded element e of a window (02 Table 2.6), from a reader of slice bytes (offset, length). -/
def windowCode (w : Nat) (src dst : ETy) (d : Word) (rd : Nat → Nat → Nat) (e : Nat) : Nat :=
  let data := bits d 19 0
  let scales := bits d 39 20 / 64 * 64
  let nibble := fun place i => rd (place + i / 2) 1 / 16 ^ (i % 2) % 16
  let stored := fun i => cvtRne src dst (rd (data + i * (src.width / 8)) (src.width / 8))
  match src with
  | .q4n =>
    let image := data / 64 * 64 + 8512 * (e / 16384)
    let i := e % 16384
    let v := q4nValue (nibble image i) (rd (image + 8192 + i / 64) 1) (rd (image + 8448) 4)
    if dst = .bf16 then v else cvtRne .bf16 dst v
  | .e2m1 => convert dst .rne 0 false (mxValue (valueOf .e2m1 (nibble data e)) (rd (scales + e / 32) 1))
  | _ =>
    if w = 6 then
      let n := nibble scales (e / 4)
      if n / 4 ≤ n % 4 then nanOf dst
      else if e % 4 = n % 4 then stored (2 * (e / 4))
      else if e % 4 = n / 4 then stored (2 * (e / 4) + 1)
      else 0
    else stored e

/-- The format of 02 R49 is kept. -/
def State.FormatOk (_ : State) (ad : Word) : Prop :=
  (isSlice ad = true → bits ad 51 32 = 0 ∧ ((devOf ad).toNat < 0xC0 ∨ devOf ad = 0xFF)) ∧
  (isSlice ad = false → bits ad 62 57 = 0)

/-- A slice address of a device that the domain does not have (02 R49). -/
def State.OutsideDomain (s : State) (ad : Word) : Prop :=
  isSlice ad = true ∧ devOf ad ≠ 0xFF ∧ bits (s.part (s.partNo s.me)).config 39 32 ≤ (devOf ad).toNat

/-- An address that `LD`, `ST` and `VMEM` accept: on an ordinary core its own slice, on a hod its staging SRAM or far memory (02 R47,
R50, 06 R154). -/
def State.LocalTo (s : State) (ad : Word) : Prop :=
  (isHod s.me = true → isSlice ad = false ∨ ((devOf ad = 0xFF ∨ devOf ad = s.device) ∧ coreOf ad = 0 ∧ winOf ad = 0)) ∧
  (isHod s.me = false → isSlice ad = true ∧ (devOf ad = 0xFF ∨ devOf ad = s.device) ∧ coreOf ad = s.me.val)

/-- A stream that a context may pop one element of n bytes from: what comes next in its buffer. -/
structure State.Poppable (s : State) (i : Reg8) (t : Stream) (e : Nat × Nat × Bool) (r : List (Nat × Nat × Bool)) : Prop where
  bound : s.strm s.me i = some t
  mine : t.ctx = s.cc
  links : s.myCore.linkBy = none ∨ i.val < 6
  reads : t.write = false
  good : t.err = false
  body : s.my.csr.txbody = false
  more : t.cursor < t.total
  ready : t.cursor < t.fetched
  buf : t.buf = e :: r
  fits : e.2.1 < 2 ^ t.ety.width
  clean : e.2.2 = false
  calm : s.my.trigger 0 = none

/-- No lock but the stream's own is in the way of pushed elements (06 R147). -/
def State.pushFree (s : State) (i : Reg8) (t : Stream) (ns : List Nat) : Bool :=
  ns.all fun n => !(s.lockHit s.me (some s.cc) (some (.strm i)) (t.byteOff n) (t.byteOff n + t.bytes)).2

/-- A stream that a context may push an element to. -/
structure State.Pushable (s : State) (i : Reg8) (t : Stream) : Prop where
  bound : s.strm s.me i = some t
  mine : t.ctx = s.cc
  links : s.myCore.linkBy = none ∨ i.val < 6
  writes : t.write = true
  body : s.my.csr.txbody = false
  more : t.cursor < t.total
  free : s.pushFree i t [t.cursor] = true
  room : t.lines t.buf < 4

/-- The course links are this context's and the neighbour on a side is in the partition. -/
structure State.Linked (s : State) (east : Bool) : Prop where
  held : s.myCore.linkBy = some s.cc
  near : s.linkOk east = true
  body : s.my.csr.txbody = false
  revocable : s.my.aux.frames = []

/-- Where a store to an address goes in the byte store. -/
def State.storePlace (s : State) (ad : Word) : Option Nat :=
  if isSlice ad then some (Loc.local_ s.me (offOf ad)) else s.farPhys ad true

/-- Lane i of a register for a type. -/
def lane (t : ETy) (v : VWord) (i : Nat) : Nat := laneOf v.toNat t.width i

/-- The active lanes of v are given by a function, the others are those of the register v[a] (02 R39). -/
def State.LaneWise (s : State) (t : ETy) (pr : Reg8) (a : Reg) (f : Nat → Nat) (v : VWord) : Prop :=
  ∀ i, i < t.lanes → lane t v i = if active t (s.p pr) i then f i % 2 ^ t.width else lane t (s.v a) i

/-- The instruction retires with v[a] given lane by lane. -/
def GivesLanes (i : Instr) (s : State) (t : ETy) (pr : Reg8) (a : Reg) (f : Nat → Nat) : Prop :=
  ∃ v, s.LaneWise t pr a f v ∧ GivesV i s a v

/-- The same for an instruction that rounds n lanes: RNDCTR passes under the random mode (01 R31, 05 R122). -/
def GivesRounded (i : Instr) (s : State) (t : ETy) (pr : Reg8) (a : Reg) (rm : Rm) (n : Nat) (f : Nat → Nat) : Prop :=
  ∃ v, s.LaneWise t pr a f v ∧ exec i s = .next ((s.wroteV a v).advance rm n).retire

/-- What a vector load leaves, given the register's value. -/
def LoadsV (i : Instr) (s : State) (t : ETy) (pr : Reg8) (a : Reg) (p : Piece) (ad : Word) (f : Nat → Nat) : Prop :=
  ∃ v, s.LaneWise t pr a f v ∧ exec i s = .next (((s.counted p).wroteV a v).retire.loadEnd ad)

/-- Everything that a load of one address in each active lane checks passes; the pieces in lane order (06 R145, R146). -/
structure State.LanesReadable (s : State) (on : List Nat) (at_ : Nat → Word) (n : Nat) (ps : List (Word × Piece)) : Prop where
  own : isHod s.me = false
  access : s.checkAccesses false (on.map at_) n n = .ok ()
  pieces : on.mapM (fun i => do let p ← s.loadPiece (at_ i) n; pure (at_ i, p)) = Except.ok ps
  loads : s.checkLoads ps = .ok ()
  slices : fars ps = []

/-- The same for stores of one address in each active lane. -/
structure State.LanesWritable (s : State) (on : List Nat) (at_ : Nat → Word) (n : Nat) : Prop where
  own : isHod s.me = false
  access : s.checkAccesses true (on.map at_) n n = .ok ()
  slices : ∀ i ∈ on, isSlice (at_ i) = true
  body : s.bodyOk true (on.map fun i => (offOf (at_ i), n)) = true
  free : ∀ i ∈ on, s.locksFree true [(offOf (at_ i), n)] = true

/-- The integer operations of 05 R127 and R129 on the values of two lanes and of the destination lane. -/
def intTable : List ((V3 → Instr) × (Int → Int → Int → Int)) :=
  [((fun o => .vadd o false), fun a b _ => a + b), ((fun o => .vsub o false), fun a b _ => a - b),
   ((fun o => .vmul o false), fun a b _ => a * b), (.vfma, fun a b c => c + a * b), (.vfms, fun a b c => c - a * b)]

/-- The floating operations of 05 R127: exact, then rounded once. -/
def floatTable : List ((V3 → Instr) × (Rm → Val → Val → Val → Val)) :=
  [((fun o => .vadd o false), fun m a b _ => addVal m a b), ((fun o => .vsub o false), fun m a b _ => addVal m a (negVal b)),
   ((fun o => .vmul o false), fun _ a b _ => mulVal a b), (.vfma, fun m a b c => addVal m c (mulVal a b)),
   (.vfms, fun m a b c => addVal m c (negVal (mulVal a b)))]

/-- The sign bit of a type. -/
def signBit (t : ETy) : Nat := 2 ^ (t.width - 1)

/-- A condition of 05 Table 5.5 on two values that are not NaN. -/
def condHolds (cond : Fin 8) (lt eq : Bool) : Bool :=
  match cond.val with
  | 0 => eq | 1 => !eq | 2 => lt | 3 => lt || eq | 4 => !lt && !eq | 5 => !lt | 6 => false | _ => true

/-- The types that VCVT accepts (05 R135) and the lanes of the wider of two. -/
def widerLanes (t d : ETy) : Nat := 512 / max t.width d.width

/-- 05 Table 5.9: the codes that `VRECIP`, `VRSQRT`, `VEXP2` and `VLOG2` give for a special operand. -/
def mathSpecial (t : ETy) (f : Fmt) (x : Val) : Option (Nat × Nat × Nat × Nat) :=
  let inf := f.infc.getD 0
  let neg := 2 ^ f.sign
  match x with
  | .nan => some (nanOf t, nanOf t, nanOf t, nanOf t)
  | .inf false => some (0, 0, inf, inf)
  | .inf true => some (neg, nanOf t, 0, nanOf t)
  | .fin a n _ => if n = 0 then
      some (if a then neg + inf else inf, if a then neg + inf else inf, (1 - f.emin).toNat * 2 ^ f.mb, neg + inf)
    else none

/-- y is 1/√x to half a unit in y's last place: (2m − 1)² x ≤ 4 ≤ (2m + 1)² x in units of y's last place. -/
def NearRsqrt (x y : Val) : Prop :=
  match x, y with
  | .fin false n e, .fin false m d =>
    (ratio ((2 * m - 1) ^ 2 * n) (2 * d - 2 + e)).1 ≤ (ratio ((2 * m - 1) ^ 2 * n) (2 * d - 2 + e)).2 ∧
    (ratio ((2 * m + 1) ^ 2 * n) (2 * d - 2 + e)).2 ≤ (ratio ((2 * m + 1) ^ 2 * n) (2 * d - 2 + e)).1
  | _, _ => False

/-- What 06 R167 asks of an `SBIND` at an address: the descriptor's piece p gives a stream t whose raw extent is lo to hi, a
binding that it replaces is this context's and has nothing unwritten, and the range table has room. -/
structure State.Bindable (s : State) (i : Reg8) (ad : Word) (p : Piece) (t : Stream) (lo hi : Nat) : Prop where
  slice : isSlice ad = true
  access : s.checkAccess false ad 64 64 = .ok ()
  piece : s.loadPiece ad 64 = .ok p
  reads : s.checkReads [(ad, p)] = .ok ()
  body : s.my.csr.txbody = false
  mine : ∀ o, s.strm s.me i = some o → o.ctx = s.cc ∧ (o.write = true → o.buf = [])
  link : s.isLink i = false
  stream : s.streamOf (s.pieceVal p) = some t
  extent : s.extent t = some (lo, hi)
  free : s.conflict s.me (some (.strm i)) t.write lo hi = false
  room : (s.unregister s.me 0 (.strm i)).rangesUsed s.me < 32

/-- The context holds a stream register, and its course links do not cover it. -/
structure State.Holds (s : State) (i : Reg8) (t : Stream) : Prop where
  bound : s.strm s.me i = some t
  mine : t.ctx = s.cc
  links : s.myCore.linkBy = none ∨ i.val < 6
  body : s.my.csr.txbody = false

/-- The status word of 06 R171: elements that remain, bound, direction, context, error, CPY, type. -/
def StatusOf (t : Stream) (w : Word) : Prop :=
  w.toNat / 2 ^ 32 = t.total - t.cursor ∧ w.getLsbD 31 = true ∧ w.getLsbD 30 = t.write ∧
  bits w 29 28 = t.ctx.val ∧ w.getLsbD 27 = false ∧ w.getLsbD 26 = t.err ∧ w.getLsbD 25 = t.cpy ∧
  bits w 24 4 = 0 ∧ bits w 3 0 = t.ety.code

/-- A request in the context's injection queue under the next name (06 R175). -/
def State.requested (s : State) (ord : Ord) (op : ROp) (d : Dest) : State :=
  s.freshId.2.updMine fun co => { co with injq := co.injq ++ [s.mkReq s.m.nextId ord op d] }

/-- An operation in the deferred buffer of the innermost region (06 R149, 11 R326). -/
def State.deferred (s : State) (bytes : Nat) (ord : Ord) (op : ROp) : State :=
  s.freshId.2.upd fun x => { x with aux := { x.aux with
    deferred := x.aux.deferred ++ [⟨s.my.depth, s.mkReq s.m.nextId ord op .trecon, bytes⟩] } }

/-- The injection queue has an entry free, and nothing released waits for one (06 R149, R175). -/
structure State.Queues (s : State) : Prop where
  body : s.my.csr.txbody = false
  room : s.myCore.injq.length < 16
  first : s.my.releasing = false

/-- An operation of 06 Table 6.2: requested outside regions, deferred in an unsealed one while the buffer has room for its
bytes (else 0x0F), stalled while the queue is full. -/
def Posts (i : Instr) (s : State) (bytes : Nat) (ord : Ord) (op : ROp) : Prop :=
  (s.my.aux.frames = [] → s.Queues → exec i s = .next (s.requested ord op .trecon).retire) ∧
  (s.my.aux.frames = [] → s.my.csr.txbody = false → 16 ≤ s.myCore.injq.length → Stalls i s) ∧
  ∀ f r, s.my.aux.frames = f :: r → f.isSealed = false → s.my.csr.txbody = false →
    ((s.my.aux.deferred.map (·.bytes)).foldl (· + ·) bytes ≤ 4096 → exec i s = .next (s.deferred bytes ord op).retire) ∧
    (4096 < (s.my.aux.deferred.map (·.bytes)).foldl (· + ·) bytes → TrapsFree i s 0x0F)

/-- What 06 R146 checks of a remote address: the format, a slice, for a store window 0, the alignment. -/
structure State.Reaches (s : State) (store : Bool) (ad : Word) (n : Nat) : Prop where
  format : s.checkFormat ad = .ok ()
  slice : isSlice ad = true
  raw : store = true → winOf ad = 0
  aligned : ad.toNat % n = 0

/-- A valid target word (06 R180) or handle word (R181). -/
structure State.Target (s : State) (queue : Bool) (w : Word) : Prop where
  format : s.checkFormat w = .ok ()
  slice : isSlice w = true
  zero : bits w 62 60 = 0 ∧ bits w 51 32 = 0
  pc : queue = false → bits w 19 15 = 0 ∧ w.getLsbD 0 = false

/-- The rectangle of x[T] for `MCST` and `RDST` (06 R185). -/
structure State.Rect (s : State) (ad w : Word) (rows cols : Nat) : Prop where
  high : bits w 13 8 = rows
  low : bits w 5 0 = cols
  some_ : rows ≠ 0 ∧ cols ≠ 0
  few : rows * cols ≤ 32
  inside : rowOf (s.owner ad).key + rows ≤ 64 ∧ colOf (s.owner ad).key + cols ≤ 64

/-- A slot of the context's table is open at a count of its slot clock (09 R276). -/
structure State.SlotOpen (s : State) (slot : Nat) (n : Nat) : Prop where
  window : slot < s.my.csr.slotwin.toNat
  inside : s.my.csr.slotbase.toNat + 8 * slot + 8 ≤ localSize s.me
  reads : s.checkLoads [(s.ownAddr (s.my.csr.slotbase.toNat + 8 * slot), .raw [(s.my.csr.slotbase.toNat + 8 * slot, 8)] 0)] = .ok ()
  clock : (∃ r, s.my.aux.slotClock = some (.counts r) ∧ n = s.pclk s.me - r) ∨ s.my.aux.slotClock = some (.stopped n)
  rsv : bits (BitVec.ofNat 64 (s.peek s.me (s.my.csr.slotbase.toNat + 8 * slot) 8)) 63 48 = 0
  start : bits (BitVec.ofNat 64 (s.peek s.me (s.my.csr.slotbase.toNat + 8 * slot) 8)) 31 0 ≤ n
  end_ : n < bits (BitVec.ofNat 64 (s.peek s.me (s.my.csr.slotbase.toNat + 8 * slot) 8)) 31 0 +
    bits (BitVec.ofNat 64 (s.peek s.me (s.my.csr.slotbase.toNat + 8 * slot) 8)) 47 32

/-- A request whose result goes to a register becomes outstanding with its window (03 R76, 06 R191). -/
def State.awaiting (s : State) (a : Word) (op : ROp) (d : RegName) (acq atomic : Bool) (la : Nat) : State :=
  let o := s.owner a
  (s.requested (if acq then .rel else .plain) op (.reg d)).expect s.m.nextId (.reg d) la (decide (o.dev = s.device)) acq
    atomic (s.linesOf op)

/-- What 06 R196 checks at issue of a copy whose descriptor lies at an address: x is the descriptor, rs the raw ranges of its
own-slice ends. -/
structure State.Copyable (s : State) (kind : Fin 3) (peg : Reg8) (ad : Word) (p : Piece) (rs : List (Nat × Nat × Bool)) :
    Prop where
  slice : isSlice ad = true
  access : s.checkAccess false ad 64 64 = .ok ()
  piece : s.loadPiece ad 64 = .ok p
  reads : s.checkReads [(ad, p)] = .ok ()
  fields : badCopy kind (s.pieceVal p) (copyOf kind ad (s.pieceVal p) peg) = false
  ends : s.checkEnds (copyOf kind ad (s.pieceVal p) peg).ends = .ok ()
  stream : s.checkDsts (copyOf kind ad (s.pieceVal p) peg) = .ok ()
  own : s.ownRanges (copyOf kind ad (s.pieceVal p) peg).ends = .ok rs

/-- The captured descriptor (06 R195, R199). -/
def State.copyTaken (s : State) (kind : Fin 3) (peg : Reg8) (ad : Word) (p : Piece) : CopyDesc :=
  let x := copyOf kind ad (s.pieceVal p) peg
  { x with win := s.ownWin x.src, mwin := s.ownWin x.fmeta }

/-- Ranges registered under a transfer's name (06 R147). -/
def State.ranged (s : State) (o : RangeOwner) (rs : List (Nat × Nat × Bool)) : State :=
  rs.foldl (fun s r => s.register s.me ⟨r.1, r.2.1, r.2.2, o, s.me.val, none⟩) s

/-- The copy instructions. -/
def copyTable : List ((Reg8 → MAddr → Ord → Fin 16 → Instr) × Fin 3) := [(.copy, 0), (.copysp, 1), (.copyq, 2)]

/-- What 06 R203 checks of a `CFETCH` into a segment. -/
structure State.Fetchable (s : State) (ad : Word) (seg : Fin 4) (rs : List (Nat × Nat × Bool)) : Prop where
  format : s.checkFormat ad = .ok ()
  aligned : ad.toNat % 64 = 0
  source : s.checkEnds [fetchEnd ad] = .ok ()
  idle : ∀ c : CtxNo, s.follower s.me c = true ∨ (s.myCore.ctx c).run = .idle ∨ (s.myCore.ctx c).pc.toNat / 0x2000 ≠ seg.val
  landed : (s.myCore.csr.seg[seg]).toNat % 4 ≠ 1
  own : s.ownRanges [fetchEnd ad] = .ok rs

/-- The chosen peg of 08 R237: the first masked zero peg from the start pointer, d places after it. -/
def Ctx.AnyZero (x : Ctx) (m : BitVec 8) (d : Nat) : Prop :=
  let i := fun (e : Nat) => Fin.ofNat 8 (x.aux.startPtr.val + e)
  let hit := fun (e : Nat) => m.getLsbD (i e).val = true ∧ x.g (i e) = 0
  d < 8 ∧ hit d ∧ ∀ e, e < d → ¬ hit e

/-- A core may arrive at a barrier of a level (08 R239, 09 R274): the level's domain is set and holds the core, no earlier
arrival waits, and with SS its posted operations are done. -/
structure State.Arrives (s : State) (n : Fin 4) (ss : Bool) : Prop where
  core : isHod s.me = false
  domain : (s.myCore.csr.dm[n]).getLsbD 63 = true
  inside : inRect (s.myCore.rect n) s.me.val = true
  body : s.my.csr.txbody = false
  single : s.myCore.bars[n] = none
  quiet : ss = true → s.my.aux.posted = [] ∧ s.postWaiting s.me s.cc = false

/-- A descriptor's address (08 R243): n bytes of the own slice, raw, 64-byte aligned. -/
structure State.Descriptor (s : State) (a : Word) (n : Nat) : Prop where
  format : s.checkFormat a = .ok ()
  own : s.isOwn a = true
  raw : winOf a = 0
  aligned : a.toNat % 64 = 0
  inside : offOf a + n ≤ localSize s.me

/-- What 08 R244 writes for a declaration: the entry, and the header with its count advanced. -/
def State.declared (s : State) (d tile : Word) (write : Bool) : List (Nat × Nat × Nat) :=
  let h := s.own64 (offOf d)
  (if write then [(writeAt d (hdrWrites h), 8, tile.toNat), (writeAt d (hdrWrites h) + 8, 8, 0)]
    else [(readAt d (hdrReads h), 8, tile.toNat), (readAt d (hdrReads h) + 8, 4, 0), (readAt d (hdrReads h) + 12, 4, 0)]) ++
  [(offOf d, 8, h.toNat + if write then 2 ^ 37 else 2 ^ 32)]

/-- A window marker in the log, with UWNUM counted (11 R322). -/
def State.marked (s : State) (ty : Fin 7) : State :=
  (s.withLog [⟨.marker s.cc ty (s.myCore.wnum + 1), 0⟩]).updMine fun co => { co with wnum := co.wnum + 1 }

/-- The frame of an `RBEG` (08 R249). -/
def State.opened (s : State) (off : Int) (irv : Bool) : Frame :=
  { x := s.my.regs.x, p := s.my.regs.p, pc := s.my.pc, handler := segTarget s.my.pc off, mode := s.my.csr.mode,
    rndctr := s.my.csr.rndctr, irv := irv, isSealed := false, unrec := false, retry := 0, marker := s.myCore.logHead,
    num := s.myCore.wnum + 1, cls := none, since := s.m.nextId, vs := [], tiles := [], strms := [], pegs := none }

/-- A kiln command's operands pass 07 R216, its queue and the range tables have room, and what it writes at another core is
outside every region (06 R150). -/
structure State.Fires (s : State) (load : Bool) (unit : Nat) (gs : List KArg) : Prop where
  core : isHod s.me = false
  body : s.my.csr.txbody = false
  checks : s.kilnChecks load unit gs = .ok ()
  ranges : s.kilnRoom gs = true
  room : s.myCore.kq.length < 16
  open_ : (gs.any fun g => g.write && decide (g.key ≠ s.me)) = false ∨ s.my.aux.frames = []

/-- The operands of KMMA and KSPMMA (07 R211, R218, R219). -/
def State.mulArgs (s : State) (o : KOp) (sparse : Bool) : List KArg :=
  let c := s.myCore.kcfgIssue
  let sh := shapeOf o.shape.val
  let k := fullK c.atype.toNat / sh.2.2
  [dataArg (s.x o.b) sh.1 (if sparse then k / 2 else k) c.astr c.atype.toNat,
   dataArg (s.xAt o.b 1) sh.2.1 k c.bstr c.btype.toNat] ++
  (if sparse then [auxArg (s.xAt o.b 2) sh.1 (k / 8) c.asstr] else
    (if c.ascl then [auxArg (s.xAt o.b 2) sh.1 (k / 32) c.asstr] else []) ++
    (if c.bscl then [auxArg (s.xAt o.b 3) sh.2.1 (k / 32) c.bsstr] else []))

/-- A kiln command enters the queue and the instruction retires: the queue gains one command of this instruction with the
issue-side configuration, ready five cycles later; no register and no byte of memory changes. -/
def Enqueues (i : Instr) (s : State) (P : KCmd → Prop) : Prop :=
  ∃ t c, exec i s = .next t ∧ t.myCore.kq = s.myCore.kq ++ [c] ∧ c.ctx = s.cc ∧ c.pc = s.my.pc ∧
    c.ready = s.cycle + 5 ∧ c.started = none ∧ c.cfg = s.myCore.kcfgIssue ∧ P c ∧
    t.my.pc = s.succ ∧ t.my.regs = s.my.regs ∧ t.sh.mem = s.sh.mem ∧ t.m.fate = .retired

/-- The shared fields of a command (07 R217). -/
def KCmd.Of (c : KCmd) (o : KOp) (kind : KKind) (k occ : Nat) : Prop :=
  c.kind = kind ∧ c.t = o.t ∧ c.peg = (if o.pegen then some o.peg else none) ∧ c.m = (shapeOf o.shape.val).1 ∧
  c.n = (shapeOf o.shape.val).2.1 ∧ c.k = k ∧ c.occ = occ

/-- Occupancy of a multiply (07 Table 7.6). -/
def occupancy (m n stored full : Nat) : Nat := max 16 (m * n * stored / (16 * full))

/-- The message at a place of the fabric. -/
def State.Carries (s : State) (i : Nat) (m : Msg) : Prop := s.msg i = some m

/-- A request reaches a core of this package that may perform it (06 R176, R182; 14 R357; 16 R393). -/
structure State.Due (s : State) (i : Nat) (r : Req) (dst : Owner) (j : Nat) (k : Key) : Prop where
  here : s.msg i = some (.req r dst j)
  owner : dst.local_ s = some k
  turn : s.mayPerform i r dst = true

/-- The state without a held entry. -/
def State.unheld (s : State) (i : Nat) : State := { s with sh := { s.sh with held := s.sh.held.eraseIdx i } }

/-- An outstanding result that a reply settles: its request, destination and generation are those of the reply (06 R191). -/
def Ctx.Expects (x : Ctx) (id : Nat) (d : Dest) (g : BitVec 4) (o : Out) : Prop :=
  (x.aux.outs.find? fun o => decide (o.id = id ∧ o.dest = d ∧ o.gen = g ∧ x.gen d = g)) = some o

/-- The peg of a command falls at its completion (07 R206). -/
def State.pegged (s : State) (k : Key) (c : KCmd) : State :=
  match c.peg with
  | some g => s.pegDec k c.ctx g 3 c.pc
  | none => s

/-- A stream's own writer (06 R168). -/
def State.byCtx (s : State) (k : Key) (c : CtxNo) : Writer := ⟨⟨s.device, k.val⟩, c, true⟩

/-- The source and the META bytes of a copy that one message moves (06 R195, 14 R356). -/
def State.copySource (s : State) (c : Copy) : List (Byte × Bool) :=
  s.endBytes c.req.tag c.d.srcEnd (c.d.win.getD 0) c.pages 0 (c.d.rows * c.d.rlen)
def State.copySide (s : State) (c : Copy) : List (Byte × Bool) :=
  if c.d.metaRead then s.endBytes c.req.tag c.d.metaEnd (c.d.mwin.getD 0) c.pages 0 c.d.metaBytes else []

/-- A copy that has moved nothing and whose destination bytes fit one message. -/
structure State.OneMessage (s : State) (c : Copy) : Prop where
  fresh : c.moved = 0 ∧ c.put = 0 ∧ c.side = 0 ∧ c.raw = [] ∧ c.pend = [] ∧ c.spend = []
  limit : 1 ≤ c.limit ∧ c.limit ≤ 64
  even : c.d.rows * c.d.rlen % 64 = 0
  whole : c.d.rows * c.d.rlen ≤ (64 * c.limit + c.d.unitOut - 1) / c.d.unitOut * c.d.unit
  fits : (c.d.output (s.copySource c) (s.copySide c)).1.length ≤ 64 * c.limit

/-- What it writes (06 R199, R201, R202): its output to the destination or the stream, and its metadata. -/
def State.copied (s : State) (c : Copy) : State :=
  let n := c.d.rows * c.d.rlen
  let out := c.d.output (s.copySource c) (s.copySide c)
  let t := s.countEnd c.d.srcEnd (c.d.win.getD 0) 0 n
  let t := (if c.d.metaRead then t.countEnd c.d.metaEnd (c.d.mwin.getD 0) 0 c.d.metaBytes else t).bump
  let t := t.putCopy c c.req.writer 0 out.1
  if out.2.isEmpty then t else t.putFrom c c.d.metaEnd c.req.writer 0 out.2

/-- A `COPY` between ends that are multiples of 64 bytes, at a place where a whole line begins; nothing read waits to be written. -/
structure Copy.Even (c : Copy) : Prop where
  plain : c.d.kind = 0
  dst : c.d.dsts = none
  lines : 64 ≤ c.d.rlen ∧ c.d.rlen % 64 = 0 ∧ c.d.src.toNat % 64 = 0 ∧ c.d.dst.toNat % 64 = 0 ∧ c.d.sstr % 64 = 0 ∧ c.d.dstr % 64 = 0
  next : c.moved = c.put ∧ c.moved % 64 = 0 ∧ c.moved ≤ c.d.rows * c.d.rlen
  none_ : c.raw = [] ∧ c.pend = [] ∧ c.spend = []

/-- A place j of what a copy writes begins a line of 64 bytes, or does not follow the byte before it. -/
def State.LineCut (s : State) (c : Copy) (j : Nat) : Prop :=
  s.outPlace c j / 64 ≠ s.outPlace c (j - 1) / 64 ∨ s.outPlace c j ≤ s.outPlace c (j - 1)

/-- A completed copy (06 R199): it leaves the engine, its ranges are released, those in other packages too, its peg
falls. -/
def State.copyOver (s : State) (i : Nat) (c : Copy) : State :=
  let t : State := { s with sh := { s.sh with copies := s.sh.copies.eraseIdx i } }
  ((t.releaseRanges (.copy c.req.id) c.req.src).letGo c.req).pegDec c.req.src c.req.ctx c.d.peg 1 c.req.pc

/-- The state with a waiting instruction of a context retired (08 R233): the context runs at the successor. A follower of a
course-fetch run keeps its PC. -/
def State.woken (s : State) (k : Key) (c : CtxNo) (succ : PC) : State :=
  (s.addHist k c (s.ctx k c).pc (s.core k).logHead s.m.nextId false).updCtx k c fun x =>
    { x with run := .running, pc := if s.follower k c then (s.ctx k c).pc else succ }

/-- E(r, c) of 09 R273 for a row with m more columns: the combined arrival signal at its column c, each hop made again that a gang stop
falls in. -/
def sweepE (stops : List Nat) (a : Nat → Nat) : Nat → Nat → Nat
  | c, 0 => a c
  | c, m + 1 => max (a c) (hopEnd stops (sweepE stops a (c + 1) m))

/-- Cc(r) of 09 R273, from the signals E(r, col0) of the rows. -/
def sweepC (stops : List Nat) (e : Nat → Nat) : Nat → Nat
  | 0 => e 0
  | r + 1 => max (e (r + 1)) (hopEnd stops (sweepC stops e r))

/-- Tc of 09 R273 for the arrivals a(r, c) of a rectangle. -/
def sweepTc (stops : List Nat) (rows cols : Nat) (a : Nat → Nat → Nat) : Nat :=
  sweepC stops (fun r => sweepE stops (a r) 0 (cols - 1)) (rows - 1)

/-- The release cycle of the core at row r and column q of a rectangle whose combined arrival reaches the corner at tc
(09 R273). -/
def sweepTime (tc rows r q : Nat) : Nat := tc + 1 + 2 * ((rows - 1 - r) + q)

/-- An open region frame whose rollback can run: everything of the context has settled (11 R325). -/
structure State.Rolls (s : State) (k : Key) (c : CtxNo) : Prop where
  live : s.liveCore k = true
  none_ : (s.core k).kilnWaiting c 0 = false
  quiet : s.quiet k c = true

/-- What a list of saved items holds for one of them: the last that was saved. -/
def lastOf {α β : Type} [DecidableEq α] (l : List (α × β)) (a : α) : Option β := (l.reverse.find? fun e => decide (e.1 = a)).map (·.2)

/-- The oldest undo entry, in a log that lists the newest first, of a context's own write of the word at byte y of its slice: the offset
and the old value (11 R321, R325). -/
def oldestWord (es : List LogEntry) (c : CtxNo) (y : Nat) : Option (Nat × Word) :=
  es.reverse.findSome? fun e => match e.kind with
    | .slice d remote _ _ _ off => if d = c ∧ remote = false ∧ off.toNat ≤ y ∧ y < off.toNat + 8 then some (off.toNat, e.old) else none
    | _ => none
/-- The same of a CSR. -/
def oldestCsr (es : List LogEntry) (c : CtxNo) (n : Fin 512) : Option Word :=
  es.reverse.findSome? fun e => if e.kind = .csr c n then some e.old else none

/-- A submission reaches the lane of its partition in its turn, and asks for t (11 R307; for a host's, captured now, 08 R246, 16
R394). -/
structure State.Submits (s : State) (i : Nat) (r : Req) (dst : Owner) (j : Nat) (t : Txn) (re : Option (Word × Nat)) : Prop where
  here : s.msg i = some (.req r dst j)
  op : ∃ t0, r.op = .tsub t0 re ∧ s.captured r t0 = some t
  live : (s.part r.part).live = true
  turn : s.tsubTurn i r = true
  host : s.hostTurn i r dst = true
  sound : (s.part r.part).lane.ue = false

/-- The submission as the lane holds it. -/
def Req.sub (r : Req) (t : Txn) (re : Option (Word × Nat)) (pages : List Leaf) : Sub :=
  ⟨r.id, t, r.src, r.ctx, r.host, r.pc, (re.map (·.2)).getD 0, re.map (·.1), pages, r.mode == .supervisor⟩

/-- A message as the fabric carries it from a core or hod to a device: on its way to another package, it is marked so (16 R397). -/
def State.addressed (s : State) (src : Nat) (dev : BitVec 8) (m : Msg) : Msg := if dev = s.device then m else .away dev src m

/-- The submissions that a batch takes, with their keys (11 R306, R308, R309). -/
def State.batch (s : State) (n : Nat) : List (Word × Sub) :=
  let l := (s.part n).lane
  (l.intake.take l.limit ++ sortSubs l.restarts).zipIdx.map fun u => (txnKey l.round (s.part n).device.toNat u.2, u.1)

/-- A resumption that does not take place: the partition is as before the command (14 R362), but armed where a thermal trip has met it
meanwhile (19 R431). -/
def State.unresumed (s : State) (n : Nat) : State :=
  let p := s.part n
  let q : Part := { p with state := if p.fatal && p.before == .active then .armed else p.before, restore := none }
  let q := if p.before = .active then { q with held := q.held + (s.cycle - q.since.getD s.cycle), since := none } else q
  (s.setPart n q).stateNotice n true 0 0

/-- The state without a launch. -/
def State.unlaunch (s : State) (id : Nat) : State := { s with launches := s.launches.filter fun q => q.id ≠ id }

/-- A port may give commands for a partition: its link is up, the device is READY, and no other port owns the partition without
this one holding its semaphore (14 R343, 16 R390, 19 R432). -/
structure State.Accepts (s : State) (p : Fin 2) (n : Fin 64) : Prop where
  up : s.portUp p = true
  ready : s.mg.state = .ready
  mine : (s.part n.val).state = .free ∨ (s.part n.val).owner = p ∨ s.holds p n = true

/-- The partition is ACTIVE, or ARMED with T at least 2,000 ns away (14 R363). -/
def State.Early (s : State) (n : Fin 64) : Prop :=
  (s.part n.val).state = .active ∨ ((s.part n.val).state = .armed ∧ s.now + 2000 ≤ (s.part n.val).t)

/-- The partition commands and the debug commands of a port for a partition. -/
def CommandOf (p : Fin 2) (n : Fin 64) (i : Instr) : Prop :=
  (∃ x : CreateArgs, x.part = n ∧ i = .create p x) ∨ i = .destroy p n ∨ (∃ x : LaunchArgs, x.part = n ∧ i = .launch p x) ∨
  (∃ a w b, i = .preempt p n a w b) ∨ (∃ a, i = .resume p n a) ∨ (∃ a w, i = .restore p n a w) ∨
  (∃ w b, i = .savecont p n w b) ∨ (∃ k, i = .resetcore p n k) ∨ (∃ sc w, i = .shoot p n sc w) ∨
  (∃ k c w v u, i = .mapdone p n k c w v u) ∨ (∃ k m sc, i = .dstop p n k m sc) ∨ (∃ k m sk, i = .dgo p n k m sk) ∨
  (∃ k c a, i = .dstep p n k c a) ∨ (∃ k c a, i = .drstep p n k c a) ∨ (∃ k c cls a, i = .dread p n k c cls a) ∨
  (∃ k a, i = .dtread p n k a)

/-- A record that the window can take at once (16 R393). -/
structure State.Takes (s : State) (kind : InjKind) (p : Fin 2) (x : InjRec) : Prop where
  up : s.portUp p = true
  ready : s.mg.state = .ready
  rsv : x.rsv = false
  sup : x.sup = true → kind = .message ∨ kind = .queue
  live : (s.part x.part.val).live = true
  addr : s.injAddr kind x.part.val x.addr = true
  room : s.ports[p].inj.length < 32
  hop : s.hopFree kind x = true

/-- The event of a record's kind. -/
def InjKind.Event (kind : InjKind) (p : Fin 2) (x : InjRec) (i : Instr) : Prop :=
  match kind with
  | .message => i = .injActiveMessage p x
  | .queue => i = .injQueueMessage p x
  | .write => i = .injLineWrite p x
  | .read => i = .injLineRead p x
  | .txn => i = .injTxnSubmit p x

/-- A port may give debug commands for a core of a running partition in debug mode (18 R417). -/
structure State.Debugs (s : State) (p : Fin 2) (n : Fin 64) (k : Key) : Prop where
  cmd : s.Accepts p n
  live : (s.part n.val).live = true
  debug : (s.part n.val).config.getLsbD 63 = true
  has : (s.part n.val).has k = true

/-- A context stopped by the debugger stands as before but for its run state (18 R418). -/
def State.StoppedAs (s t : State) (k : Key) (c : CtxNo) (sc : Fin 3) : Prop :=
  (t.ctx k c).run = .stopped sc ∧ (t.ctx k c).pc = (s.ctx k c).pc ∧ (t.ctx k c).regs = (s.ctx k c).regs ∧
  (t.ctx k c).csr = (s.ctx k c).csr

/-- Nothing of the running device is left: the cores, the partitions, the memories and what is under way are as at reset; the OTP
fuses are kept (19 R431, R435, R436). -/
def State.Blank (s t : State) : Prop :=
  t.cores = State.reset.cores ∧ t.parts = State.reset.parts ∧ t.sh = State.reset.sh ∧ t.launches = [] ∧ t.shoots = [] ∧
  t.areas = [] ∧ t.device = State.reset.device ∧ t.dom = State.reset.dom ∧ t.slaup = State.reset.slaup ∧
  t.mg.svnmin = s.mg.svnmin ∧ t.mg.leafctr = s.mg.leafctr ∧ t.mg.state = .selftest

/-- A place in the firmware region that FWCTL accepts (19 Table 19.4). -/
def FirmwareAt (a : Nat) : Prop := a % 0x10000 = 0 ∧ 0x5FF0000000 ≤ a ∧ a < 0x6000000000

/-- The registers that a register-only instruction writes: an x, a v or a p register. Other instructions have no entry. -/
def regOnly (i : Instr) : Option (Option Reg × Option Reg × Option Reg8) :=
  match i with
  | .time a | .li a _ | .vext a _ _ _ => some (some a, none, none)
  | .add o | .sub o | .and o | .or o | .xor o | .andn o | .sll o | .srl o | .sra o | .rol o | .mul o | .mulh o | .mulhu o
  | .mulhsu o | .div o | .divu o | .rem o | .remu o | .min o | .max o | .minu o | .maxu o | .slt o | .sltu o | .seq o | .sne o
  | .csel o | .fla o | .lea o _ _ => some (some o.a, none, none)
  | .mov o | .neg o | .clz o | .ctz o | .pop o | .bswap o | .abs o | .sext o _ | .zext o _ | .bfx o _ _ _ | .bfi o _ _ =>
    some (some o.a, none, none)
  | .addi o | .andi o | .ori o | .xori o | .slli o | .srli o | .srai o | .slti o => some (some o.a, none, none)
  | .vclass o _ => some (some o.a, none, none)
  | .vsel o | .vand o | .vor o | .vxor o | .vshl o | .vshr o | .vperm o | .vmin o | .vmax o => some (none, some o.a, none)
  | .vabs o _ | .vneg o _ | .vbcast o => some (none, some o.a, none)
  | .vins a _ _ _ => some (none, some a, none)
  | .vcmp a _ _ _ _ => some (none, none, some a)
  | .vpmov (.tox a _) _ => some (some a, none, none)
  | .vpmov (.mov a _) _ | .vpmov (.and a _ _) _ | .vpmov (.or a _ _) _ | .vpmov (.xor a _ _) _ | .vpmov (.andn a _ _) _
  | .vpmov (.not a _) _ | .vpmov (.fromx a _) _ => some (none, none, some a)
  | .nop | .yield | .fence _ => some (none, none, none)
  | _ => none

/-- A context, but for whether its superstep is unrecoverable, which an append anywhere in its rectangle may settle (11 R329, R331). -/
def butUnrec (x : Ctx) : Ctx :=
  { x with csr := { x.csr with ssunrec := false }, aux := { x.aux with ss := x.aux.ss.map fun f => { f with recov := true } } }

/-- What stays: every register but those named, the CSRs but SSUNREC (11 R331), the run state, the results and posted operations under
way and the unreported refusals of the context, its frames but for their seal and its deferred requests (06 R150, 11 R327: a hod's far
store seals its region), the streams and queues of the core, the other contexts, cores and partitions, the injection queue, the fabric and the
engines, and, where no word is correctable, the host ports. -/
structure State.Frame (s t : State) (x v : Option Reg) (p : Option Reg8) : Prop where
  cores : ∀ k, k ≠ s.me → ∀ c, butUnrec (t.ctx k c) = butUnrec (s.ctx k c)
  stores : ∀ k, k ≠ s.me → { t.core k with ctxs := (s.core k).ctxs } = s.core k
  parts : t.parts = s.parts
  others : ∀ c, c ≠ s.cc → butUnrec (t.ctx s.me c) = butUnrec (s.ctx s.me c)
  xs : ∀ q, x ≠ some q → t.my.x q = s.my.x q
  vs : ∀ q, v ≠ some q → t.my.v q = s.my.v q
  ps : ∀ q, p ≠ some q → t.my.p q = s.my.p q
  gs : ∀ q, t.my.g q = s.my.g q
  csrs : ∀ c, { (t.ctx s.me c).csr with ssunrec := (s.ctx s.me c).csr.ssunrec } = (s.ctx s.me c).csr
  run : t.my.run = s.my.run
  results : t.my.aux.outs = s.my.aux.outs ∧ t.my.aux.gens = s.my.aux.gens ∧ t.my.aux.posted = s.my.aux.posted
  refusals : t.my.aux.refMask = s.my.aux.refMask ∧ t.my.aux.refCount = s.my.aux.refCount ∧ t.my.aux.refPc = s.my.aux.refPc
  frames : t.my.aux.frames.map (fun f => { f with isSealed := false }) = s.my.aux.frames.map (fun f => { f with isSealed := false })
  deferred : t.my.aux.deferred.map (·.req) = s.my.aux.deferred.map (·.req)
  shared : t.myCore.csr = s.myCore.csr ∧ t.myCore.strms = s.myCore.strms ∧ t.myCore.rq = s.myCore.rq ∧
    t.myCore.kq = s.myCore.kq ∧ t.myCore.bars = s.myCore.bars ∧ t.myCore.injq = s.myCore.injq ∧
    t.myCore.ranges = s.myCore.ranges ∧ t.myCore.attempts = s.myCore.attempts ∧ t.myCore.lkm = s.myCore.lkm
  fabric : t.sh.fabric = s.sh.fabric ∧ t.sh.fallout = s.sh.fallout
  engines : t.sh.copies = s.sh.copies ∧ t.sh.fetches = s.sh.fetches ∧ t.sh.kilns = s.sh.kilns ∧ t.sh.atomics = s.sh.atomics ∧
    t.sh.runs = s.sh.runs ∧ t.sh.asks = s.sh.asks
  ports : s.sh.ce = [] → t.ports = s.ports ∧ t.sh.held = s.sh.held

/-- The events whose meaning is a step of its own always go on: the instruction answers a next state. -/
def Goes (i : Instr) (s : State) : Prop := ∃ t, exec i s = .next t

/-- The state with a new holder of a semaphore. -/
def State.sem (s : State) (n : Fin 64) (h : Fin 3) : State := { s with sems := s.sems.set n h }

/-- SEMn as it reads: GOT in [63], HOLDER in [1:0], 0 elsewhere (16 R388). -/
def semWord (got : Bool) (h : Fin 3) : BitVec 1024 := BitVec.ofNat 1024 (h.val + if got then 2 ^ 63 else 0)

/-- The integer instructions of majors 1 to 4 (04 Table 4.3). -/
def integerOps : List (R3 → Instr) := binaryTable.map (·.1) ++ divTable.map (·.1)
def unaryOps : List (R2 → Instr) := [.mov, .neg, .clz, .ctz, .pop, .bswap]

end Sys2Proof.Machine

open Sys2Proof Sys2Proof.Machine

/-- R100: every function of Table 4.3 but the divisions of R101. A write to x0 is discarded (R40: `wroteX` writes nothing
there).
Completes: `mov`, `neg`, `clz`, `ctz`, `pop`, `bswap`, `add`, `sub`, `and`, `or`, `xor`, `andn`, `sll`, `srl`, `sra`, `rol`,
`mul`, `mulh`, `mulhu`, `mulhsu`, `min`, `max`, `minu`, `maxu`, `slt`, `sltu`, `seq`, `sne`. -/
def Obligations.IntegerResults : Prop :=
  ∀ (s : State) (a t b : Reg), s.Room 1 →
    (∀ e ∈ binaryTable, GivesX (e.1 ⟨a, t, b⟩) s a (e.2 (s.x t) (s.x b))) ∧
    GivesX (.mov ⟨a, b⟩) s a (s.x b) ∧ GivesX (.neg ⟨a, b⟩) s a (0 - s.x b) ∧
    (∃ n, LeadingZeros (s.x b) n ∧ GivesX (.clz ⟨a, b⟩) s a (BitVec.ofNat 64 n)) ∧
    (∃ n, TrailingZeros (s.x b) n ∧ GivesX (.ctz ⟨a, b⟩) s a (BitVec.ofNat 64 n)) ∧
    GivesX (.pop ⟨a, b⟩) s a (BitVec.ofNat 64 ((List.range 64).filter fun i => (s.x b).getLsbD i).length) ∧
    (∃ w, (∀ j < 8, byteOf w j = byteOf (s.x b) (7 - j)) ∧ GivesX (.bswap ⟨a, b⟩) s a w)

/-- R101. While a divide of the core is in flight, a divide does not issue (R93).
Completes: `div`, `divu`, `rem`, `remu`. -/
def Obligations.DivisionResults : Prop :=
  ∀ (s : State) (a t b : Reg), s.Room 1 → ∀ e ∈ divTable,
    (s.myCore.divFree ≤ s.cycle →
      exec (e.1 ⟨a, t, b⟩) s = .next (s.divides.wroteX a (e.2 (s.x t) (s.x b))).retire) ∧
    (s.cycle < s.myCore.divFree → Stalls (e.1 ⟨a, t, b⟩) s)

/-- R102, R110: the immediate functions and `LI`. R103 to R107: extension, selection, address composition, bit fields.
Completes: `slli`, `srli`, `srai`, `sext`, `zext`, `csel`, `lea`, `fla`, `bfx`, `bfi`, `abs`, `li`, `addi`, `andi`, `ori`,
`xori`, `slti`. -/
def Obligations.ImmediateResults : Prop :=
  (∀ (s : State) (a t : Reg) (v : Int), s.Room 1 →
      (∀ e ∈ signedTable, GivesX (e.1 ⟨a, t, v⟩) s a (e.2 (s.x t) (BitVec.ofInt 64 v))) ∧
      (∀ n : Nat, n ≤ 63 →
        GivesX (.slli ⟨a, t, n⟩) s a (BitVec.ofNat 64 ((s.x t).toNat * 2 ^ n)) ∧
        GivesX (.srli ⟨a, t, n⟩) s a (BitVec.ofNat 64 ((s.x t).toNat / 2 ^ n)) ∧
        GivesX (.srai ⟨a, t, n⟩) s a (BitVec.ofInt 64 ((s.x t).toInt / 2 ^ n))) ∧
      GivesX (.li a v) s a (BitVec.ofInt 64 v)) ∧
  (∀ (s : State) (a t b : Reg), s.Room 1 →
      (∀ n : Fin 3, GivesX (.sext ⟨a, b⟩ n) s a (((s.x b).setWidth (8 * 2 ^ n.val)).signExtend 64)) ∧
      (∀ n : Fin 3, GivesX (.zext ⟨a, b⟩ n) s a (((s.x b).setWidth (8 * 2 ^ n.val)).setWidth 64)) ∧
      GivesX (.abs ⟨a, b⟩) s a (BitVec.ofNat 64 (s.x b).toInt.natAbs) ∧
      GivesX (.csel ⟨a, t, b⟩) s a (if s.x a ≠ 0 then s.x t else s.x b) ∧
      (∀ (z : Fin 4) (v : Int),
        GivesX (.lea ⟨a, t, b⟩ z v) s a (s.x t + s.x b * BitVec.ofNat 64 (2 ^ z.val) + BitVec.ofInt 64 v)) ∧
      GivesX (.fla ⟨a, t, b⟩) s a
        (1#1 ++ (s.x b).extractLsb' 24 3 ++ (s.x b).extractLsb' 16 8 ++ 0#20 ++ (s.x b).extractLsb' 8 6 ++
          (s.x b).extractLsb' 0 6 ++ (s.x t).extractLsb' 0 20) ∧
      (∀ pos len1 : Fin 64, pos.val + len1.val < 64 →
        GivesX (.bfx ⟨a, b⟩ pos len1 false) s a (((s.x b).extractLsb' pos.val (len1.val + 1)).setWidth 64) ∧
        GivesX (.bfx ⟨a, b⟩ pos len1 true) s a (((s.x b).extractLsb' pos.val (len1.val + 1)).signExtend 64) ∧
        ∃ w : Word, (∀ i : Nat, i < 64 → w.getLsbD i =
            if pos.val ≤ i ∧ i ≤ pos.val + len1.val then (s.x b).getLsbD (i - pos.val) else (s.x a).getLsbD i) ∧
          GivesX (.bfi ⟨a, b⟩ pos len1) s a w))

/-- R96, R98, R99: `NOP` only retires, `YIELD` marks the cycle for the selector, `TIME` gives an instant of the counter within
the time that it takes (log entry 15). R97: `HALT` in a region or a transaction body raises 0x10; with a result
outstanding it waits; else the context becomes idle, and where nothing dispatchable waits it stays so. In a course-fetch
run it waits for the others (09 R271), and for the debugger a recon context stops (18 R418).
Completes: `nop`, `halt`, `yield`, `time`. -/
def Obligations.NopYieldTimeHalt : Prop :=
  (∀ s : State, exec .nop s = .next s.retire ∧
      exec .yield s =
        .next (s.updMine fun co => { co with sel := { co.sel with yielded := some (s.cc, s.cycle) } }).retire ∧
      ∀ a : Reg, s.Room 1 → ∃ v, s.now ≤ v ∧ v ≤ s.now + 2 ∧
        exec (.time a) s = .next (s.passed.wroteX a (BitVec.ofNat 64 v)).retire) ∧
  (∀ s : State,
      (s.my.depth ≠ 0 ∨ s.my.csr.txbody = true → TrapsFree .halt s 0x10) ∧
      (s.my.depth = 0 → s.my.csr.txbody = false → s.my.aux.outs ≠ [] → Stalls .halt s) ∧
      (s.my.depth = 0 → s.my.csr.txbody = false → s.my.aux.outs = [] →
        (∀ r, s.slaved s.me s.cc = true → s.runOf s.me = some r → exec .halt s = .next (s.haltRun r)) ∧
        (s.slaved s.me s.cc = false →
          (s.my.aux.recon ≠ none → s.my.aux.dbg.want = some 2 →
            exec .halt s = .next (((s.endRecon s.me s.cc).debugStop s.me s.cc 2).setFate .retired)) ∧
          ((s.my.aux.recon = none ∨ s.my.aux.dbg.want ≠ some 2) →
            exec .halt s = .next (((s.endRecon s.me s.cc).becomeIdle s.me s.cc).setFate .retired) ∧
            ((s.myCore.rq.any fun i => dispatchable i.e) = false → s.myCore.attempts = [] →
              ∃ t, exec .halt s = .next t ∧ t.my.run = .idle)))))

/-- R111 to R113: a branch whose condition holds continues at its target in the segment, any other at its successor. R114:
`LOOP`. R115 to R117: the jumps, with the link value of R111 in x1 or x[A]; x[B] is read before the link is written. R95: a follower of a
course-fetch run takes the direction that its leader took and makes no check of its own; at its step it writes the link value or the count
to its own register, and no register else, and its PC stays that of the instruction forwarded to it.
Completes: `beqz`, `bnez`, `loop`, `jalr`, `ret`, `jf`, `callf`, `j`, `jal`, `beq`, `bne`, `blt`, `bge`, `bltu`, `bgeu`. -/
def Obligations.ControlTransfers : Prop :=
  (∀ (s : State) (a b : Reg) (off : Int),
      (∀ e ∈ branchTable, exec (e.1 a b off) s =
        .next (if s.m.lead.getD (e.2 (s.x a) (s.x b)) then s.jump (segTarget s.my.pc off) else s.retire)) ∧
      exec (.beqz a off) s = .next (if s.m.lead.getD (s.x a == 0) then s.jump (segTarget s.my.pc off) else s.retire) ∧
      exec (.bnez a off) s = .next (if s.m.lead.getD (s.x a != 0) then s.jump (segTarget s.my.pc off) else s.retire)) ∧
  (∀ (s : State) (a : Reg) (n : Nat), s.Room 1 →
      (s.m.lead = none →
        ((s.x a).toNat ≤ 1 → exec (.loop a n) s = .next (s.wroteX a 0).retire) ∧
        (1 < (s.x a).toNat →
          exec (.loop a n) s = .next ((s.wroteX a (s.x a - 1)).jump (segTarget s.my.pc (-(n : Int)))))) ∧
      (s.m.lead = some true →
        exec (.loop a n) s = .next ((s.wroteX a (s.x a - 1)).jump (segTarget s.my.pc (-(n : Int))))) ∧
      (s.m.lead = some false → exec (.loop a n) s = .next (s.wroteX a 0).retire)) ∧
  (∀ (s : State) (a b : Reg) (off : Int), s.Room 1 →
      let u := s.x b + BitVec.ofInt 64 off
      let link := s.succ.setWidth 64
      exec (.j off) s = .next (s.jump (segTarget s.my.pc off)) ∧
      exec (.jal off) s = .next ((s.wroteX 1 link).jump (segTarget s.my.pc off)) ∧
      (s.m.lead = none → u.getLsbD 0 = false →
        exec (.jalr a b off) s = .next ((s.wroteX a link).jump (s.my.pc.extractLsb' 13 2 ++ u.extractLsb' 0 13 : BitVec 15)) ∧
        (s.landed (u.setWidth 15) = true →
          exec (.jf b off) s = .next (s.jump (u.setWidth 15)) ∧
          exec (.callf a b off) s = .next ((s.wroteX a link).jump (u.setWidth 15)))) ∧
      (s.m.lead = none → (s.x b).getLsbD 0 = false → s.landed ((s.x b).setWidth 15) = true →
        exec (.ret b) s = .next (s.jump ((s.x b).setWidth 15)))) ∧
  (∀ (s : State) (r : CourseRun) (d : Nat) (pc : PC) (ws : List Nat) (taken : Bool) (i : Instr),
      s.FollowerIssues r d pc ws taken i →
      let k := r.member d
      let u := s.asDue k pc ws taken
      let gives := fun (v : State) => ∃ t, s.issueDue r d = some (.next t) ∧ t.m.fate = .retired ∧ t.m.lead = none ∧
        (t.ctx k 0).pc = pc ∧ (t.ctx k 0).run = .running ∧ (t.ctx k 0).regs = (v.ctx k 0).regs
      ∀ (a b : Reg) (off : Int) (n : Nat),
        ((i = .jf b off ∨ i = .ret b ∨ i = .j off ∨ i = .beqz a off ∨ i = .bnez a off ∨ ∃ e ∈ branchTable, i = e.1 a b off) → gives u) ∧
        ((i = .jalr a b off ∨ i = .callf a b off) → gives (u.wroteX a (u.succ.setWidth 64))) ∧
        (i = .jal off → gives (u.wroteX 1 (u.succ.setWidth 64))) ∧
        (i = .loop a n → gives (u.wroteX a (if taken then u.x a - 1 else 0))))

/-- R117, R118: what a transfer that fails its checks raises; nothing else happens. A follower does not check (R95). -/
def Obligations.TransferTraps : Prop :=
  ∀ (s : State) (a b : Reg) (off : Int), s.m.lead = none →
    let u := s.x b + BitVec.ofInt 64 off
    (u.getLsbD 0 = true →
      Traps (.jalr a b off) s 0x03 ((u.extractLsb' 0 15).setWidth 64) ∧
      Traps (.jf b off) s 0x03 ((u.extractLsb' 0 15).setWidth 64) ∧
      Traps (.callf a b off) s 0x03 ((u.extractLsb' 0 15).setWidth 64)) ∧
    (u.getLsbD 0 = false → s.landed (u.setWidth 15) = false →
      Traps (.jf b off) s 0x06 ((u.extractLsb' 0 15).setWidth 64) ∧
      Traps (.callf a b off) s 0x06 ((u.extractLsb' 0 15).setWidth 64)) ∧
    ((s.x b).getLsbD 0 = true → Traps (.ret b) s 0x03 (((s.x b).extractLsb' 0 15).setWidth 64)) ∧
    ((s.x b).getLsbD 0 = false → s.landed ((s.x b).setWidth 15) = false →
      Traps (.ret b) s 0x06 (((s.x b).extractLsb' 0 15).setWidth 64))

/-- R108, R109, R55 to R57: what the CSR instructions read, write and log, by the right of the mode; a write that the mode
lacks is ignored, and its CSR entry is appended all the same (R94). R55, R56, R109: a number absent from the table raises 0x01, with the
first IMX as XVALUE or, where the number needs none, the base word (03 R85; log entries 9 and 81); an access that the table marks "—"
raises 0x02 with the base word, for reads and writes alike.
Completes: `csrr`, `csrw`, `csrs`, `csrc`, `csrx`. -/
def Obligations.CsrInstructions : Prop :=
  (∀ (s : State) (a b : Reg) (n : Fin 512), s.LogRoom 2 →
      let old := s.csrRead s.me s.cc n.val
      (s.csrRight n = some .r →
        let t := s.withLog [⟨.csr s.cc n, old⟩]
        GivesX (.csrr a n) s a old ∧ exec (.csrw n b) s = .next t.retire ∧
        ∀ i ∈ [Instr.csrs a n b, .csrc a n b, .csrx a n b], exec i s = .next (t.wroteX a old).retire) ∧
      (s.csrRight n = some .rw →
        GivesX (.csrr a n) s a old ∧
        (s.tableFits n (s.x b) →
          exec (.csrw n b) s = .next (s.installed n (s.x b)).retire ∧
          exec (.csrx a n b) s = .next ((s.installed n (s.x b)).wroteX a old).retire) ∧
        (s.tableFits n (old ||| s.x b) →
          exec (.csrs a n b) s = .next ((s.installed n (old ||| s.x b)).wroteX a old).retire) ∧
        (s.tableFits n (old &&& ~~~ s.x b) →
          exec (.csrc a n b) s = .next ((s.installed n (old &&& ~~~ s.x b)).wroteX a old).retire))) ∧
  (∀ (s : State) (a b : Reg) (n : Fin 512),
      (s.csrRight n = none →
        Traps (.csrr a n) s 0x01 (s.prefixWord 0) ∧ Traps (.csrw n b) s 0x01 (s.prefixWord 0) ∧
        Traps (.csrs a n b) s 0x01 (s.prefixWord 0) ∧ Traps (.csrc a n b) s 0x01 (s.prefixWord 0) ∧
        Traps (.csrx a n b) s 0x01 (s.prefixWord 0)) ∧
      (s.csrRight n = some .no →
        Traps (.csrr a n) s 0x02 s.baseWord ∧ Traps (.csrw n b) s 0x02 s.baseWord ∧ Traps (.csrs a n b) s 0x02 s.baseWord ∧
        Traps (.csrc a n b) s 0x02 s.baseWord ∧ Traps (.csrx a n b) s 0x02 s.baseWord))

/-- R27, R55, R58, R59, 02 Tables 2.5 and 2.8, 18 R424: what a CSR reads as after a write: the written fields. A value that R27 or R59
turns away leaves its field, or the whole CSR, as it was; read-only fields and CSRs and every other CSR of the context and its core do
not change: SRCT and DSTT of WIN1 to WIN5 among them (02 Table 2.5; that a write which 12 Table 12.4 lists for WIN1 leaves them is log
entry 111), and DSTT of WIN6 reads as 9 where SRCT is f16 and as 8 for every other SRCT, the model's reading (log entry 48); a write to a per-context CSR does not change that of another context. Which rectangles of BRECTn extend past row 63 or
column 63 where a dimension is 0 is log entry 94. -/
def Obligations.CsrReadsBack : Prop :=
  ∀ (s : State) (k : Key) (c : CtxNo) (w : Word),
    (∀ e ∈ csrMasks, (s.csrPut k c e.1.val w).csrRead k c e.1.val = w &&& e.2) ∧
    (∀ n ∈ domainCsrs, (s.csrPut k c n.val w).csrRead k c n.val = w &&& domainMask k) ∧
    (∀ n ∈ readOnlyCsrs, (s.csrPut k c n.val w).csrRead k c n.val = s.csrRead k c n.val) ∧
    (∀ n m : Fin 512, n ≠ m → (s.csrPut k c n.val w).csrRead k c m.val = s.csrRead k c m.val) ∧
    (s.csrPut k c 0x000 w).csrRead k c 0x000 = (s.csrRead k c 0x000 &&& ~~~0x30) ||| (w &&& 0x30) ∧
    (s.csrPut k c 0x00A w).csrRead k c 0x00A =
      (if bits w 2 0 < 6 then w &&& 0xF else (w &&& 8) ||| (s.csrRead k c 0x00A &&& 7)) ∧
    (s.csrPut k c 0x013 w).csrRead k c 0x013 = (if bits w 9 0 ≤ 512 then w &&& 0x3FF else s.csrRead k c 0x013) ∧
    (s.csrPut k c 0x019 w).csrRead k c 0x019 = (if w.getLsbD 31 then 0 else s.csrRead k c 0x019) ∧
    (∀ n : Fin 4, (s.csrPut k c (0x108 + n.val) w).csrRead k c (0x108 + n.val) =
      if bits w 27 22 + bits w 14 8 ≤ 64 ∧ bits w 21 16 + bits w 6 0 ≤ 64 then w &&& 0xFFF7F7F
      else s.csrRead k c (0x108 + n.val)) ∧
    (∀ n : Fin 8, 1 ≤ n.val → let old := s.csrRead k c (0x110 + n.val)
      let new := (s.csrPut k c (0x110 + n.val) w).csrRead k c (0x110 + n.val)
      (n.val ≤ 5 → new = (w &&& 0x800000FFFFFFFFFF) ||| (old &&& 0x7FFFFF0000000000)) ∧
      (n.val = 6 → new = (w &&& 0xF80000FFFFFFFFFF) ||| (old &&& 0x007FFF0000000000) |||
        BitVec.ofNat 64 ((if bits w 62 59 = 9 then 9 else 8) * 2 ^ 55)) ∧
      (n.val = 7 → new = (w &&& 0xFF8000FFFFFFFFFF) ||| (old &&& 0x007FFF0000000000))) ∧
    (s.csrPut k c 0x11C w).csrRead k c 0x11C =
      (if bits w 39 32 * 0x1000 + bits w 47 40 * 0x1000 ≤ 0x100000 then w &&& 0xFFFFFFFFFFFF else s.csrRead k c 0x11C) ∧
    (s.csrPut k c 0x11D w).csrRead k c 0x11D = (w &&& 0xC000FFFFFFFFFF0F) ||| BitVec.ofNat 64 ((s.core k).trace.rate.val * 16) ∧
    (s.csrPut k c 0x11E w).csrRead k c 0x11E =
      (if 1 ≤ bits w 6 0 ∧ bits w 6 0 ≤ 64 then w &&& 0x7F else s.csrRead k c 0x11E) ∧
    (s.csrPut k c 0x11F w).csrRead k c 0x11F = (if bits w 3 0 = 0 then s.csrRead k c 0x11F else w &&& 0xF) ∧
    (∀ (d : CtxNo) (n m : Fin 512), d ≠ c → n.val < 0x100 → m.val < 0x100 →
      (s.csrPut k c n.val w).csrRead k d m.val = s.csrRead k d m.val)

/-- R261: a trap that an instruction raises at issue enters the handler with the PC of the instruction; 0x0D in user mode with
a valid UVEC is an upcall; where the vector is invalid or its segment absent the context halts, which makes it idle. -/
def Obligations.TrapEntry : Prop :=
  ∀ (s : State) (cause : BitVec 8) (v : Word), ¬ (0x20 ≤ cause.toNat ∧ cause.toNat ≤ 0x24) →
    let upcall := cause = 0x0D ∧ s.my.csr.mode = .user ∧ s.my.csr.ubusy = false ∧ s.my.csr.uvec.valid = true
    (s.vectored → ¬ upcall → EntersTrap s (s.raise cause (some v)) cause v s.my.pc) ∧
    (s.slaved s.me s.cc = false → upcall → EntersUpcall s (s.raise cause (some v)) cause v s.my.pc) ∧
    (s.slaved s.me s.cc = false → ¬ upcall → (s.my.csr.xvec.valid = false ∨ s.landed s.my.csr.xvec.pc = false) →
      s.raise cause (some v) = (s.haltCtx s.me s.cc cause v s.my.pc).setFate (.trapped cause))

/-- R261: a cause from 0x20 to 0x24 in a region that is neither sealed nor unrecoverable begins the region's rollback and
enters no handler; outside every region, body and superstep it is a trap like any other. -/
def Obligations.CheckCausesRollBack : Prop :=
  ∀ (s : State) (cause : BitVec 8) (v : Word), 0x20 ≤ cause.toNat → cause.toNat ≤ 0x24 →
    let t := s.raise cause (some v)
    (∀ f r, s.my.aux.frames = f :: r → f.isSealed = false → f.unrec = false →
      t.my = { s.my with run := .rolling (.region cause),
                         aux := { s.my.aux with
                                  windows := [], far := none,
                                  dbg := if s.my.isStopped then { s.my.aux.dbg with want := some 0 } else s.my.aux.dbg } } ∧
      t.sh = s.sh) ∧
    (s.my.aux.frames = [] → s.my.csr.txbody = false → s.my.aux.ss = none → s.vectored →
      EntersTrap s t cause v s.my.pc)

/-- R259: `TRAP`, `SYSC` and `BREAK` retire and raise 0x17, 0x18 and 0x16 with their code as XVALUE and the successor's PC as
XPC; where BRKHALT is set in debug mode `BREAK` stops for the debugger instead (18 R419), unless DGO passes it. R262:
`ERET` returns to XPC with the saved mode, or in user mode with UBUSY to UPC; its traps.
Completes: `eret`, `trap`, `sysc`, `brk`. -/
def Obligations.TrapInstructions : Prop :=
  (∀ (s : State) (c : BitVec 8),
      (s.vectored →
        (∃ t, exec (.trap c) s = .next t ∧ EntersTrap s t 0x17 (c.setWidth 64) s.succ) ∧
        (∃ t, exec (.sysc c) s = .next t ∧ EntersTrap s t 0x18 (c.setWidth 64) s.succ) ∧
        (s.my.aux.dbg.skip = false → (s.myCore.csr.trctl.getLsbD 62 && s.debug s.me) = false →
          ∃ t, exec (.brk c) s = .next t ∧ EntersTrap s t 0x16 (c.setWidth 64) s.succ)) ∧
      (s.my.aux.dbg.skip = false → (s.myCore.csr.trctl.getLsbD 62 && s.debug s.me) = true →
        ∃ t, exec (.brk c) s = .next t ∧ t.my.run = .stopped 0 ∧ t.my.pc = s.my.pc ∧ t.my.regs = s.my.regs ∧
          t.my.csr = s.my.csr) ∧
      (s.my.aux.dbg.skip = true →
        exec (.brk c) s = .next (s.upd fun x => { x with aux := { x.aux with dbg := { x.aux.dbg with skip := false } } }).retire)) ∧
  (∀ s : State,
      (s.my.csr.mode = .supervisor → s.landed s.my.csr.xpc = true →
        ∃ t, exec .eret s = .next t ∧ t.sh = s.sh ∧
          t.my = { s.my with
                   pc := s.my.csr.xpc, csr := { s.my.csr with mode := s.my.csr.pmode },
                   aux := { s.my.aux with windows := [] } }) ∧
      (s.my.csr.mode = .user → s.my.csr.ubusy = true → s.landed s.my.csr.upc = true →
        ∃ t, exec .eret s = .next t ∧ t.sh = s.sh ∧
          t.my = { s.my with
                   pc := s.my.csr.upc, csr := { s.my.csr with ubusy := false },
                   aux := { s.my.aux with windows := [] } }) ∧
      (s.my.csr.mode = .user → s.my.csr.ubusy = false → Traps .eret s 0x02 s.baseWord) ∧
      (s.my.csr.mode = .supervisor → s.landed s.my.csr.xpc = false →
        Traps .eret s 0x06 (s.my.csr.xpc.setWidth 64)) ∧
      (s.my.csr.mode = .user → s.my.csr.ubusy = true → s.landed s.my.csr.upc = false →
        Traps .eret s 0x06 (s.my.csr.upc.setWidth 64)))

/-- R145, R146, R155, R158: a load that passes its checks puts the bytes, extended, in its register: from the own slice,
through a window, from staging SRAM or from a hod's translated far memory. `LDA` waits for earlier remote loads. R52, R53: what the
bytes are: through window 0 those of the slice, through windows 1 to 7 those of the decoded elements of 02 Table 2.6, little-endian,
all of whose source bytes lie in the slice, from far memory those at the translated address. A window that is not enabled, or whose
types are not allowed, raises 0x0E.
Completes: `lda`, `ldb`, `ldbu`, `ldh`, `ldhu`, `ldw`, `ldwu`, `ldd`. -/
def Obligations.ScalarLoads : Prop :=
  (∀ (s : State) (a : Reg) (m : MAddr) (p : Piece), s.Room 1 →
    let ad := s.addr m
    (∀ e ∈ loadTable, s.Readable ad e.2.2 e.2.2 p →
      exec (e.1 a (.addr m)) s = .next (((s.counted p).wroteX a (extended e.2.1 e.2.2 (s.pieceVal p))).retire.loadEnd ad)) ∧
    (s.Readable ad 8 8 p → s.my.remoteSettled = true →
      exec (.lda a m) s = .next (((s.counted p).wroteX a (extended false 8 (s.pieceVal p))).retire.loadEnd ad)) ∧
    (s.my.remoteSettled = false → Stalls (.lda a m) s)) ∧
  (∀ (s : State) (ad : Word) (n : Nat) (p : Piece), 1 ≤ n → s.loadPiece ad n = .ok p →
    (isSlice ad = false → ad.toNat % 0x10000 + n ≤ 0x10000 → ∀ ph, s.farPhys ad false = some ph → s.pieceVal p = s.sh.mem.read ph n) ∧
    (isSlice ad = true → winOf ad = 0 → s.pieceVal p = s.peek s.me (offOf ad) n) ∧
    (∀ src dst, isSlice ad = true → WindowPair (winOf ad) src dst →
      let d := s.myCore.win (winOf ad)
      bits d 62 59 = src.code → bits d 58 55 = dst.code →
      d.getLsbD 63 = true ∧ (∀ r ∈ p.raws, r.1 + r.2 ≤ 0x100000) ∧ s.pieceVal p < 256 ^ n ∧
      ∀ i, i < n → natByte (s.pieceVal p) i =
        natByte (windowCode (winOf ad) src dst d (s.peek s.me) ((offOf ad + i) / (dst.width / 8))) ((offOf ad + i) % (dst.width / 8)))) ∧
  (∀ (s : State) (a : Reg) (m : MAddr),
    let ad := s.addr m
    let d := s.myCore.win (winOf ad)
    isSlice ad = true → winOf ad ≠ 0 →
    (d.getLsbD 63 = false ∨ (winOf ad = 6 ∧ ¬ (8 ≤ bits d 62 59 ∧ bits d 62 59 ≤ 11)) ∨
      (winOf ad = 7 ∧ ¬ ((bits d 62 59 ≤ 13 ∧ bits d 62 59 ≠ 6) ∧ 7 ≤ bits d 58 55 ∧ bits d 58 55 ≤ 9))) →
    ∀ i ∈ s.addrLoads a m, s.checkAccess false ad i.2 i.2 = .ok () → Traps i.1 s 0x0E ad)

/-- R145, R146, R148, R155 to R158: a store that passes its checks writes the low bytes of its register, in a slice with an
undo entry for each word that changes. `STL` waits until nothing earlier is under way.
Completes: `stl`, `zln`, `stb`, `sth`, `stw`, `std`. -/
def Obligations.ScalarStores : Prop :=
  ∀ (s : State) (a : Reg) (m : MAddr), s.LogRoom 8 →
    let ad := s.addr m
    (∀ e ∈ storeTable, s.Writable ad e.2 e.2 →
      exec (e.1 a (.addr m)) s = .next (s.stored [(offOf ad, e.2, (s.x a).toNat % 2 ^ (8 * e.2))]).retire) ∧
    (∀ e ∈ storeTable, ∀ ph, s.FarWritable ad e.2 e.2 ph → isHod s.me = true →
      exec (e.1 a (.addr m)) s =
        .next ((s.putPlaces [(ph, e.2, (s.x a).toNat % 2 ^ (8 * e.2))]).farEnd).retire) ∧
    (s.Writable ad 8 8 → s.released = true →
      exec (.stl a m) s = .next (s.stored [(offOf ad, 8, (s.x a).toNat)]).retire) ∧
    (s.released = false → Stalls (.stl a m) s) ∧
    (s.Writable ad 64 64 → exec (.zln m) s = .next (s.stored [(offOf ad, 64, 0)]).retire)

/-- R145, R146, R155, R156, R158: on a core's own slice through window 0, where no lock, error or trigger is in the way, a store and
a load of the same width at the same address give back the low bytes of the register stored, extended as the load extends; `STL` and
`LDA` likewise. A word in error matters only to a store of less than the word, which leaves it so. -/
def Obligations.StoreThenLoad : Prop :=
  ∀ (s : State) (a d : Reg) (m : MAddr), s.Canonical → s.LogRoom 2 →
    let ad := s.addr m
    let q := Loc.local_ s.me (offOf ad)
    (∀ e ∈ storeTable, ∀ f ∈ loadTable, f.2.2 = e.2 → s.PlainOwn ad e.2 →
      ∃ t u, exec (e.1 a (.addr m)) s = .next t ∧ exec (f.1 d (.addr m)) t = .next u ∧
        (d ≠ 0 → u.x d = extended f.2.1 e.2 (s.x a).toNat) ∧
        ∀ y, y < q ∨ q + e.2 ≤ y → u.sh.mem.get y = s.sh.mem.get y) ∧
    (s.PlainOwn ad 8 → s.released = true →
      ∃ t u, exec (.stl a m) s = .next t ∧ exec (.lda d m) t = .next u ∧ (d ≠ 0 → u.x d = s.x a) ∧
        ∀ y, y < q ∨ q + 8 ≤ y → u.sh.mem.get y = s.sh.mem.get y)

/-- R159, R168: the stream forms pop or push one element of the access's width; at the stream's end its lock and peg follow
(`putStrm`). R173, R174: `LDD` pops the west link, `STD` pushes the east link, and the forwarding form does both with one
word; each waits for a word or for space. The words in the neighbour's buffer and those sent to it count together (log entry 31).
Completes: `ldd`, `lddForward`, `std`, `ldb`, `ldbu`, `ldh`, `ldhu`, `ldw`, `ldwu`, `stb`, `sth`, `stw`. -/
def Obligations.StreamForms : Prop :=
  (∀ (s : State) (a : Reg) (i : Reg8) (t : Stream), s.Room 1 →
      (∀ e ∈ loadTable, ∀ c r, s.Poppable i t c r → t.ety.width = 8 * e.2.2 →
        exec (e.1 a (.strm i)) s =
          .next ((s.putStrm s.me i t { t with cursor := t.cursor + 1, buf := r }).wroteX a
            (extended e.2.1 e.2.2 c.2.1)).retire) ∧
      (∀ e ∈ storeTable, s.Pushable i t → t.ety.width = 8 * e.2 →
        exec (e.1 a (.strm i)) s =
          .next (s.putStrm s.me i t { t with
                                      cursor := t.cursor + 1,
                                      buf := t.buf ++ [(t.cursor, (s.x a).toNat % 2 ^ (8 * e.2), false)] }).retire)) ∧
  (∀ (s : State) (a : Reg) (w : Word) (r : List Word), s.Room 1 →
      let popped := s.updMine fun co => { co with west := r }
      (s.Linked false → s.myCore.west = w :: r → exec (.ldd a (.strm 6)) s = .next (popped.wroteX a w).retire) ∧
      (s.Linked false → s.myCore.west = [] → Stalls (.ldd a (.strm 6)) s) ∧
      (s.Linked true → s.eastHeld < 4 →
        exec (.std a (.strm 7)) s = .next (s.updMine fun co => { co with east := co.east ++ [s.x a] }).retire) ∧
      (s.Linked true → 4 ≤ s.eastHeld → Stalls (.std a (.strm 7)) s) ∧
      (s.Linked false → s.Linked true → s.myCore.west = w :: r → s.eastHeld < 4 →
        exec (.lddForward a) s = .next ((popped.updMine fun co => { co with east := co.east ++ [w] }).wroteX a w).retire))

/-- R49, R50, R145, R146, R158: what the checks of an address raise at a scalar load or store, `ZLN` and, once they can issue,
`LDA` and `STL` included, in their order: the format (0x0E, or 0x0B for a device outside the domain), the locality (0x04), a store through a format window (0x19),
the alignment (0x03) and the bounds of a hod's staging SRAM (0x0E), each with the address but for 0x0B, whose XVALUE no rule gives (log
entry 11). A device field of 0xFF and the device's own number name the same slice; on a hod, core index 0 with window 0 names its staging SRAM (06 R154). -/
def Obligations.AccessTraps : Prop :=
  ∀ (s : State) (a : Reg) (m : MAddr),
    let ad := s.addr m
    (¬ s.FormatOk ad →
      (∀ i ∈ s.addrLoads a m, Traps i.1 s 0x0E ad) ∧ ∀ i ∈ s.addrStores a m, Traps i.1 s 0x0E ad) ∧
    (s.FormatOk ad → s.OutsideDomain ad →
      (∀ i ∈ s.addrLoads a m, TrapsFree i.1 s 0x0B) ∧ ∀ i ∈ s.addrStores a m, TrapsFree i.1 s 0x0B) ∧
    (s.FormatOk ad → ¬ s.OutsideDomain ad →
      (¬ s.LocalTo ad → (∀ i ∈ s.addrLoads a m, Traps i.1 s 0x04 ad) ∧ ∀ i ∈ s.addrStores a m, Traps i.1 s 0x04 ad) ∧
      (s.LocalTo ad →
        (isSlice ad = true → winOf ad ≠ 0 → ∀ i ∈ s.addrStores a m, Traps i.1 s 0x19 ad) ∧
        (∀ i ∈ s.addrLoads a m, ad.toNat % i.2 ≠ 0 → Traps i.1 s 0x03 ad) ∧
        ((isSlice ad = false ∨ winOf ad = 0) → ∀ i ∈ s.addrStores a m, ad.toNat % i.2 ≠ 0 → Traps i.1 s 0x03 ad) ∧
        (isHod s.me = true → isSlice ad = true → 0x40000 ≤ offOf ad →
          (∀ i ∈ s.addrLoads a m, ad.toNat % i.2 = 0 → Traps i.1 s 0x0E ad) ∧
          ∀ i ∈ s.addrStores a m, ad.toNat % i.2 = 0 → Traps i.1 s 0x0E ad)))

/-- R160, R161: `VLD` in address form reads 64 bytes into its active lanes; `VLDB` puts one element in every active lane.
R161, R164: `VST` writes the bytes of its active lanes at their places, `VSTC` writes the active lanes one after another;
with no active lane neither writes anything. R162, R163: the strided and the indexed forms use one address for each active
lane, x[B] + value + lane × x[T], or x[B] + value + index × width with the index from the lanes of v[T].
Completes: `vld`, `vst`, `vldb`, `vlds`, `vsts`, `vgath`, `vscat`, `vstc`. -/
def Obligations.VectorMemory : Prop :=
  (∀ (s : State) (a : Reg) (m : MAddr) (md : Md) (t : ETy) (p : Piece), s.Room 8 →
      let ad := s.addr m
      (s.effType md.ty setAny = .ok t → s.Readable ad 64 (max 1 (t.width / 8)) p →
        LoadsV (.vld a (.addr m) md) s t md.pr a p ad fun i => laneOf (s.pieceVal p) t.width i) ∧
      (s.effType md.ty setW8 = .ok t → s.Readable ad (t.width / 8) (t.width / 8) p →
        LoadsV (.vldb a m md) s t md.pr a p ad fun _ => s.pieceVal p)) ∧
  (∀ (s : State) (a : Reg) (m : MAddr) (md : Md) (t : ETy), s.LogRoom 64 →
      let ad := s.addr m
      let n := t.width / 8
      let on := s.lanesOn t md.pr
      (s.effType md.ty setAny = .ok t → 8 ≤ t.width → s.Writable ad 64 n →
        exec (.vst a (.addr m) md) s =
          .next (s.stored (on.map fun i => (offOf (ad + BitVec.ofNat 64 (i * t.width / 8)), n, lane t (s.v a) i))).retire) ∧
      (s.effType md.ty setAny = .ok t → t.width = 4 → s.Writable ad 64 1 → s.Canonical →
        ∃ u, exec (.vst a (.addr m) md) s = .next u ∧ u.m.fate = .retired ∧ u.my = { s.my with pc := s.succ } ∧
          ∀ i, i < 128 → u.sh.mem.read (Loc.local_ s.me (offOf ad + i / 2)) 1 >>> (4 * (i % 2)) % 16 =
            if i ∈ on then lane t (s.v a) i
            else s.sh.mem.read (Loc.local_ s.me (offOf ad + i / 2)) 1 >>> (4 * (i % 2)) % 16) ∧
      (s.effType md.ty setW8 = .ok t →
        (on ≠ [] → s.Writable ad (on.length * n) n →
          exec (.vstc a m md) s =
            .next (s.stored (on.zipIdx.map fun e => (offOf (ad + BitVec.ofNat 64 (e.2 * n)), n, lane t (s.v a) e.1))).retire) ∧
        (on = [] → ad.toNat % n = 0 → exec (.vstc a m md) s = .next s.retire))) ∧
  (∀ (s : State) (a q : Reg) (m : MAddr) (md : Md) (t : ETy) (ps : List (Word × Piece)), s.LogRoom 64 →
      let n := t.width / 8
      let on := s.lanesOn t md.pr
      let str := fun i : Nat => s.addr m + BitVec.ofNat 64 i * s.x q
      let idx := fun i : Nat => s.addr m + BitVec.ofNat 64 (lane t (s.v q) i * n)
      let cnt := s.countCe s.me (ps.flatMap fun p => p.2.raws)
      let val := fun i : Nat => ((on.zip (ps.map fun p => s.pieceVal p.2)).find? fun e => e.1 = i).elim 0 (·.2)
      (s.effType md.ty setW8 = .ok t →
        (s.LanesReadable on str n ps →
          ∃ v, s.LaneWise t md.pr a val v ∧ exec (.vlds a m q md) s = .next (cnt.wroteV a v).retire) ∧
        (s.LanesWritable on str n →
          exec (.vsts a m q md) s = .next (s.stored (on.map fun i => (offOf (str i), n, lane t (s.v a) i))).retire)) ∧
      (s.effType md.ty setIdx = .ok t →
        (s.LanesReadable on idx n ps →
          ∃ v, s.LaneWise t md.pr a val v ∧ exec (.vgath a m q md) s = .next (cnt.wroteV a v).retire) ∧
        (s.LanesWritable on idx n →
          exec (.vscat a m q md) s = .next (s.stored (on.map fun i => (offOf (idx i), n, lane t (s.v a) i))).retire)))

/-- R159, R168: a vector pop takes as many elements as the type has lanes, a vector push gives as many, of which the active
ones are written; at the stream's end its lock and peg follow. -/
def Obligations.VectorStreamForms : Prop :=
  ∀ (s : State) (a : Reg) (i : Reg8) (md : Md) (t : ETy) (q : Stream), s.Room 8 →
    s.effType md.ty setAny = .ok t → s.strm s.me i = some q → q.ctx = s.cc → s.myCore.linkBy = none →
    s.my.csr.txbody = false → q.cursor + t.lanes ≤ q.total → q.ety.width = t.width →
    (q.write = false → q.err = false → q.cursor + t.lanes ≤ q.fetched → t.lanes ≤ q.buf.length →
      (∀ e ∈ q.buf.take t.lanes, e.2.2 = false) → s.my.trigger 0 = none →
      ∃ v, s.LaneWise t md.pr a (fun j => ((q.buf.map (·.2.1)).getD j 0)) v ∧
        exec (.vld a (.strm i) md) s =
          .next ((s.putStrm s.me i q { q with cursor := q.cursor + t.lanes, buf := q.buf.drop t.lanes }).wroteV a v).retire) ∧
    (q.write = true → s.pushFree i q ((s.lanesOn t md.pr).map (q.cursor + ·)) = true → q.lines q.buf < 4 →
      exec (.vst a (.strm i) md) s =
        .next (s.putStrm s.me i q { q with
                                    cursor := q.cursor + t.lanes,
                                    buf := q.buf ++ (s.lanesOn t md.pr).map fun j =>
                                      (q.cursor + j, lane t (s.v a) j, false) }).retire)

/-- R127: integer lanes are exact, then reduced modulo 2^w; saturating forms clamp; the high half of a product. R127, R129:
selection, the bitwise functions, shifts by b mod w, absolute value and negation.
Completes: `vadd`, `vsub`, `vmul`, `vmin`, `vmax`, `vsel`, `vand`, `vor`, `vxor`, `vshl`, `vshr`, `vabs`, `vneg`, `vfma`,
`vfms`. -/
def Obligations.VectorIntegers : Prop :=
  (∀ (s : State) (o : V3) (t : ETy), s.Room 8 → s.effType o.md.ty setNum = .ok t → t.isInt = true →
      let A := fun i => intOf t (lane t (s.v o.t) i)
      let B := fun i => intOf t (lane t (s.v o.b) i)
      let C := fun i => intOf t (lane t (s.v o.a) i)
      (∀ e ∈ intTable, GivesLanes (e.1 o) s t o.md.pr o.a fun i => (e.2 (A i) (B i) (C i) % 2 ^ t.width).toNat) ∧
      GivesLanes (.vadd o true) s t o.md.pr o.a (fun i => (max (intMin t) (min (intMax t) (A i + B i)) % 2 ^ t.width).toNat) ∧
      GivesLanes (.vsub o true) s t o.md.pr o.a (fun i => (max (intMin t) (min (intMax t) (A i - B i)) % 2 ^ t.width).toNat) ∧
      GivesLanes (.vmul o true) s t o.md.pr o.a (fun i => (A i * B i / 2 ^ t.width % 2 ^ t.width).toNat) ∧
      GivesLanes (.vmin o) s t o.md.pr o.a (fun i => (min (A i) (B i) % 2 ^ t.width).toNat) ∧
      GivesLanes (.vmax o) s t o.md.pr o.a (fun i => (max (A i) (B i) % 2 ^ t.width).toNat)) ∧
  (∀ (s : State) (o : V3) (u : V2) (t : ETy), s.Room 8 →
      (s.effType o.md.ty setAny = .ok t →
        (∃ v, (∀ i, i < t.lanes → lane t v i = if active t (s.p o.md.pr) i then lane t (s.v o.t) i else lane t (s.v o.b) i) ∧
          GivesV (.vsel o) s o.a v) ∧
        GivesLanes (.vand o) s t o.md.pr o.a (fun i => lane t (s.v o.t) i &&& lane t (s.v o.b) i) ∧
        GivesLanes (.vor o) s t o.md.pr o.a (fun i => lane t (s.v o.t) i ||| lane t (s.v o.b) i) ∧
        GivesLanes (.vxor o) s t o.md.pr o.a (fun i => lane t (s.v o.t) i ^^^ lane t (s.v o.b) i)) ∧
      (s.effType o.md.ty ETy.isInt = .ok t →
        GivesLanes (.vshl o) s t o.md.pr o.a
          (fun i => lane t (s.v o.t) i * 2 ^ (lane t (s.v o.b) i % t.width) % 2 ^ t.width) ∧
        GivesLanes (.vshr o) s t o.md.pr o.a
          (fun i => (intOf t (lane t (s.v o.t) i) / 2 ^ (lane t (s.v o.b) i % t.width) % 2 ^ t.width).toNat)) ∧
      (s.effType u.md.ty setNum = .ok t → t.isInt = true →
        GivesLanes (.vabs u false) s t u.md.pr u.a (fun i => (intOf t (lane t (s.v u.b) i)).natAbs % 2 ^ t.width) ∧
        GivesLanes (.vabs u true) s t u.md.pr u.a (fun i => (min (intMax t) (intOf t (lane t (s.v u.b) i)).natAbs).toNat) ∧
        GivesLanes (.vneg u false) s t u.md.pr u.a (fun i => (-intOf t (lane t (s.v u.b) i) % 2 ^ t.width).toNat) ∧
        GivesLanes (.vneg u true) s t u.md.pr u.a
          (fun i => (max (intMin t) (min (intMax t) (-intOf t (lane t (s.v u.b) i))) % 2 ^ t.width).toNat)) ∧
      (s.effType u.md.ty setNum = .ok t → t.isFp = true →
        GivesLanes (.vabs u false) s t u.md.pr u.a (fun i => if isNan (valueOf t (lane t (s.v u.b) i)) then nanOf t
          else lane t (s.v u.b) i % signBit t) ∧
        GivesLanes (.vneg u false) s t u.md.pr u.a (fun i => if isNan (valueOf t (lane t (s.v u.b) i)) then nanOf t
          else lane t (s.v u.b) i ^^^ signBit t)))

/-- R122, R127: floating lanes are computed exactly on the values of the lanes, FTZ taking subnormals as zero, and rounded
once in the mode of VCTL; the half of a product and saturation are illegal (0x01, with the MOD word that holds MB as XVALUE; log
entry 9). R127: `VMIN` and `VMAX` of floating lanes: a NaN in either gives the default NaN, −0 is below +0, and else one of the two
codes is chosen as it stands, a subnormal one too (log entry 46), and RNDCTR does not advance (log entry 100).
Completes: `vadd`, `vsub`, `vmul`, `vmin`, `vmax`, `vscale`, `vfma`, `vfms`. -/
def Obligations.VectorFloats : Prop :=
  (∀ (s : State) (o : V3) (t : ETy), s.Room 8 → s.effType o.md.ty setNum = .ok t → t.isFp = true →
      let A := fun i => s.val t (lane t (s.v o.t) i)
      let B := fun i => s.val t (lane t (s.v o.b) i)
      let C := fun i => s.val t (lane t (s.v o.a) i)
      let m := s.rm none
      (∀ e ∈ floatTable, GivesRounded (e.1 o) s t o.md.pr o.a m t.lanes
        fun i => s.round t m i (e.2 m (A i) (B i) (C i))) ∧
      GivesRounded (.vscale o) s t o.md.pr o.a m t.lanes (fun i => s.round t m i (scaleVal (A i)
        (intOf (if t.width = 32 then .i32 else .i16) (lane t (s.v o.b) i)))) ∧
      Traps (.vadd o true) s 0x01 (s.prefixWord 3) ∧ Traps (.vsub o true) s 0x01 (s.prefixWord 3) ∧
      Traps (.vmul o true) s 0x01 (s.prefixWord 3)) ∧
  (∀ (s : State) (o : V3) (t : ETy), s.Room 8 → s.effType o.md.ty setNum = .ok t → t.isFp = true →
      ∀ (mx : Bool), ∃ f : Nat → Nat, GivesLanes (if mx then .vmax o else .vmin o) s t o.md.pr o.a f ∧
        ∀ i, i < t.lanes →
          let a := lane t (s.v o.t) i
          let b := lane t (s.v o.b) i
          (isNan (valueOf t a) = true ∨ isNan (valueOf t b) = true → f i = nanOf t) ∧
          (isNan (valueOf t a) = false → isNan (valueOf t b) = false →
            (f i = a ∨ f i = b) ∧
            (ltVal true (valueOf t a) (valueOf t b) = true → f i = if mx then b else a) ∧
            (ltVal true (valueOf t b) (valueOf t a) = true → f i = if mx then a else b)))

/-- R130, R39: `VCMP` gives a predicate whose bits over an active lane are the outcome, and 0 elsewhere; a NaN compares as
unequal.
Completes: `vcmp`. -/
def Obligations.VectorCompare : Prop :=
  ∀ (s : State) (a : Reg8) (t b : Reg) (md : Md) (cond : Fin 8) (ty : ETy), s.Room 1 → s.effType md.ty setNum = .ok ty →
    ∃ w : Word, GivesP (.vcmp a t b md cond) s a w ∧ ∀ i, i < 64 →
      let l := i / (ty.width / 8)
      let x := lane ty (s.v t) l
      let y := lane ty (s.v b) l
      w.getLsbD i = (active ty (s.p md.pr) l &&
        if ty.isFp then
          (if isNan (s.val ty x) || isNan (s.val ty y) then cond.val = 1 || cond.val = 6
           else condHolds cond (ltVal false (s.val ty x) (s.val ty y))
             (!ltVal false (s.val ty x) (s.val ty y) && !ltVal false (s.val ty y) (s.val ty x)))
        else condHolds cond (decide (intOf ty x < intOf ty y)) (decide (intOf ty x = intOf ty y)))

/-- R132, 01 R34: `VRED` answers a next state in every state, for every type that it accepts: it retires with the reduction of the
active lanes in lane 0 of v[A] and zeros in the others. An integer sum is the sum of the active lanes modulo 2^w, an integer
minimum or maximum is that of the active lanes, or the identity where none is active; floating lanes are reduced in the tree
of R34, an inactive lane being the identity, and an `add` under SR advances RNDCTR for its L − 1 steps; a floating minimum or maximum
takes subnormal lanes as they stand (log entry 46). Completes: `vred`. -/
def Obligations.VectorReduce : Prop :=
  ∀ (s : State) (o : V2) (op : Fin 3) (t : ETy), s.Room 8 → s.effType o.md.ty setNum = .ok t →
    let on := s.lanesOn t o.md.pr
    let b := fun i => lane t (s.v o.b) i
    (t.isInt = true → ∃ n, exec (.vred o op) s = .next (s.wroteV o.a (BitVec.ofNat 512 n)).retire ∧ n < 2 ^ t.width ∧
      (op = 0 → n = (on.map b).foldl (· + ·) 0 % 2 ^ t.width) ∧
      (op = 1 → (∀ i ∈ on, intOf t n ≤ intOf t (b i)) ∧ (on ≠ [] → ∃ i ∈ on, n = b i) ∧ (on = [] → intOf t n = intMax t)) ∧
      (op = 2 → (∀ i ∈ on, intOf t (b i) ≤ intOf t n) ∧ (on ≠ [] → ∃ i ∈ on, n = b i) ∧ (on = [] → intOf t n = intMin t))) ∧
    (t.isFp = true →
      let m := s.rm none
      let l := (List.range t.lanes).map fun i => if active t (s.p o.md.pr) i then b i else identOf t op
      (op = 0 → exec (.vred o op) s = .next ((s.wroteV o.a (BitVec.ofNat 512
        (tree (fun i x y => s.round t m i (addVal m (s.val t x) (s.val t y))) (Nat.log2 t.lanes) l 0))).advance m
          (t.lanes - 1)).retire) ∧
      (op ≠ 0 → exec (.vred o op) s = .next (s.wroteV o.a (BitVec.ofNat 512
        (tree (fun _ x y => minMax t (op = 2) x y) (Nat.log2 t.lanes) l 0))).retire))

/-- R133, R134: broadcast, permutation, extraction and insertion retire with their result in every state; an index that the type
has no lane for is illegal, at the first IMX that holds a bit of it above the lanes (log entry 97). R143: `VPMOV` retires with its
result: bits whose governing bit is 0 are cleared; the move to x takes no predicate (0x01 at the MOD; log entry 9). Completes: `vbcast`, `vperm`, `vext`, `vins`, `vpmov`. -/
def Obligations.VectorMoves : Prop :=
  (∀ (s : State) (o : V2) (t : ETy), s.Room 8 → s.effType o.md.ty setAny = .ok t →
      ∃ v, exec (.vbcast o) s = .next (s.wroteV o.a v).retire ∧ s.LaneWise t o.md.pr o.a (fun _ => (s.x o.b).toNat) v) ∧
  (∀ (s : State) (q : V3) (t : ETy), s.Room 8 → s.effType q.md.ty setW8 = .ok t →
      ∃ v, exec (.vperm q) s = .next (s.wroteV q.a v).retire ∧
        s.LaneWise t q.md.pr q.a (fun i => lane t (s.v q.t) (lane t (s.v q.b) i % t.lanes)) v) ∧
  (∀ (s : State) (a b : Reg) (ty : Option ETy) (t : ETy) (x : Fin 512), s.Room 8 → s.effType ty setAny = .ok t →
      (x.val < t.lanes →
        exec (.vext a b ty x) s = .next (s.wroteX a
          (if t.isSigned then (BitVec.ofNat t.width (lane t (s.v b) x.val)).signExtend 64
           else BitVec.ofNat 64 (lane t (s.v b) x.val))).retire ∧
        ∃ v, exec (.vins a b ty x) s = .next (s.wroteV a v).retire ∧
          ∀ i, i < t.lanes → lane t v i = if i = x.val then (s.x b).toNat % 2 ^ t.width else lane t (s.v a) i) ∧
      (t.lanes ≤ x.val →
        Traps (.vext a b ty x) s 0x01 (s.immWord (x.val / t.lanes * t.lanes)) ∧
        Traps (.vins a b ty x) s 0x01 (s.immWord (x.val / t.lanes * t.lanes)))) ∧
  (∀ (s : State) (a t b : Reg8) (x : Reg) (pr : Reg8), s.Room 1 →
      let m := s.p pr
      exec (.vpmov (.mov a b) pr) s = .next (s.wroteP a (s.p b &&& m)).retire ∧
      exec (.vpmov (.and a t b) pr) s = .next (s.wroteP a (s.p t &&& s.p b &&& m)).retire ∧
      exec (.vpmov (.or a t b) pr) s = .next (s.wroteP a ((s.p t ||| s.p b) &&& m)).retire ∧
      exec (.vpmov (.xor a t b) pr) s = .next (s.wroteP a ((s.p t ^^^ s.p b) &&& m)).retire ∧
      exec (.vpmov (.andn a t b) pr) s = .next (s.wroteP a (s.p t &&& ~~~s.p b &&& m)).retire ∧
      exec (.vpmov (.not a b) pr) s = .next (s.wroteP a (~~~s.p b &&& m)).retire ∧
      exec (.vpmov (.fromx a x) pr) s = .next (s.wroteP a (s.x x &&& m)).retire ∧
      exec (.vpmov (.tox x b) 0) s = .next (s.wroteX x (s.p b)).retire ∧
      (pr ≠ 0 → Traps (.vpmov (.tox x b) pr) s 0x01 (s.prefixWord 3)))

/-- R135 to R137, R139, R141, R142: each instruction retires with its result in every state, for every type that it accepts. `VCVT`
converts the lanes of the wider type, and copies the lanes of one type but for NaNs; the lanes outside its part stay. `VRND`
rounds to an integral value. `VCLASS` counts the active lanes in the given classes. The mathematical functions work lane by lane, give
Table 5.9 for special operands, 1/x rounded once, 1/√x to half a unit in the last place, and the exact powers and logarithms of
integers and powers of two; that 2^x and log2 x of other operands, computed to 200 binary places, round correctly is log entry 45.
`VDOT` sums the products of groups of lanes into 32-bit lanes. `VBMAX` folds the magnitudes of the active lanes into lane 0, subnormal
ones as they stand (log entry 46). `VCVT` always counts for RNDCTR (log entry 47), `VBMAX` never (log entry 100). A destination type
that does not exist, or q4n, and a part that the types have not are illegal, at the IMX that holds the field (log entry 97).
Completes: `vcvt`, `vrnd`, `vclass`, `vrecip`, `vrsqrt`, `vexp2`, `vlog2`, `vdot`, `vbmax`. -/
def Obligations.VectorConvert : Prop :=
  (∀ (s : State) (o : V2) (dt : Fin 16) (rm : Option Rm) (part : Fin 8) (t d : ETy), s.Room 8 →
      s.effType o.md.ty (fun t => t ≠ .q4n) = .ok t → Sys2Proof.Machine.etyOf dt.val = some d → d ≠ .q4n →
      part.val < max t.width d.width / min t.width d.width →
      let n := widerLanes t d
      let src := fun i => if t.width < d.width then part.val * n + i else i
      let dst := fun i => if d.width < t.width then part.val * n + i else i
      ∃ v, exec (.vcvt o dt rm part) s = .next ((s.wroteV o.a v).advance (s.rm rm) d.lanes).retire ∧
        (∀ i, i < n → lane d v (dst i) =
          if active d (s.p o.md.pr) (dst i) = false then lane d (s.v o.a) (dst i)
          else if t = d then (if isNan (valueOf t (lane t (s.v o.b) i)) then nanOf t else lane t (s.v o.b) i)
          else s.round d (s.rm rm) (dst i) (s.val t (lane t (s.v o.b) (src i))) % 2 ^ d.width) ∧
        ∀ j, j < d.lanes → (∀ i, i < n → dst i ≠ j) → lane d v j = lane d (s.v o.a) j) ∧
  (∀ (s : State) (o : V2) (dt : Fin 16) (rm : Option Rm) (part : Fin 8) (t : ETy),
      s.effType o.md.ty (fun t => t ≠ .q4n) = .ok t →
      ((dt = 13 ∨ dt = 15) → Traps (.vcvt o dt rm part) s 0x01 (s.prefixWord 0)) ∧
      (∀ d, Sys2Proof.Machine.etyOf dt.val = some d → d ≠ .q4n → let r := max t.width d.width / min t.width d.width
        r ≤ part.val → Traps (.vcvt o dt rm part) s 0x01 (s.immWord (part.val / r * r * 256)))) ∧
  (∀ (s : State) (o : V2) (mask : BitVec 9) (t : ETy), s.Room 1 → s.effType o.md.ty (fun t => t ≠ .q4n) = .ok t →
      exec (.vclass o mask) s = .next (s.wroteX o.a (BitVec.ofNat 64 ((s.lanesOn t o.md.pr).filter fun i =>
        mask.getLsbD (classOf t (lane t (s.v o.b) i))).length)).retire) ∧
  (∀ (s : State) (o : V2) (rm : Option Rm) (t : ETy) (f : Fmt), s.Room 8 → s.effType o.md.ty ETy.isFp = .ok t → t.fmt = some f →
      let z := s.my.csr.ftz
      let c := fun i => flush t z (lane t (s.v o.b) i)
      (∃ v, exec (.vrnd o rm) s = .next ((s.wroteV o.a v).advance (s.rm rm) t.lanes).retire ∧
        s.LaneWise t o.md.pr o.a (fun i => integral t f (s.rm rm) (s.rnd (s.rm rm) i) (c i)) v) ∧
      (∃ v, exec (.vrecip o) s = .next (s.wroteV o.a v).retire ∧
        s.LaneWise t o.md.pr o.a (fun i => recipLane t f z (c i)) v) ∧
      (∃ v, exec (.vrsqrt o) s = .next (s.wroteV o.a v).retire ∧
        s.LaneWise t o.md.pr o.a (fun i => rsqrtLane t f z (c i)) v) ∧
      (∃ v, exec (.vexp2 o) s = .next (s.wroteV o.a v).retire ∧
        s.LaneWise t o.md.pr o.a (fun i => exp2Lane t f z (c i)) v) ∧
      (∃ v, exec (.vlog2 o) s = .next (s.wroteV o.a v).retire ∧
        s.LaneWise t o.md.pr o.a (fun i => log2Lane t f z (c i)) v) ∧
      (∀ b, (∀ r, mathSpecial t f (fmtValue f b) = some r →
          recipLane t f z b = r.1 ∧ rsqrtLane t f z b = r.2.1 ∧ exp2Lane t f z b = r.2.2.1 ∧ log2Lane t f z b = r.2.2.2) ∧
        (∀ a n e, fmtValue f b = .fin a n e → n ≠ 0 →
          recipLane t f z b = roundTo t f .rne 0 z a (ratio n e).2 (ratio n e).1 ∧
          (a = true → rsqrtLane t f z b = nanOf t ∧ log2Lane t f z b = nanOf t) ∧
          (a = false → NearRsqrt (fmtValue f b) (fmtValue f (rsqrtLane t f z b))) ∧
          (∀ j, j < 2000 → (ratio n e).1 = j * (ratio n e).2 →
            exp2Lane t f z b = roundTo t f .rne 0 z false (if a then 1 else 2 ^ j) (if a then 2 ^ j else 1)) ∧
          (∀ k : Nat, a = false → n = 2 ^ k → log2Lane t f z b =
            roundTo t f .rne 0 z (decide (e + k < 0)) (e + k).natAbs 1))) ∧
      let ls := lane t (s.v o.a) 0 :: (s.lanesOn t o.md.pr).map (lane t (s.v o.b))
      ∃ v, exec (.vbmax o) s = .next (s.wroteV o.a v).retire ∧
        (∀ i, 0 < i → i < t.lanes → lane t v i = lane t (s.v o.a) i) ∧
        ((∃ c ∈ ls, isNan (valueOf t c) = true) → lane t v 0 = nanOf t) ∧
        ((∀ c ∈ ls, isNan (valueOf t c) = false) →
          (∀ c ∈ ls, c % signBit t ≤ lane t v 0) ∧ ∃ c ∈ ls, lane t v 0 = c % signBit t)) ∧
  (∀ (s : State) (q : V3) (t : ETy), s.Room 8 → s.effType q.md.ty setDot = .ok t →
      let g := 32 / t.width
      let pairs := fun j => (List.range g).map fun k => (lane t (s.v q.t) (g * j + k), lane t (s.v q.b) (g * j + k))
      (t.isInt = true → ∃ v, exec (.vdot q) s = .next (s.wroteV q.a v).retire ∧ s.LaneWise .f32 q.md.pr q.a (fun j =>
        (((pairs j).map fun (e : Nat × Nat) => intOf t e.1 * intOf t e.2).foldl (· + ·) (lane .i32 (s.v q.a) j : Int)
          % 2 ^ 32).toNat) v) ∧
      (t.isInt = false → ∃ v, exec (.vdot q) s = .next ((s.wroteV q.a v).advance (s.rm none) 16).retire ∧
        s.LaneWise .f32 q.md.pr q.a (fun j => s.round .f32 (s.rm none) j
          (dotVal (s.rm none) (s.val .f32 (lane .f32 (s.v q.a) j))
            ((pairs j).map fun (e : Nat × Nat) => (s.val t e.1, s.val t e.2)))) v))

/-- R167, R170 to R173: binding, unbinding, status, skipping, and turning the course links on and off.
Completes: `sbind`, `sunbind`, `sstat`, `sskip`, `slink`. -/
def Obligations.StreamControl : Prop :=
  ∀ (s : State) (a b : Reg) (i : Reg8) (m : MAddr),
    (∀ p t lo hi, s.Bindable i (s.addr m) p t lo hi →
      exec (.sbind i m) s = .next (((s.unregister s.me 0 (.strm i)).register s.me
        ⟨lo, hi, t.write, .strm i, 0, none⟩).countCe s.me p.raws |>.setStrm s.me i (some t)).retire) ∧
    (∀ t, s.Holds i t → (t.write = true → t.buf = []) →
      exec (.sunbind i) s = .next ((s.setStrm s.me i none).unregister s.me 0 (.strm i)).retire) ∧
    (∀ t, s.Holds i t → t.write = true → t.buf ≠ [] → Stalls (.sunbind i) s) ∧
    (s.strm s.me i = none → TrapsFree (.sunbind i) s 0x08 ∧ TrapsFree (.sskip i b) s 0x08) ∧
    (s.my.csr.txbody = false → s.myCore.linkBy = none → s.Room 1 →
      (s.strm s.me i = none → GivesX (.sstat a i) s a 0) ∧
      (∀ t, s.strm s.me i = some t → t.total < 2 ^ 32 → ∃ w, StatusOf t w ∧ GivesX (.sstat a i) s a w)) ∧
    (∀ t, s.Holds i t → (s.x b).toNat ≤ t.total - t.cursor →
      let n := (s.x b).toNat
      exec (.sskip i b) s = .next (s.putStrm s.me i t
        { t with
          cursor := t.cursor + n,
          buf := if t.write then t.buf else t.buf.filter fun e => t.cursor + n ≤ e.1 }).retire) ∧
    (∀ t, s.Holds i t → t.total - t.cursor < (s.x b).toNat → TrapsFree (.sskip i b) s 0x08) ∧
    (s.my.csr.txbody = false → (s.myCore.linkBy = none ∨ s.myCore.linkBy = some s.cc) →
      exec (.slink false) s = .next (s.updMine fun co => { co with linkBy := none }).retire ∧
      (isHod s.me = false → s.strm s.me 6 = none → s.strm s.me 7 = none →
        exec (.slink true) s = .next (s.updMine fun co => { co with linkBy := some s.cc }).retire))

/-- R179: `RECV` removes the oldest entry, `PEEK` leaves it, an empty queue reads as KIND 15; `WAITMSG` retires at once or
waits. R271: in a slaved context `WAITMSG` is illegal.
Completes: `recv`, `peek`, `waitmsg`. -/
def Obligations.ReceiveQueue : Prop :=
  ∀ (s : State) (a : Reg), s.my.csr.txbody = false → s.Room 8 →
    (s.myCore.rq = [] → ∃ e : VWord, e.toNat / 2 ^ 60 % 16 = 15 ∧ GivesV (.recv a) s a e ∧ GivesV (.peek a) s a e) ∧
    (∀ e r, s.myCore.rq = e :: r →
      (e.err = none →
        exec (.recv a) s = .next ((s.updMine fun co => Core.settle { co with rq := r }).wroteV a e.e).retire ∧
        exec (.peek a) s = .next (s.wroteV a e.e).retire) ∧
      (e.err = some false →
        (∃ t, exec (.recv a) s = .next t ∧ t.my.v a = e.e ∧ t.my.pc = s.succ ∧
          t.myCore.rq = settleRq r (48 - placed r .arrival)) ∧
        ∃ t, exec (.peek a) s = .next t ∧ t.my.v a = e.e ∧ t.my.pc = s.succ ∧ t.myCore.rq = { e with err := none } :: r) ∧
      (e.err = some true → TrapsFree (.recv a) s 0x21 ∧ TrapsFree (.peek a) s 0x21)) ∧
    (s.slaved s.me s.cc = false →
      (s.myCore.rq = [] → exec .waitmsg s = .next (s.park .msg)) ∧
      (s.myCore.rq ≠ [] → exec .waitmsg s = .next s.retire)) ∧
    (s.slaved s.me s.cc = true → Traps .waitmsg s 0x01 s.baseWord)

/-- R149, R175, R180 to R186, R193, R276: what the posting instructions request, or defer in a region. A send to another
package is irrevocable (R150): it traps in a region that is not irrevocable. `SENDT` likewise.
Completes: `send`, `sendq`, `sendt`, `fst`, `fstb`, `mcst`, `rdst`, `amoq`. -/
def Obligations.PostedRequests : Prop :=
  ∀ (s : State) (o : R3) (a b t : Reg) (m : MAddr) (mb : Ord),
    let ad := s.addr m
    (∀ q : Bool, s.Target q (s.x o.a) →
      let i := if q then Instr.sendq o mb else .send o mb
      let op := ROp.send q (s.x o.a) (s.x o.t) (s.x o.b) (s.my.csr.mode == .supervisor)
      (s.resolve (devOf (s.x o.a)) = s.device → Posts i s 64 mb op) ∧
      (s.resolve (devOf (s.x o.a)) ≠ s.device →
        (s.my.aux.frames = [] → s.Queues → exec i s = .next (s.requested mb op .trecon).retire) ∧
        (∀ f r, s.my.aux.frames = f :: r → f.irv = false → s.my.csr.txbody = false → TrapsFree i s 0x11))) ∧
    (∀ (slot : Fin 512) (n : Nat), s.Reaches true (s.x b) 64 → s.SlotOpen slot.val n →
      let k := s.owner (s.x b)
      let due := s.pclk s.me + timedLatency s.me (k.dev = s.device) k.key
      (s.my.aux.frames = [] → s.Queues →
        exec (.sendt a b slot) s = .next ((s.countCe s.me [(s.my.csr.slotbase.toNat + 8 * slot.val, 8)]).requested .plain
          (.post (.timed (s.x b) (s.v a) due)) .trecon).retire) ∧
      (∀ f r, s.my.aux.frames = f :: r → f.irv = false → s.my.csr.txbody = false → TrapsFree (.sendt a b slot) s 0x11)) ∧
    (∀ z : Fin 4, s.Reaches true ad (8 / 2 ^ z.val) →
      Posts (.fst a m z mb) s 32 mb (.post (.st ad (8 / 2 ^ z.val) (s.x a)))) ∧
    (∀ hi : Bool, s.Reaches true ad 1 → Posts (.fstb a m hi mb) s 32 mb (.post (.nib ad hi ((s.x a).setWidth 4)))) ∧
    (∀ (md : Md) (ty : ETy) (rows cols : Nat), s.Reaches true ad 64 → s.Rect ad (s.x t) rows cols →
      (s.effType md.ty setAny = .ok ty →
        Posts (.mcst a m t md mb) s 128 mb (.post (.mc ad rows cols ty (s.p md.pr) (s.v a)))) ∧
      (∀ op : Fin 3, s.effType md.ty setNum = .ok ty →
        Posts (.rdst a m t op md mb) s 128 mb (.post (.rd ad rows cols op ty (s.p md.pr) (s.v a))))) ∧
    (∀ (op : Fin 11) (w4 : Bool) (la : Fin 16), s.Reaches true (s.x b) (if w4 then 4 else 8) →
      (op = 9 → t.val ≠ 0 ∧ t.val ≠ 31) → (op = 10 → w4 = true) →
      Posts (.amoq t b op w4 mb la) s 32 mb (.post (.amoq (s.x b) op w4 (s.x t) (s.x (t + 1)))))

/-- R190, R191, R193: remote loads and atomics enter the injection queue and their results become outstanding; an atomic on
the own slice meets its locks, one elsewhere is irrevocable.
Completes: `fld`, `fldv`, `amo`. -/
def Obligations.RemoteResults : Prop :=
  ∀ (s : State) (t b : Reg) (m : MAddr) (acq : Bool) (la : Fin 16), s.Queues →
    let ad := s.addr m
    (∀ z : Fin 4, s.Reaches false ad (8 / 2 ^ z.val) → exec (.fld t m z acq la) s =
      .next (s.awaiting ad (.load ad (8 / 2 ^ z.val)) (.x t) acq false la.val).retire) ∧
    (∀ (md : Md) (ty : ETy), s.effType md.ty setAny = .ok ty → s.Reaches false ad 64 → exec (.fldv t m md acq la) s =
      .next (s.awaiting ad (.loadv ad ty (s.p md.pr)) (.v t) acq false la.val).retire) ∧
    (∀ (op : Fin 11) (w4 : Bool), s.Reaches true (s.x b) (if w4 then 4 else 8) →
      (op = 9 → t.val ≠ 0 ∧ t.val ≠ 31) → (op = 10 → w4 = true) →
      let i := Instr.amo t b op w4 acq la
      let n := if w4 then 4 else 8
      let done := exec i s =
        .next (s.awaiting (s.x b) (.amo (s.x b) op w4 (s.x t) (s.x (t + 1))) (.x t) acq true la.val).retire
      ((s.isOwn (s.x b) && !isHod s.me) = true →
        (s.locksFree true [(offOf (s.x b), n)] = true → done) ∧
        (s.locksFree true [(offOf (s.x b), n)] = false → Traps i s 0x05 (s.x b))) ∧
      ((s.isOwn (s.x b) && !isHod s.me) = false →
        (s.my.aux.frames = [] → done) ∧ (∀ f r, s.my.aux.frames = f :: r → f.irv = false → TrapsFree i s 0x11)))

/-- R195, R196, R203: the copies and `CFETCH` take an injection entry and register their own ranges; in an unsealed region a
copy is deferred and registers nothing, which is the model's reading of R149 against R196 (log entry 30); a malformed descriptor is
illegal, with its address.
Completes: `copy`, `cfetch`, `copysp`, `copyq`. -/
def Obligations.CopyInstructions : Prop :=
  ∀ (s : State) (g : Reg8) (m : MAddr) (mb : Ord) (b : Reg) (la : Fin 16),
    let ad := s.addr m
    (∀ e ∈ copyTable, ∀ p rs, s.Copyable e.2 g ad p rs →
      (s.my.aux.frames = [] → s.Queues → s.rangesUsed s.me + rs.length ≤ 32 →
        exec (e.1 g m mb la) s =
          .next ((((s.requested mb (.copy (s.copyTaken e.2 g ad p)) .trecon).countCe s.me p.raws).ranged
            (.copy s.m.nextId) rs).retire)) ∧
      (∀ f r, s.my.aux.frames = f :: r → f.isSealed = false → s.my.csr.txbody = false →
        (s.my.aux.deferred.map (·.bytes)).foldl (· + ·) 64 ≤ 4096 →
        exec (e.1 g m mb la) s = .next ((s.deferred 64 mb (.copy (s.copyTaken e.2 g ad p))).countCe s.me p.raws).retire)) ∧
    (∀ e ∈ copyTable, ∀ p, isSlice ad = true → s.checkAccess false ad 64 64 = .ok () → s.loadPiece ad 64 = .ok p →
      badCopy e.2 (s.pieceVal p) (copyOf e.2 ad (s.pieceVal p) g) = true → Traps (e.1 g m mb la) s 0x01 ad) ∧
    (∀ (seg : Fin 4) rs, s.Fetchable (s.x b) seg rs → s.Queues → s.rangesUsed s.me + rs.length ≤ 32 →
      exec (.cfetch g b seg la) s =
        .next (((s.requested .plain (.cfetch (s.x b) seg g) .trecon).ranged (.cfetch s.m.nextId) rs).updMine fun co =>
          { co with csr := { co.csr with seg := co.csr.seg.set seg (BitVec.ofNat 7 (1 + 4 * g.val + 32 * s.cc.val)) } }).retire)

/-- R188, R233, R235 to R241: pegs, waits, barriers, fences and domains; what a `FENCE` reports of refused operations; a `BAR` in a
region, in a body and on a hod (Table 8.2). That a mask of 0 is reported at the first IMX is log entry 9; the XVALUE of 0x11 and 0x13 is
free (log entry 11).
Completes: `bar`, `wait`, `waitany`, `pegset`, `pegadd`, `fence`, `fencea`, `domset`. -/
def Obligations.Synchronization : Prop :=
  ∀ (s : State) (g : Reg8) (a b : Reg),
    (∀ imm : Nat, let n := s.x b + BitVec.ofNat 64 imm
      (n.toNat < 2 ^ 31 → exec (.pegset g b imm) s = .next (s.upd fun x => x.putG g (n.setWidth 32)).retire) ∧
      (2 ^ 31 ≤ n.toNat → Traps (.pegset g b imm) s 0x09 (BitVec.ofNat 64 g.val))) ∧
    (∀ imm : Int, let n := (s.my.g g).setWidth 64 + s.x b + BitVec.ofInt 64 imm
      (n.toNat < 2 ^ 31 → exec (.pegadd g b imm) s = .next (s.upd fun x => x.putG g (n.setWidth 32)).retire) ∧
      (2 ^ 31 ≤ n.toNat → Traps (.pegadd g b imm) s 0x09 (BitVec.ofNat 64 g.val))) ∧
    exec (.wait g) s = .next (if s.my.g g = 0 then s.retire else s.park (.peg g)) ∧
    (∀ m : BitVec 8, s.Room 1 →
      (∀ d, s.my.AnyZero m d → exec (.waitany a m) s =
        let i := Fin.ofNat 8 (s.my.aux.startPtr.val + d)
        .next (((s.wroteX a (BitVec.ofNat 64 i.val)).upd fun x => { x with aux := { x.aux with startPtr := i + 1 } }).retire)) ∧
      (m ≠ 0 → (∀ i : Fin 8, m.getLsbD i.val = true → s.my.g i ≠ 0) → exec (.waitany a m) s = .next (s.park (.mask a m))) ∧
      (m = 0 → Traps (.waitany a m) s 0x01 (s.prefixWord 0))) ∧
    (∀ (n : Fin 4) (ss : Bool),
      let frames := s.my.aux.frames
      let arrived := fun t : State =>
        let u := (t.freshId.2.updMine fun co =>
          { co with bars := co.bars.set n (some ⟨t.m.nextId, t.cc, g, ss, t.pclk t.me, t.succ, none⟩) }).retire
        if ss = true ∧ t.my.aux.dbg.want = some 1 then u.upd fun x => { x with run := .parked .release t.succ } else u
      let ill := isHod s.me = true ∨ (s.myCore.csr.dm[n]).getLsbD 63 = false ∨ inRect (s.myCore.rect n) s.me.val = false
      (ill → Traps (.bar n g ss) s 0x01 s.baseWord) ∧
      (¬ ill → s.my.csr.txbody = true → TrapsFree (.bar n g ss) s 0x13) ∧
      (¬ ill → s.my.csr.txbody = false → ∀ f r, frames = f :: r → f.irv = false → TrapsFree (.bar n g ss) s 0x11) ∧
      (¬ ill → s.my.csr.txbody = false → frames = [] → s.my.aux.deferred = [] →
        s.myCore.bars[n] ≠ none → Stalls (.bar n g ss) s) ∧
      (s.Arrives n ss → (frames = [] ∨ ∃ f r, frames = f :: r ∧ f.irv = true ∧ f.isSealed = true) →
        exec (.bar n g ss) s = .next (arrived s)) ∧
      (s.Arrives n ss → ∀ f r, frames = f :: r → f.irv = true → f.isSealed = false → s.LogRoom 1 →
        exec (.bar n g ss) s = .next (arrived ((s.marked 5).upd fun x => { x with aux := { x.aux with
          frames := x.aux.frames.map fun f => { f with isSealed := true },
          deferred := x.aux.deferred.map fun d => { d with depth := 0 } } })))) ∧
    (∀ (sc : Scope) (all : Bool),
      let i := if all then Instr.fencea sc else .fence sc
      let done := s.fenceDone s.me s.cc sc && (!all || s.enginesDone s.me s.cc sc)
      (done = false → exec i s = .next (s.park (if all then .fencea sc else .fence sc))) ∧
      (done = true → s.my.aux.refPc = none → exec i s = .next s.retire) ∧
      (∀ pc, done = true → s.my.aux.refPc = some pc → ∃ v : Word,
        bits v 63 32 = s.my.aux.refMask.toNat ∧ bits v 31 16 = Min.min s.my.aux.refCount 65535 ∧ bits v 15 0 = pc.toNat ∧
        exec i s = .next ((s.upd fun x => { x with aux := { x.aux with refMask := 0, refCount := 0, refPc := none } }).raise 0x0B
          (some v)))) ∧
    (∀ n : Fin 4,
      (s.my.csr.mode = .user → Traps (.domset n b) s 0x02 s.baseWord) ∧
      (s.my.csr.mode = .supervisor → s.myCore.bars[n] ≠ none → Stalls (.domset n b) s) ∧
      (s.my.csr.mode = .supervisor → s.myCore.bars[n] = none → s.LogRoom 2 →
        exec (.domset n b) s = .next (((s.wroteCsr (Fin.ofNat 512 (0x104 + n.val)) (s.x b)).wroteCsr
          (Fin.ofNat 512 (0x108 + n.val)) (s.x (Fin.ofNat 32 (b.val + 1)))).retire)))

/-- R242 to R248: submission, declaration, reading a version, the end of a body. R271: in a slaved context `TSUB` and `TEND` are illegal.
Completes: `tsub`, `tdecl`, `trecon`, `tend`. -/
def Obligations.TransactionInstructions : Prop :=
  ∀ (s : State) (a b : Reg),
    (s.slaved s.me s.cc = true → Traps (.tsub b) s 0x01 s.baseWord ∧ Traps .tend s 0x01 s.baseWord) ∧
    (∀ p t, s.slaved s.me s.cc = false → s.Descriptor (s.x b) 448 → s.Queues → s.my.aux.recon ≠ some true → s.my.aux.frames = [] →
      s.loadPiece (s.x b) 448 = .ok p → s.checkReads [(s.x b, p)] = .ok () → s.captureTxn (s.partNo s.me) (s.x b) = .ok t →
      exec (.tsub b) s = .next ((((s.countCe s.me p.raws).requested .plain (.tsub t s.restartOf) .trecon).upd fun x =>
        { x with aux := { x.aux with recon := x.aux.recon.map fun _ => true } }).retire)) ∧
    (∀ write : Bool, s.Descriptor (s.x a) 448 → s.checkTile (s.partNo s.me) (s.x b) = .ok () → s.my.csr.txbody = false →
      (∀ w ∈ s.descWords (s.x a), s.badRaw [w] = none) →
      let h := s.own64 (offOf (s.x a))
      let full := if write then 8 ≤ hdrWrites h else 16 ≤ hdrReads h
      let there := (s.inReads (s.x a) (s.x b)).isSome ∨ (s.inWrites (s.x a) (s.x b)).isSome
      (¬ full → ¬ there → s.LogRoom 3 →
        (∀ p ∈ s.declared (s.x a) (s.x b) write, s.locksFree true [(p.1, p.2.1)] = true) →
        exec (.tdecl a b write) s =
          .next ((s.countCe s.me (s.descWords (s.x a))).stored (s.declared (s.x a) (s.x b) write)).retire) ∧
      ((full ∨ there) → TrapsFree (.tdecl a b write) s 0x14)) ∧
    (s.Descriptor (s.x a) 448 → s.checkTile (s.partNo s.me) (s.x b) = .ok () → s.Queues →
      let own := !isSlice (s.x b) || decide (s.resolve (devOf (s.x b)) = s.device)
      exec (.trecon a b) s = .next (((s.requested .plain (.trecon (s.x a) (s.x b)) .trecon).expect s.m.nextId .trecon 0 own
        false false []).park .trecon)) ∧
    (s.slaved s.me s.cc = false → s.my.csr.txbody = false → TrapsFree .tend s 0x13) ∧
    (s.slaved s.me s.cc = false → s.my.csr.txbody = true → s.my.depth ≠ 0 → TrapsFree .tend s 0x10) ∧
    (∀ t, s.slaved s.me s.cc = false → s.my.csr.txbody = true → s.my.depth = 0 → s.my.settled = true → s.my.aux.refPc = none →
      (s.myCore.attempts.find? fun q => q.stage == .body s.cc) = some t →
      exec .tend s = .next (((s.commit s.me s.cc t).upd fun x => { x with
        run := .parked .commit s.succ, aux := { x.aux with body := none, windows := [] } }).setFate .retired))

/-- R249, R250, R252 to R255, R257, R258: recovery regions, labels, window marks, checkpoint tables, fault injection. R271: `RBEG` in a
slaved context raises 0x10. R250: the pool is tested before the streams; what a save of tiles counts is the model's choice (log entry 142).
Completes: `rbeg`, `rprs`, `rend`, `rxit`, `lpush`, `lpop`, `uwmark`, `chkpt`, `faultinj`. -/
def Obligations.RegionsAndDebug : Prop :=
  ∀ (s : State) (a b : Reg),
    (∀ (off : Int) (irv : Bool), off ≠ 0 → s.slaved s.me s.cc = false → s.LogRoom 1 →
      (s.my.depth < 8 → exec (.rbeg off irv) s = .next (((s.marked 0).flyClear s.me s.cc (Fin.ofNat 10 s.my.depth)).upd fun x => { x with
        csr := { x.csr with rgretry := 0 }, aux := { x.aux with frames := s.opened off irv :: x.aux.frames } }).retire) ∧
      (8 ≤ s.my.depth → TrapsFree (.rbeg off irv) s 0x10)) ∧
    (∀ (off : Int) (irv : Bool), off ≠ 0 → s.slaved s.me s.cc = true → TrapsFree (.rbeg off irv) s 0x10) ∧
    (s.my.aux.frames = [] → TrapsFree .rend s 0x10 ∧ TrapsFree .rxit s 0x10 ∧ ∀ kind, TrapsFree (.rprs kind b) s 0x10) ∧
    (∀ f r, s.my.aux.frames = f :: r →
      (∀ kind : Fin 4,
        let need := s.myCore.poolUsed - f.space + (s.saveItems kind (s.x b) f).space
        (65536 < need → TrapsFree (.rprs kind b) s 0x10) ∧
        (need ≤ 65536 → kind = 2 → s.strmForeign (s.x b) = true → TrapsFree (.rprs kind b) s 0x08) ∧
        (need ≤ 65536 → (kind = 2 → s.strmForeign (s.x b) = false) →
          (kind = 1 → (s.myCore.kq.any fun d => d.kind.writes && (s.x b).getLsbD d.t.val) = true → Stalls (.rprs kind b) s) ∧
          ((kind = 1 → (s.myCore.kq.any fun d => d.kind.writes && (s.x b).getLsbD d.t.val) = false) →
            exec (.rprs kind b) s = .next ((if kind = 1 then s.countTiles (s.x b) else s).upd fun x => { x with aux := { x.aux with
              frames := s.saveItems kind (s.x b) f :: r } }).retire))) ∧
      (s.my.settled = true → (s.myCore.kq.any fun d => decide (d.ctx = s.cc ∧ f.since ≤ d.id)) = false →
        s.my.aux.refPc = none → s.LogRoom 1 → ∃ t, exec .rend s = .next t ∧ t.my.aux.frames = r ∧ t.my.pc = s.succ ∧
          t.my.regs = s.my.regs ∧ t.my.aux.deferred = s.my.aux.deferred.map (fun e => { e with depth := min e.depth r.length }) ∧
          t.myCore.log = ⟨.marker s.cc 1 (s.myCore.wnum + 1), 0⟩ :: s.myCore.log ∧ t.sh.mem = s.sh.mem) ∧
      (r = [] → s.my.csr.txbody = false → s.my.aux.ss = none → s.vectored → s.my.csr.rgcause.setWidth 8 ≠ (0x0D : BitVec 8) →
        ∃ t, exec .rxit s = .next t ∧
        t.my.aux.frames = [] ∧ t.my.regs = s.my.regs ∧ t.my.csr.mode = .supervisor ∧ t.my.csr.xpc = s.succ ∧
        t.my.pc = s.my.csr.xvec.pc ∧ t.sh.mem = s.sh.mem ∧
        t.my.csr.xcause = if s.my.csr.rgcause = 0 then 0x17 else s.my.csr.rgcause.setWidth 8)) ∧
    (∀ imm : Nat, exec (.lpush b imm) s = .next ((s.upd fun x => { x with aux := { x.aux with
      labels := (BitVec.ofNat 16 ((s.x b).toNat + imm) :: x.aux.labels).take 16 } }).trace s.me s.cc 7 s.my.pc 0 1).retire) ∧
    (s.my.aux.labels = [] → exec .lpop s = .next s.retire) ∧
    (∀ l r, s.my.aux.labels = l :: r → exec .lpop s =
      .next ((s.upd fun x => { x with aux := { x.aux with labels := r } }).trace s.me s.cc 7 s.my.pc 0 0).retire) ∧
    (s.LogRoom 2 → exec (.uwmark a) s = .next ((s.marked 2).wroteX a (BitVec.ofNat 64 (s.myCore.wnum + 1).toNat)).retire) ∧
    (s.LogRoom 1 → s.x b = 0 → exec (.chkpt b) s = .next (s.wroteCsr 0x018 0).retire) ∧
    (∀ w : Word, s.LogRoom 1 → s.x b ≠ 0 → s.Descriptor (s.x b) 64 → w.toNat = 2 ^ 63 + offOf (s.x b) → s.tableFits 0x018 w →
      exec (.chkpt b) s = .next (s.installed 0x018 w).retire) ∧
    (∀ kind : Fin 4,
      (s.my.csr.mode = .user → Traps (.faultinj kind b) s 0x02 s.baseWord) ∧
      (s.my.csr.mode = .supervisor → (kind = 0 → s.FormatOk (s.x b) ∧ ¬ s.OutsideDomain (s.x b) ∧ s.isOwn (s.x b) = true ∧
        (s.x b).toNat % 8 = 0) →
        exec (.faultinj kind b) s = .next (s.upd fun x => { x with aux := { x.aux with
          triggers := x.aux.triggers.filter (fun t => t.1 ≠ kind) ++ [(kind, s.x b)] } }).retire))

/-- R204, R208 to R211, R215 to R220, R224, R225: the commands of major 29 in the kiln queue.
Completes: `kmma`, `kmmac`, `kspmma`, `klda`, `ksta`, `kzero`, `kcfg`, `kres`. -/
def Obligations.KilnCommands : Prop :=
  ∀ (s : State) (o : KOp),
    let c := s.myCore.kcfgIssue
    let sh := shapeOf o.shape.val
    (∀ z : Bool, o.shape.val ≤ 23 → pairOk c.atype.toNat c.btype.toNat c.ascl c.bscl false = true →
      s.Fires false 64 (s.mulArgs o false) →
      Enqueues (.kmma o z) s fun d => d.Of o (.mma z) (fullK c.atype.toNat / sh.2.2)
        (occupancy sh.1 sh.2.1 (fullK c.atype.toNat / sh.2.2) (fullK c.atype.toNat))) ∧
    (∀ z : Bool, 24 ≤ o.shape.val → o.shape.val ≤ 27 → sparseTy c.atype = true → sparseTy c.btype = true →
      pairOk c.atype.toNat c.btype.toNat c.ascl c.bscl true = true → s.Fires false 64 (s.mulArgs o true) →
      Enqueues (.kspmma o z) s fun d => d.Of o (.spmma z) (fullK c.atype.toNat / sh.2.2)
        (occupancy sh.1 sh.2.1 (fullK c.atype.toNat / sh.2.2 / 2) (fullK c.atype.toNat))) ∧
    (∀ src : Fin 4, o.shape.val ≤ 23 → let k := fullK c.dtype.toNat / sh.2.2
      ((c.dtype = 8 ∧ (c.btype = 8 ∨ c.btype = 13) ∧ c.bscl = false) ∨
        ((c.dtype = 10 ∨ c.dtype = 11) ∧ (c.btype = 10 ∨ c.btype = 11))) →
      src.val + k / 64 ≤ 4 →
      s.Fires false 64 ([dataArg (s.x o.b) sh.2.1 k c.bstr c.btype.toNat] ++
        if c.bscl then [auxArg (s.xAt o.b 1) sh.2.1 (k / 32) c.bsstr] else []) →
      Enqueues (.kmmac o src) s fun d => d.Of o (.mmac src) k (occupancy sh.1 sh.2.1 k (fullK c.dtype.toNat))) ∧
    (∀ (ty : Option ETy) (f32 : Bool), o.shape.val ≤ 8 →
      ty ∈ (if f32 then [none, some ETy.f32] else [some ETy.bf16]) → let w := if f32 then 4 else 2
      let g := fun store : Bool =>
        (⟨⟨s.x o.b, sh.1, sh.2.1 * w, (s.xAt o.b 1).toNat, 0⟩, some (if f32 then 7 else 8), store⟩ : KArg)
      (s.Fires true (Min.min 64 (sh.2.1 * w)) [g false] →
        Enqueues (.klda o ty) s fun d => d.Of o (.lda f32) 0 (Max.max 4 (sh.1 * sh.2.1 / 64))) ∧
      (s.Fires false (Min.min 64 (sh.2.1 * w)) [g true] →
        Enqueues (.ksta o ty) s fun d => d.Of o (.sta f32) 0 (Max.max 4 (sh.1 * sh.2.1 / 64)))) ∧
    (o.shape.val ≤ 8 → s.Fires false 64 [] → Enqueues (.kzero o) s fun d => d.Of o .zero 0 4) ∧
    (∀ (b : Reg) (la : Fin 16) (g : KCfg), s.Fires false 64 [] → kcfgOf (s.x b) (s.xAt b 1) (s.xAt b 2) = some g →
      Enqueues (.kcfg b la) s fun d => d.kind = .cfg g ∧ d.occ = 1) ∧
    (∀ (b : Reg) (la : Fin 16), s.my.csr.txbody = false → isHod s.me = false →
      kcfgOf (s.x b) (s.xAt b 1) (s.xAt b 2) = none → TrapsFree (.kcfg b la) s 0x15) ∧
    (∀ (t : Reg) (clr : Bool) (la : Fin 16), s.Fires false 64 [] →
      Enqueues (.kres t clr la) s fun d => d.kind = .res (.reg (.x t)) clr ∧ d.peg = none ∧ d.occ = 1)

/-- R175 to R182: messages arrive, start a context or are queued, spilled or refused; answers free injection entries; entries
that the device holds are offered again; the answer to a record that left for another package reaches its port. The model's choices: that
an entry for a core outside the partition is dropped (log entry 107), that a handle word in error bounces its message with cause 0x21 (101),
and that bit 0 of the PC in a handle entry counts as 0 (121).
Completes: `messageArrival`, `returnArrival`, `heldEntryRetry`, `sendAcceptance`. -/
def Obligations.MessageEvents : Prop :=
  ∀ (s : State) (i : Nat) (k : Key),
    let u := s.unpost i
    (∀ r dst j w a1 a2 sup, s.Due i r dst j k → r.op = .send false w a1 a2 sup →
      (s.denied r.part dst = true → Happens (.messageArrival i) s (u.returned r dst 3 0x0B)) ∧
      (s.denied r.part dst = false → s.turnedAway r = true → Happens (.messageArrival i) s (u.returned r dst 4 0)) ∧
      (s.denied r.part dst = false → s.turnedAway r = false →
        (∀ t, u.arrive k (r.entryFrom 0 (bits w 14 0) a1 a2 w) sup = some t → Happens (.messageArrival i) s (t.accepted r)) ∧
        (u.arrive k (r.entryFrom 0 (bits w 14 0) a1 a2 w) sup = none →
          Happens (.messageArrival i) s (u.returned r dst 4 0)))) ∧
    (∀ r dst j w a1 a2 sup, s.Due i r dst j k → r.op = .send true w a1 a2 sup →
      (s.denied r.part dst = true → Happens (.messageArrival i) s (u.returned r dst 3 0x0B)) ∧
      (s.denied r.part dst = false → s.turnedAway r = true → Happens (.messageArrival i) s (u.returned r dst 4 0))) ∧
    (∀ r dst j w a1 a2 sup, s.Due i r dst j k → r.op = .send true w a1 a2 sup → s.denied r.part dst = false →
      s.turnedAway r = false →
      (∀ c, u.handle k w = .error c → Happens (.messageArrival i) s (u.returned r dst 3 c.toNat)) ∧
      (∀ h, u.handle k w = .ok h →
        let v := u.countCe k [((u.core k).handleAt w, 8)]
        let e := r.entryFrom 1 (bits h 46 32 / 2 * 2) a1 a2 w
        (h.getLsbD 62 = false →
          (∀ t, v.arrive k e sup = some t → Happens (.messageArrival i) s (t.accepted r)) ∧
          (v.arrive k e sup = none → Happens (.messageArrival i) s (v.returned r dst 4 0))) ∧
        (h.getLsbD 62 = true →
          (placed (s.core k).rq .spill < (s.core k).spillMax → ∃ t, exec (.messageArrival i) s = .next t ∧
            (t.core k).rq = settleRq ((s.core k).rq ++ [⟨r.entryFrom 1 0 a1 a2 w, sup, .spill, none⟩])
              (48 - placed ((s.core k).rq ++ [⟨r.entryFrom 1 0 a1 a2 w, sup, .spill, none⟩]) .arrival)) ∧
          ((s.core k).spillMax ≤ placed (s.core k).rq .spill → Happens (.messageArrival i) s (v.returned r dst 4 0))))) ∧
    (∀ e sup c, dispatchable e = true → (s.core k).msgCtx = some c →
      s.arrive k e sup = some (s.startEntry k c ⟨e, sup, .arrival, none⟩)) ∧
    ((s.core k).txnWaiting = 0 → (s.core k).msgCtx = (s.core k).idleCtx) ∧
    (∀ e sup, (dispatchable e = false ∨ (s.core k).msgCtx = none) →
      let q := (s.core k).rq
      let put := fun p => s.setCore k { s.core k with rq := q ++ [⟨e, sup, p, none⟩] }
      (placed q .arrival < 48 → placed q .spill = 0 → s.arrive k e sup = some (put .arrival)) ∧
      ((48 ≤ placed q .arrival ∨ placed q .spill ≠ 0) → placed q .spill < (s.core k).spillMax →
        s.arrive k e sup = some ((put .spill).spilled k)) ∧
      ((48 ≤ placed q .arrival ∨ placed q .spill ≠ 0) → (s.core k).spillMax ≤ placed q .spill →
        s.arrive k e sup = none)) ∧
    (∀ dst e sup n, s.Carries i (.ent dst e sup n) → dst.local_ s = some k →
      Happens (.messageArrival i) s (if s.inSpan n dst then u.offer k e sup else u)) ∧
    (∀ p id, (s.Carries i (.host p id none) → Happens (.returnArrival i) s (u.hostDone p id)) ∧
      ∀ q, s.Carries i (.host p id (some q)) → Happens (.returnArrival i) s ((u.hostDone p id).notice p q)) ∧
    (∀ id e, s.Carries i (.ret k id e) → s.liveCore k = true →
      Happens (.returnArrival i) s ((u.freeEntry k id).arriveRet k e)) ∧
    (∀ id, s.Carries i (.accept k id) → s.liveCore k = true → Happens (.sendAcceptance i) s (u.freeEntry k id)) ∧
    (∀ e sup t n, s.sh.held[i]? = some ⟨.entry k e sup, t, n⟩ → t ≤ s.now → s.liveCore k = true →
      (∀ v, (s.unheld i).arrive k e sup = some v → Happens (.heldEntryRetry i) s v) ∧
      ((s.unheld i).arrive k e sup = none → Happens (.heldEntryRetry i) s
        { s with sh := { s.sh with held := s.sh.held.eraseIdx i ++ [⟨.entry k e sup, s.now + 1000, n⟩] } })) ∧
    (∀ p e t n, s.sh.held[i]? = some ⟨.notice p e, t, n⟩ → t ≤ s.now → ((s.sh.held.take i).any fun g => g.isNotice p) = false →
      s.ports[p].notices.length < 256 → Happens (.heldEntryRetry i) s ((s.unheld i).pushNotice p e))

/-- R149, R175, R184 to R188: requests leave the injection queue, released operations enter it, owners perform or refuse
posted operations, and acknowledgements return. R154, R190 to R194, R401: owners answer remote loads and atomics; a reply
that matches settles its result, any other is discarded and counted; an unanswered request times out. That the masks of several
refused operations are joined is log entry 43; that a deferred copy registers its ranges when it is released is log entry 30.
Completes: `injectionDepart`, `deferredRelease`, `postedOpPerform`, `ackReturn`, `remoteLoadPerform`, `atomicServe`,
`replyArrival`, `replyTimeout`, `atomicRequestArrival`, `farAccessComplete`. -/
def Obligations.PostedEvents : Prop :=
  (∀ (s : State) (i : Nat) (k : Key) (c : CtxNo),
      (∀ r, (s.core k).injq[i]? = some r → r.left = false → (s.part (s.partNo k)).live = true → s.mayLeave k r = true →
        (r.op.isPost = false → ∃ t, exec (.injectionDepart k i) s = .next t ∧
          t.sh.fabric = s.sh.fabric ++ [.req r ((s.owners r.op).headD ⟨s.device, k.val⟩) 0] ∧
          (t.core k).injq = if r.op.holds then lmod (s.core k).injq i (fun q => { q with left := true })
            else (s.core k).injq.eraseIdx i) ∧
        (∀ p, r.op.isPost = true → s.pathFor k r = some p → ∃ t, exec (.injectionDepart k i) s = .next t ∧
          t.sh.fabric = s.sh.fabric ++ (s.owners r.op).zipIdx.map (fun e => .req r e.1 e.2) ∧
          (t.ctx k r.ctx).aux.posted = (s.ctx k r.ctx).aux.posted ++
            [{ id := r.id, path := p, plane := s.postPlane r p, lines := s.linesOf r.op, missing := (s.owners r.op).length, denied := 0,
               ordered := decide (r.ord = .o), pc := r.pc }])) ∧
      (∀ d rest, (s.ctx k c).aux.deferred = d :: rest → d.depth = 0 → (s.core k).injq.length < 16 → s.liveCore k = true →
        ((∀ x, d.req.op ≠ .copy x) → ∃ t, exec (.deferredRelease k c) s = .next t ∧ (t.ctx k c).aux.deferred = rest ∧
          (t.core k).injq = (s.core k).injq ++ [{ d.req with id := s.m.nextId }] ∧ t.sh = s.sh) ∧
        (∀ x, d.req.op = .copy x →
          let r := { d.req with id := s.m.nextId }
          let u := s.freshId.2.updCtx k c fun x => { x with aux := { x.aux with deferred := rest } }
          let v := u.as_ k c
          let bad := fun e : End => v.endHere e && (v.endRange k e (v.myCore.win (winOf e.a))).isNone
          (∀ e, x.ends.find? bad = some e → Happens (.deferredRelease k c) s (u.winFault r e)) ∧
          (x.ends.find? bad = none →
            (∀ q, v.ownRanges x.ends = .error q →
              Happens (.deferredRelease k c) s ((u.abandon r).refuse k c r.pc)) ∧
            (∀ rs, v.ownRanges x.ends = .ok rs → u.rangesUsed k + rs.length ≤ 32 →
              Happens (.deferredRelease k c) s
                (rs.foldl (fun t q => t.register k ⟨q.1, q.2.1, q.2.2, .copy r.id, k.val, none⟩)
                  (u.updCore k fun co => { co with injq := co.injq ++
                    [{ r with op := .copy { x with win := v.ownWin x.src, mwin := v.ownWin x.fmeta } }] })))))) ∧
      (∀ r dst j p, s.Due i r dst j k → r.op = .post p → (∀ a o w x y, p ≠ .amoq a o w x y) → s.pathTurn i r dst = true →
        s.engineTurn r dst = true →
        p.ready ((s.part r.part).clock s.cycle) = true → r.host = none →
        let u := s.unpost i
        let ps := s.postPieces k p
        (s.refusal r dst k p ps = none → Happens (.postedOpPerform i) s ((u.putFor k r p.reads ps).ackPost r j none)) ∧
        (∀ q, s.refusal r dst k p ps = some q → Happens (.postedOpPerform i) s (u.ackPost r j (some q)))) ∧
      (∀ id j refused pc, s.Carries i (.ack k c id j refused false pc) → s.liveCore k = true → (s.ctx k c).run ≠ .idle →
        Happens (.ackReturn i) s ((s.unpost i).updCtx k c fun x => x.acked id j refused)) ∧
      (∀ (x : Ctx) p id j, (x.aux.posted.find? fun q => decide (q.id = id)) = some p →
        (∀ b, (x.acked id j b).aux.posted = if p.missing ≤ 1 then x.aux.posted.filter (fun q => q.id ≠ id)
          else x.aux.posted.map fun q => if q.id = id then { p with
            missing := p.missing - 1, denied := if b then p.denied ||| BitVec.ofNat 32 (1 <<< j) else p.denied } else q) ∧
        ((x.acked id j false).aux.refPc = x.aux.refPc ∧ (x.acked id j false).aux.refCount = x.aux.refCount ∧
          (x.acked id j false).aux.refMask = x.aux.refMask) ∧
        ((x.acked id j true).aux.refPc = some (x.aux.refPc.getD p.pc) ∧
          (x.acked id j true).aux.refMask = x.aux.refMask ||| BitVec.ofNat 32 (1 <<< j) ∧
          (p.denied = 0 → (x.acked id j true).aux.refCount = x.aux.refCount + 1)))) ∧
  (∀ (s : State) (i : Nat) (k : Key) (c : CtxNo),
      let u := s.unpost i
      (∀ r dst j a n, s.Due i r dst j k → (r.op = .load a n ∨ (n = 64 ∧ ∃ t m, r.op = .loadv a t m)) → r.host = none →
        (s.shut r dst = true → Happens (.remoteLoadPerform i) s (u.answer r 0 false (some 0x0B))) ∧
        (s.shut r dst = false →
          (s.readVia k (winOf a) ((s.core k).win (winOf a)) (offOf a) n = none →
            Happens (.remoteLoadPerform i) s (u.answer r 0 false (some 0x0E))) ∧
          (∀ v rs, s.readVia k (winOf a) ((s.core k).win (winOf a)) (offOf a) n = some (v, rs) →
            ((rs.any fun q => (s.lockHit k none none q.1 (q.1 + q.2)).1) = true →
              Happens (.remoteLoadPerform i) s (u.answer r 0 false (some 0x05))) ∧
            ((rs.any fun q => (s.lockHit k none none q.1 (q.1 + q.2)).1) = false →
              Happens (.remoteLoadPerform i) s ((u.countCe k rs).answer r (BitVec.ofNat 512 v)
                (rs.any fun q => (u.badWord (Loc.local_ k q.1) q.2).isSome) none))))) ∧
      (∀ r dst j x, s.Due i r dst j k → r.op.atomic = some x → (r.op.isPost = true → s.pathTurn i r dst = true) →
        let p := palletOf k.val
        (s.turnedAway r = false → Happens (.atomicRequestArrival i) s (u.setEngine p { s.engine p with
          ports := (s.engine p).ports ++ [(atomicPort s.device r p, r, dst, s.cycle)] })) ∧
        (s.turnedAway r = true → Happens (.atomicRequestArrival i) s (u.refuseAtomic r))) ∧
      (∀ (p : Fin 256) q x, (s.engine p.val).served ≠ some s.cycle →
        let open_ : AtomicEng := { s.engine p.val with
          ports := (s.engine p.val).ports.filter fun q => !s.frozenAtomic q.2.1 q.2.2.1 }
        open_.next s.cycle = some q →
        q.2.1.op.atomic = some x → q.2.2.1.local_ s = some k →
        ∃ v : State, v.cores = s.cores ∧ v.sh.mem = s.sh.mem ∧ v.sh.fabric = s.sh.fabric ∧ v.parts = s.parts ∧
          (v.engine p.val).served = some s.cycle ∧ (∀ e ∈ (v.engine p.val).ports, e.2.1.id ≠ q.2.1.id ∨ e.2.1.dev ≠ q.2.1.dev) ∧
          Happens (.atomicServe p) s (v.atomicAt q.2.1 q.2.2.1 k x)) ∧
      (∀ d g id v fault op, s.runs (s.partNo k) op = true → s.Carries i (.reply k c (.reg d) g id v false fault op) →
        (∀ o, (s.ctx k c).Expects id (.reg d) g o → (s.ctx k c).trigger 3 = none →
          (fault = none →
            Happens (.replyArrival i) s (u.settleResult k c o d ((s.ctx k c).resultOf op d v)) ∧
            ((s.debug k = true → 264 < (s.core k).logFree) → ∃ t, exec (.replyArrival i) s = .next t ∧ t.sh.mem = s.sh.mem ∧
              (t.ctx k c).aux.outs = (s.ctx k c).aux.outs.filter (fun q => q.id ≠ o.id) ∧
              (∀ r, d = .x r → r ≠ 0 → (t.ctx k c).x r = eword v 0) ∧
              ∀ r, d = .v r → (t.ctx k c).v r = (s.ctx k c).resultOf op d v)) ∧
          (∀ f, fault = some f → Happens (.replyArrival i) s (u.faultResult k c o f (some (at_ o.pc.toNat 0))))) ∧
        ((∀ o, ¬ (s.ctx k c).Expects id (.reg d) g o) →
          Happens (.replyArrival i) s (u.updCore k fun co => co.count 6))) ∧
      (∀ o t r, (s.ctx k c).aux.outs[i]? = some o → o.due = some t → t ≤ s.pns k → s.liveCore k = true → o.dest = .reg r →
        Happens (.replyTimeout k c i) s ((s.updCtx k c fun x => x.bumpGen o.dest).faultResult k c o 0x24
          (some (at_ o.pc.toNat 0)))) ∧
      (∀ f succ, (s.ctx k c).run = .parked .far succ → (s.ctx k c).aux.far = some f → f.phys.isSome = true →
        s.liveCore k = true → Happens (.farAccessComplete k c) s (s.updCtx k c fun x => { x with run := .running })))

/-- R168, R173, R197 to R199, R203, R285, R356: copies begin, take the MSGMAX.LIMIT of their core, move message by message, whole
lines of 64 bytes read and written, and end with their last message; code lands 64 bytes times LIMIT at a time; transfer units read and
write lines; link words move. R206 to R208, R225, R226, R228: kilns start the command that the arbitration picks, complete or abandon
tiles, and answer `KRES`. The model's readings: one event moves one message, and what it reads and writes of it (log entry 38), when the
commands of a queue are looked at (69), how a copy's fence scope is told (75), what the engines of two packages ask and answer each other of
an end that lies in the other one (14 R341; 104), the window of a `CFETCH` (134), a stream line whose window no longer decodes (118).
Completes: `copyRequestArrival`, `copyComplete`, `cfetchLanded`, `streamLineFill`, `streamLineDrain`, `courseLinkDeliver`,
`kilnStartOpportunity`, `tileComplete`, `tileAbandon`, `kresResult`. -/
def Obligations.TransferEvents : Prop :=
  (∀ (s : State) (i : Nat) (k : Key),
      (∀ r dst j, s.Carries i (.req r dst j) → (s.part r.part).live = true →
        let limit := (s.core r.src).csr.msgmax.toNat
        (∀ x, r.op = .copy x → ∀ e, s.askNext r.tag x.ends = some e →
          Happens (.copyRequestArrival i) s (s.askFor r e (.register e))) ∧
        (∀ a seg peg, r.op = .cfetch a seg peg → s.askNext r.tag [fetchEnd a] = some (fetchEnd a) →
          Happens (.copyRequestArrival i) s (s.askFor r (fetchEnd a) (.register (fetchEnd a)))) ∧
        (∀ x t pages, r.op = .copy x → s.askNext r.tag x.ends = none → s.asking r.tag = false →
          (s.unpost i).transEnds r false (x.ends.filter fun e => !isSlice e.a) = (t, .ok pages) →
          (((x.ends.filter fun e => !isSlice e.a).any fun e => t.farConflict r.part e) = true →
            Happens (.copyRequestArrival i) s ((t.abandon r).refuse r.src r.ctx r.pc)) ∧
          (((x.ends.filter fun e => !isSlice e.a).any fun e => t.farConflict r.part e) = false →
            (∀ v w m, t.registerEnds r x.win x.mwin x.ends = .done v w m → Happens (.copyRequestArrival i) s
              { v with sh := { v.sh with copies := v.sh.copies ++
                [⟨r.id, r, { x with win := w, mwin := m }, pages, v.engineOf r x pages, limit, 0, [], [], 0, 0, []⟩] } }) ∧
            (t.registerEnds r x.win x.mwin x.ends = .refused →
              Happens (.copyRequestArrival i) s ((t.abandon r).refuse r.src r.ctx r.pc)) ∧
            (∀ e, t.registerEnds r x.win x.mwin x.ends = .window e → Happens (.copyRequestArrival i) s (t.winFault r e)))) ∧
        (∀ x t q va acc, r.op = .copy x → s.askNext r.tag x.ends = none → s.asking r.tag = false →
          (s.unpost i).transEnds r false (x.ends.filter fun e => !isSlice e.a) = (t, .error (q, va, acc)) →
          Happens (.copyRequestArrival i) s (t.farFault r q va acc)) ∧
        (∀ a seg peg, r.op = .cfetch a seg peg → s.askNext r.tag [fetchEnd a] = none → s.asking r.tag = false →
          let es := [fetchEnd a]
          let far := es.filter fun e => !isSlice e.a
          let win := if s.owner a = ⟨s.device, r.src.val⟩ then some ((s.core r.src).win (winOf a)) else none
          (∀ t q va acc, (s.unpost i).transEnds r true far = (t, .error (q, va, acc)) →
            Happens (.copyRequestArrival i) s (t.farFault r q va acc)) ∧
          (∀ t pages, (s.unpost i).transEnds r true far = (t, .ok pages) →
            ((far.any fun e => t.farConflict r.part e) = true →
              Happens (.copyRequestArrival i) s ((t.abandon r).refuse r.src r.ctx r.pc)) ∧
            ((far.any fun e => t.farConflict r.part e) = false →
              (∀ v w m, t.registerEnds r win none es = .done v w m → Happens (.copyRequestArrival i) s
                { v with sh := { v.sh with fetches := v.sh.fetches ++ [⟨r.id, r, seg, peg, a, w, pages, limit, 0⟩] } }) ∧
              (t.registerEnds r win none es = .refused →
                Happens (.copyRequestArrival i) s ((t.abandon r).refuse r.src r.ctx r.pc)) ∧
              (∀ e, t.registerEnds r win none es = .window e → Happens (.copyRequestArrival i) s (t.winFault r e)))))) ∧
      (∀ r dst n a, s.Carries i (.ask r dst n a) → dst.local_ s = some k → s.askTurn i r dst = true →
        let u := s.unpost i
        let tell := fun (v : State) (x : Answer) => Happens (.copyRequestArrival i) s (v.postTo k.val r.dev (.told r.src n x))
        let shut := u.denied r.part dst
        (∀ e, a = .release e → Happens (.copyRequestArrival i) s (u.releaseRanges (.away r.dev r.id) r.src)) ∧
        (∀ e, a = .register e →
          let range := u.endRange k e ((u.core k).win (winOf e.a))
          ((shut = true ∨ u.turnedAway r = true) → tell u .refused) ∧
          (shut = false → u.turnedAway r = false →
            (range = none → tell u .window) ∧
            (∀ lo hi, range = some (lo, hi) →
              (u.conflict k (some (.away r.dev r.id)) e.write lo hi = true → tell u .refused) ∧
              (u.conflict k (some (.away r.dev r.id)) e.write lo hi = false → u.rangesUsed k < 32 →
                tell (u.register k ⟨lo, hi, e.write, .away r.dev r.id, r.src.val, none⟩) (.range ((u.core k).win (winOf e.a))))))) ∧
        (∀ e w j m, a = .read e w j m →
          (shut = true → tell u .refused) ∧
          (shut = false → u.turnedAway r = false → tell (u.countEnd e w j m) (.bytes (u.endBytes r.tag e w [] j m)))) ∧
        (∀ e j bs, a = .write e j bs →
          (shut = true → tell u .refused) ∧
          (shut = false → u.turnedAway r = false → tell (u.putEnd e r.writer [] j bs) .written))) ∧
      (∀ n x q, s.Carries i (.told k n x) → s.liveCore k = true →
        (s.sh.asks.find? fun q => decide (q.n = n ∧ q.req.src = k)) = some q →
        let u := s.unpost i
        let mine := fun (q : Asked) => decide (q.n = n ∧ q.req.src = k)
        ((∃ e, q.ask = .register e) → Happens (.copyRequestArrival i) s
          { u with sh := { u.sh with asks := s.sh.asks.map fun p => if mine p then { p with ans := some x } else p } }) ∧
        ((∃ e w j m, q.ask = .read e w j m) → x ≠ .refused → Happens (.copyRequestArrival i) s
          { u with sh := { u.sh with asks := s.sh.asks.map fun p => if mine p then { p with ans := some x } else p } }) ∧
        ((∃ e j bs, q.ask = .write e j bs) → x = .written → Happens (.copyRequestArrival i) s
          { u with sh := { u.sh with asks := s.sh.asks.filter fun q => !mine q } }) ∧
        (((∃ e w j m, q.ask = .read e w j m) ∨ ∃ e j bs, q.ask = .write e j bs) → x = .refused →
          let v : State := { u with sh := { u.sh with copies := u.sh.copies.filter fun c => c.req.tag ≠ q.req.tag,
                                                      fetches := u.sh.fetches.filter fun f => f.req.tag ≠ q.req.tag } }
          Happens (.copyRequestArrival i) s ((v.abandon q.req).refuse q.req.src q.req.ctx q.req.pc))) ∧
      (∀ c t d, s.sh.copies[i]? = some c → (s.part c.req.part).live = true → s.copyCan c c.limit = true → s.copyStep c c.limit = (t, d) → d.ended = true →
        t.writing c.req.tag = false →
        let u := t.copyOver i c
        (c.d.notify = false → Happens (.copyComplete i) s u) ∧
        (c.d.notify = true → Happens (.copyComplete i) s (u.offer c.req.src
          (entry 2 (if isHod c.engine then u.device else (u.owner c.d.src).dev) (index c.engine) (isHod c.engine)
            c.req.ctx.val 0 0 0 0 c.d.desc 0 0) false))) ∧
      (∀ c, s.OneMessage c →
        let out := c.d.output (s.copySource c) (s.copySide c)
        let side := if c.d.metaRead then c.d.metaBytes else out.2.length
        s.copyStep c c.limit = (s.copied c, { c with moved := c.d.rows * c.d.rlen, put := out.1.length, side := side })) ∧
      (∀ (c : Copy) (n : Nat), c.Even → 1 ≤ n → n ≤ 64 →
        let m := Min.min (64 * n) (c.d.rows * c.d.rlen - c.moved)
        s.copyStep c n = ((s.countEnd c.d.srcEnd (c.d.win.getD 0) c.moved m).bump.putFrom c c.d.dstEnd c.req.writer c.put
          (s.endBytes c.req.tag c.d.srcEnd (c.d.win.getD 0) c.pages c.moved m), { c with moved := c.moved + m, put := c.put + m })) ∧
      (∀ (c : Copy) (n : Nat), 1 ≤ n → n ≤ 64 →
        let x := c.d
        let len := c.needs n
        let src := c.raw ++ s.endBytes c.req.tag x.srcEnd (x.win.getD 0) c.pages c.moved len
        let tk := if c.moved + len = x.rows * x.rlen then src.length else src.length / x.unit * x.unit
        let r := s.copyRead c n
        let q := s.copyStep c n
        r.2.moved = c.moved + len ∧ r.2.raw = src.drop tk ∧
        (x.metaRead = false → r.2.pend = c.pend ++ (x.output (src.take tk) []).1 ∧
          r.2.spend = c.spend ++ (x.output (src.take tk) []).2) ∧
        (x.metaRead = true → ∃ sd, r.2.pend = c.pend ++ (x.output (src.take tk) sd).1 ∧
          sd ++ r.2.spend = c.spend ++ s.endBytes c.req.tag x.metaEnd (x.mwin.getD 0) c.pages c.side (r.2.side - c.side)) ∧
        ∃ w, w ≤ 64 * n ∧ w ≤ r.2.pend.length ∧ q.2.put = c.put + w ∧ q.2.pend = r.2.pend.drop w ∧
          (q.2.spend = r.2.spend → q.1 = r.1.putCopy r.2 c.req.writer c.put (r.2.pend.take w)) ∧
          (w < r.2.pend.length → w = 64 * n ∨ r.1.LineCut r.2 (c.put + w))) ∧
      (∀ (seg : Fin 4) f t g, (s.sh.fetches.find? fun f => decide (f.req.src = k ∧ f.seg = seg)) = some f →
        (s.part f.req.part).live = true → s.fetchCan f f.limit = true → s.fetchStep f f.limit = (t, g) → g.moved = 0x2000 →
        let u : State := { t with sh := { t.sh with fetches := t.sh.fetches.filter fun g => g.id ≠ f.id } }
        Happens (.cfetchLanded k seg) s ((((u.updCore k fun co => co.setSeg seg (segWord 2 f.peg f.req.ctx)).releaseRanges
          (.cfetch f.id) k).letGo f.req).pegDec k f.req.ctx f.peg 5 f.req.pc)) ∧
      (∀ (f : Fetch) (n : Nat), 1 ≤ n → n ≤ 64 →
        let m := Min.min (64 * n) (0x2000 - f.moved)
        s.fetchStep f n = (((s.countEnd (fetchEnd f.src) (f.win.getD 0) f.moved m).bump.putFar
          ((s.endBytes f.req.tag (fetchEnd f.src) (f.win.getD 0) f.pages f.moved m).zipIdx.map fun b =>
            (Loc.imem f.req.src.val (f.seg.val * 0x2000 + f.moved + b.2), b.1.1, b.1.2))), { f with moved := f.moved + m })) ∧
      (∀ (q : Reg8) t, s.strm k q = some t → s.liveCore k = true →
        (t.wants (s.popStands k q t) = true → ∃ m, 1 ≤ m ∧
          let n := Max.max t.fetched t.cursor
          let most := if t.cpy then t.landed else t.total
          let u : State := { s with m := { s.m with freeCtr := s.m.freeCtr + m } }
          n + m ≤ most ∧ (∀ j, j < m → t.byteOff (n + j) / 64 = t.byteOff n / 64) ∧
          (n + m = most ∨ m = 128 ∨ t.byteOff (n + m) / 64 ≠ t.byteOff n / 64) ∧
          Happens (.streamLineFill k q) s
            ((u.countCe k (((List.range m).map (n + ·)).flatMap (u.strmRaws k t))).setStrm k q (some { t with
              fetched := n + m,
              buf := t.buf ++ (List.range m).map fun j => (n + j, s.strmElem k t (n + j) (Config.freeWord (s.m.freeCtr + j))) }))) ∧
        (∀ e r, t.write = true → t.buf = e :: r → ∃ es, es <+: t.buf ∧ es ≠ [] ∧
          (∀ d ∈ es, t.byteOff d.1 / 64 = t.byteOff e.1 / 64) ∧
          (∀ d, (t.buf.drop es.length).head? = some d → t.byteOff d.1 / 64 ≠ t.byteOff e.1 / 64) ∧
          Happens (.streamLineDrain k q) s ((s.putElems k (s.byCtx k t.ctx) t es).putStrm k q t
            { t with buf := t.buf.drop es.length }))) ∧
      (∀ w r, isHod k = false → colOf k.val ≠ 63 → s.liveCore k = true → (s.core k).east = w :: r →
        (s.core (coreKey (k.val + 1))).west.length < 4 →
        Happens (.courseLinkDeliver k) s ((s.updCore k fun co => { co with east := r }).updCore (coreKey (k.val + 1)) fun co =>
          { co with west := co.west ++ [w] }))) ∧
  (∀ (s : State) (k : Key),
      (∀ (z : Fin 512) (j cur used i : Nat) (c : KCmd),
        let keys := (List.range 8).map fun j => coreKey (coreAtSlot z.val j)
        let heads := keys.map fun k => if s.liveCore k then (s.core k).kilnHead s.cycle else none
        let weights := keys.map fun k => (s.core k).csr.kweight.toNat
        (s.kiln z.val).free ≤ s.cycle →
        pickQueue heads weights (s.kiln z.val).cur.val (s.kiln z.val).used = some (j, cur, used) →
        heads.getD j none = some i → (s.core (coreKey (coreAtSlot z.val j))).kq[i]? = some c →
        Happens (.kilnStartOpportunity z) s ((s.kilnStart (coreKey (coreAtSlot z.val j)) i).setKiln z.val
          { s.kiln z.val with cur := Fin.ofNat 8 cur, used := used, free := s.cycle + c.occ })) ∧
      (∀ (heads : List (Option Nat)) (weights : List Nat) (cur used : Nat), cur < 8 →
        ((heads.getD cur none).isSome = true → used < weights.getD cur 1 →
          pickQueue heads weights cur used = some (cur, cur, used + 1)) ∧
        ((heads.getD cur none = none ∨ weights.getD cur 1 ≤ used) → ∀ d, d < 8 →
          (heads.getD ((cur + d + 1) % 8) none).isSome = true →
          (∀ e, e < d → heads.getD ((cur + e + 1) % 8) none = none) →
          pickQueue heads weights cur used = some ((cur + d + 1) % 8, (cur + d + 1) % 8, 1))) ∧
      (∀ c, s.kilnDone k = some c → s.kilnFailure k c = none →
        let s' := s.countCeAt k (c.accAdds k.val)
        (c.kind.writes = true → Happens (.tileComplete k) s
          (((((s'.putTile k c.t.val (s'.tileResult k c).1).updCore k fun co => { co with
            kterms := BitVec.ofNat 32 (Min.min (co.kterms.toNat + (s'.tileResult k c).2) 0xFFFFFFFF) }).kilnLeave k c.id).pegged k c))) ∧
        (∀ f32 o r, c.kind = .sta f32 → c.ops = o :: r → Happens (.tileComplete k) s
          (((s'.putEngine (coreKey (coreOf o.a)) (s'.byCtx k c.ctx) (s'.staPieces k c f32)).kilnLeave k c.id).pegged k c)) ∧
        (∀ g, c.kind = .cfg g → Happens (.tileComplete k) s
          (((s'.updCore k fun co => { co with kcfg := g }).kilnLeave k c.id).pegged k c))) ∧
      (∀ c cause, s.kilnDone k = some c → s.kilnFailure k c = some cause →
        let z := kilnOf k.val
        let u := if cause = 0x22 then
          s.setKiln z { s.kiln z with resmis := Min.min ((s.kiln z).resmis + 1) 0xFFFFFFFF } else s
        let v := (u.kilnLeave k c.id).kilnDiscard k c.ctx fun _ => true
        ((v.ctx k c.ctx).isRolling = true → Happens (.tileAbandon k) s v) ∧
        ((v.ctx k c.ctx).isRolling = false → Happens (.tileAbandon k) s (v.reportLater k c.ctx cause
          (some (at_ c.pc.toNat 0 ||| at_ c.t.val 16 |||
            if cause = 0x22 then at_ c.failsAt.1.val 20 ||| at_ c.failsAt.2.val 32 else 0)) c.pc))) ∧
      (∀ c : KCmd, s.kilnFailure k c = if c.err.isSome then c.err else if s.badPlaces (c.accAdds k.val) ≠ [] then some 0x21
        else if c.flaw then some 0x20 else if c.inject || c.failAt.isSome then some 0x22 else none) ∧
      (∀ c : KCmd, c.failsAt = if c.inject then (0, 0) else c.failAt.getD (0, 0)) ∧
      (∀ c r clr, s.kilnDone k = some c → c.kind = .res (.reg r) clr →
        let n := (s.core k).kterms
        let v := (s.kilnLeave k c.id).updCore k fun co => { co with kterms := if clr then 0 else n }
        (∀ o, ((v.ctx k c.ctx).aux.outs.find? fun o => decide (o.id = c.id)) = some o →
          Happens (.kresResult k) s (v.settleResult k c.ctx o r (BitVec.ofNat 512 n.toNat))) ∧
        (((v.ctx k c.ctx).aux.outs.find? fun o => decide (o.id = c.id)) = none → Happens (.kresResult k) s v)))

/-- R188, R233, R236, R237, R239 to R241, R272 to R274: barriers release at the cycles that the two sweeps give, waiting instructions
retire, a fence that has waited reports refused operations.
Completes: `barrierRelease`, `waitWake`, `fenceRetire`. -/
def Obligations.WaitEvents : Prop :=
  ∀ (s : State) (k : Key) (c : CtxNo) (succ : PC), s.liveCore k = true →
    ((s.ctx k c).faulty = false →
      (∀ g, (s.ctx k c).run = .parked (.peg g) succ → (s.ctx k c).g g = 0 → (s.ctx k c).aux.wakeAt[g] ≤ s.cycle →
        Happens (.waitWake k c) s (s.woken k c succ)) ∧
      (∀ a m d, (s.ctx k c).run = .parked (.mask a m) succ → (s.ctx k c).AnyZero m d →
        (∀ g : Fin 8, (s.ctx k c).aux.wakeAt[g] ≤ s.cycle) → (s.debug k = true → 257 < (s.core k).logFree) →
        let i := Fin.ofNat 8 ((s.ctx k c).aux.startPtr.val + d)
        ∃ t, exec (.waitWake k c) s = .next t ∧ (t.ctx k c).run = .running ∧ (t.ctx k c).aux.startPtr = i + 1 ∧
          (a ≠ 0 → (t.ctx k c).x a = BitVec.ofNat 64 i.val) ∧ (s.follower k c = false → (t.ctx k c).pc = succ)) ∧
      ((s.ctx k c).run = .parked .msg succ → (s.core k).rq ≠ [] → Happens (.waitWake k c) s (s.woken k c succ)) ∧
      ((s.ctx k c).aux.refPc ≠ none → ∀ sc, ((s.ctx k c).run = .parked (.fence sc) succ ∧ s.fenceDone k c sc = true) ∨
          ((s.ctx k c).run = .parked (.fencea sc) succ ∧ (s.fenceDone k c sc && s.enginesDone k c sc) = true) →
        let t := (((s.as_ k c).upd fun x => { x with run := .running, aux := { x.aux with
          refMask := 0, refCount := 0, refPc := none } }).raise 0x0B (some (s.ctx k c).refValue))
        Happens (.fenceRetire k c) s { t with m := { t.m with cur := s.m.cur } }) ∧
      ((s.ctx k c).aux.refPc = none →
        (∀ sc, (s.ctx k c).run = .parked (.fence sc) succ → s.fenceDone k c sc = true →
          Happens (.fenceRetire k c) s (s.woken k c succ)) ∧
        (∀ sc, (s.ctx k c).run = .parked (.fencea sc) succ → (s.fenceDone k c sc && s.enginesDone k c sc) = true →
          Happens (.fenceRetire k c) s (s.woken k c succ)))) ∧
    (∀ (n : Fin 4) (a : Arrival), (s.core k).bars[n] = some a →
      (∀ t, a.rel = some t → t ≤ s.pclk k → ∃ u, exec (.barrierRelease k n) s = .next u ∧
        (u.core k).bars[n] = none ∧
        (0 < (s.ctx k a.ctx).g a.peg → (u.ctx k a.ctx).g a.peg = (s.ctx k a.ctx).g a.peg - 1) ∧
        (u.ctx k a.ctx).aux.slotClock = some (.counts (s.pclk k)) ∧
        (a.ss = true → ∃ f, (u.ctx k a.ctx).aux.ss = some f ∧ f.level = n ∧ f.pc = a.succ ∧ f.rect = (s.core k).rect n ∧
          f.x = (s.ctx k a.ctx).regs.x ∧ f.p = (s.ctx k a.ctx).regs.p ∧
          (u.ctx k a.ctx).csr.sscount = (s.ctx k a.ctx).csr.sscount + 1)) ∧
      (∀ as, a.rel = none → s.arrivals k n = some as →
        let rect := (s.core k).rect n
        let rows := rect.2.2.1
        let cols := rect.2.2.2
        let stops := (s.part (s.partNo k)).stops
        let tc := sweepTc stops rows cols fun r q => ((as.map (·.at_))[r * cols + q]?).getD 0
        (rectKeys rect).Nodup → ∃ u, exec (.barrierRelease k n) s = .next u ∧ u.sh = s.sh ∧
          (∀ j, j ∉ rectKeys rect → u.core j = s.core j) ∧
          ∀ r q j, r < rows → q < cols → (rectKeys rect)[r * cols + q]? = some j →
            ∃ b, (s.core j).bars[n] = some b ∧
              (u.core j).bars[n] = some { b with rel := some (hops stops ((rows - 1 - r) + q) (tc + 1)) })) ∧
    (∀ m e, hops [] m e = e + 2 * m) ∧
    (∀ rows cols r q, r < rows → q < cols → ∀ a : Nat → Nat → Nat,
      (releases [] rows cols ((List.range (rows * cols)).map fun i => a (i / cols) (i % cols)))[r * cols + q]? =
        some (sweepTime (sweepTc [] rows cols a) rows r q)) ∧
    (∀ c e, hopEnd [c] e = if e < c ∧ c < e + 2 then c + 2 else e + 2)

/-- R279, R283, R325, R332: the rollbacks of regions, bodies and supersteps. R325, R251: what a region's frame saved is back, and the undo
log gives back the words of the slice and the CSRs that the context wrote since its marker. R79, R229: commands of the kiln that have not
started are dropped first. The model's choices: every member of a superstep is rolled back in one step (log entry 74), the result of a
dropped `KRES` is written (105), the slot clocks of a superstep stand at 0 after its rollback, which waits for a release on its way (135),
a tile saved in error stays as it is (142).
Completes: `regionRollback`, `superstepRollback`, `txBodyRetry`. -/
def Obligations.RollbackEvents : Prop :=
  ∀ (s : State) (k : Key) (c : CtxNo) (cause : BitVec 8),
    (∀ f r, (s.ctx k c).run = .rolling (.region cause) → (s.ctx k c).aux.frames = f :: r → s.Rolls k c →
      Happens (.regionRollback k c) s (s.rollRegion k c f cause) ∧
      let t := s.rollRegion k c f cause
      (t.ctx k c).regs.x = f.x ∧ (t.ctx k c).regs.p = f.p ∧ (t.ctx k c).pc = f.handler ∧ (t.ctx k c).run = .running ∧
      (t.ctx k c).csr.mode = f.mode ∧ (t.ctx k c).csr.rndctr = f.rndctr ∧ (t.ctx k c).csr.cls = 0 ∧
      (t.ctx k c).csr.rgcause = BitVec.ofNat 16 ((s.ctx k c).depth * 256 + cause.toNat) ∧
      (∀ q, (t.ctx k c).v q = (lastOf f.vs q).getD ((s.ctx k c).v q)) ∧
      (∀ q, (t.ctx k c).g q = (lastOf (f.pegs.getD []) q).getD ((s.ctx k c).g q)) ∧
      (∀ (q : Reg8) o, lastOf f.strms q = some o → ((s.core k).linkBy = none ∨ q.val < 6) →
        t.strm k q = o.map fun x => if x.write then x else { x with fetched := x.cursor, buf := [] }) ∧
      (s.Canonical → isHod k = false → (∀ q w, lastOf (f.tiles.filter fun e => !e.2.2) q = some w →
        ∀ j, j < 16384 → t.sh.mem.get (Loc.acc k.val q.val 0 + j) = BitVec.ofNat 8 (natByte w.1.toNat j))) ∧
      (s.Canonical → isHod k = false → (s.core k).logUe = [] →
        let es := (s.core k).log.take ((s.core k).logHead - f.marker)
        ((∀ e ∈ es, e.kind ≠ .csr c 0x11C) → ∀ y, y < 0x100000 →
          t.sh.mem.get (Loc.local_ k y) = match oldestWord es c y with
            | some (off, old) => BitVec.ofNat 8 (natByte old.toNat (y - off))
            | none => s.sh.mem.get (Loc.local_ k y)) ∧
        ∀ e ∈ csrMasks, e.1.val < 0x100 → e.1 ≠ 0x00C → t.csrRead k c e.1.val = match oldestCsr es c e.1 with
          | some old => old &&& e.2
          | none => s.csrRead k c e.1.val)) ∧
    ((s.ctx k c).run = .rolling (.region cause) → (s.ctx k c).aux.frames ≠ [] → s.liveCore k = true →
      (s.core k).kilnWaiting c 0 = true →
      Happens (.regionRollback k c) s (s.kilnDrop k c (KCmd.dropped 0))) ∧
    (∀ m n a, (s.ctx k c).run = .rolling (.body cause) → (s.ctx k c).aux.body = some (m, n) → s.Rolls k c →
      ((s.core k).attempts.find? fun a => a.stage == .body c) = some a →
      ∃ t, exec (.txBodyRetry k c) s = .next t ∧ (t.ctx k c).pc = a.txn.entry ∧ (t.ctx k c).run = .running ∧
        (t.ctx k c).x 1 = a.txn.arg1 ∧ (t.ctx k c).x 2 = a.txn.arg2 ∧ (t.ctx k c).csr.txbody = true ∧
        (t.ctx k c).csr.rgretry = BitVec.ofNat 8 ((s.ctx k c).aux.bodyRetry + 1) ∧
        (t.ctx k c).csr.rgcause = BitVec.ofNat 16 cause.toNat) ∧
    (∀ o f, (s.ctx k c).run = .rolling (.superstep cause o) → (s.ctx k c).aux.ss = some f → s.liveCore k = true →
      s.sweeping k f.rect f.level = false →
      let g := s.gang k f.rect f.level
      let waits := g.any fun e => (s.core e.1).kilnWaiting e.2.1 e.2.2.since
      (waits = true → Happens (.superstepRollback k c) s
        (g.foldl (fun s e => s.kilnDrop e.1 e.2.1 (KCmd.dropped e.2.2.since)) s)) ∧
      (waits = false → (g.all fun e => s.quiet e.1 e.2.1) = true →
        ((g.all fun e => (s.ctx e.1 e.2.1).isRolling) = false → Happens (.superstepRollback k c) s
          (g.foldl (fun s e => if (s.ctx e.1 e.2.1).isRolling then s
            else s.updCtx e.1 e.2.1 fun x => x.beginRoll (.superstep 0x25 false)) s)) ∧
        ((g.all fun e => (s.ctx e.1 e.2.1).isRolling) = true →
          let t := g.foldl (fun s e => s.rollMember e.1 e.2.1 e.2.2) s
          Happens (.superstepRollback k c) s { t with sh := { t.sh with runs := t.sh.runs.map fun r =>
            if (g.any fun e => r.has e.1 && decide (e.2.1 = 0)) then { r with fwd := [], done := [], last := [], again := [] }
            else r } }))) ∧
    (∀ (x : Ctx) (f : SsFrame), let y := x.restoreSs f cause
      y.regs.x = f.x ∧ y.regs.p = f.p ∧ y.regs.v = x.regs.v ∧ y.pc = f.pc ∧ y.run = .running ∧ y.csr.mode = f.mode ∧
      y.csr.rndctr = f.rndctr ∧ y.csr.rgretry = 0 ∧ y.csr.rgcause = cause.setWidth 16 ∧ y.aux.frames = [] ∧
      y.aux.slotClock = x.aux.slotClock.map fun _ => .stopped 0)

/-- R245, R246, R305 to R310, R312 to R315, R356: intake, batches, portions, verdicts, lock requests, grants, landing, version
queries; what one member tells another of a failed one (17 R414). That a submission whose captured descriptor is turned away returns
with KIND 4 is log entry 22, that a fail verdict leaves its key awaited until the restart arrives is log entry 76, that what names a core
outside the partition is dropped is log entry 107, that a refused restart lets its context submit again is log entry 108.
Completes: `tsubIntake`, `batchClose`, `portionArrival`, `verdictArrival`, `lockRequest`, `grant`, `grantLanding`,
`versionQuery`. -/
def Obligations.SequencerEvents : Prop :=
  ∀ (s : State) (i : Nat) (k : Key) (n : Fin 64),
    let u := s.unpost i
    (∀ r dst j t re, s.Submits i r dst j t re →
      let die := if r.host.isSome then 0 else dieOf r.src
      let full := 4096 ≤ (s.part r.part).lane.intake.length + (s.part r.part).lane.restarts.length
      (full → Happens (.tsubIntake i) s (u.refuseSub r dst t re)) ∧
      (re = none → u.refuseSub r dst t re = u.returned r dst 4 0) ∧
      (¬ full →
        (∀ v pages, u.transTiles r.part die (r.mode == .supervisor) t.tiles = (v, .ok pages) →
          Happens (.tsubIntake i) s ((v.updLane r.part fun l => l.takeIn (r.sub t re pages)).accepted r)) ∧
        (∀ v va, u.transTiles r.part die (r.mode == .supervisor) t.tiles = (v, .error va) →
          Happens (.tsubIntake i) s (((match re with
            | some f => v.updLane r.part fun l => l.heardOf f.1
            | none => v).accepted r).complete r.part r.src t 0 3 ((re.map Prod.snd).getD 0) va r.src r.host)))) ∧
    (∀ r dst j t0 re, s.Carries i (.req r dst j) → r.op = .tsub t0 re → (s.part r.part).live = true → s.tsubTurn i r = true →
      s.hostTurn i r dst = true → s.captured r t0 = none → Happens (.tsubIntake i) s (u.returned r dst 4 0)) ∧
    (∀ r dst j t0 re, s.Carries i (.req r dst j) → r.op = .tsub t0 re → s.turnedAway r = true →
      Happens (.tsubIntake i) s (u.returned r dst 4 0)) ∧
    (∀ (l : Lane) (x : Sub), (x.failedKey = none → l.takeIn x = { l with intake := l.intake ++ [x] }) ∧
      (∀ f, x.failedKey = some f → l.takeIn x =
        { l with pending := l.pending.filter (fun q => q ≠ f), restarts := l.restarts ++ [x] })) ∧
    ((s.part n.val).live = true → s.batchDue n.val = true → (s.part n.val).lane.ue = false →
      let p := s.part n.val
      ∃ v, exec (.batchClose n) s = .next v ∧ (v.part n.val).lane.round = p.lane.round + 1 ∧
        (v.part n.val).lane.intake = p.lane.intake.drop p.lane.limit ∧ (v.part n.val).lane.restarts = [] ∧
        (v.part n.val).lane.opened = p.clock s.cycle * 5 / 9 ∧
        (v.part n.val).lane.prevChecked = ((s.batch n.val).filter fun u => u.2.txn.checked || u.2.failedKey.isSome).length ∧
        ∃ ms, v.sh.fabric = s.sh.fabric ++ ms ++ (p.members p.device.toNat).map fun m =>
          s.addressed 0 (BitVec.ofNat 8 m) (.portion n.val p.lane.round p.device.toNat
            ((((s.batch n.val).filter fun u => s.inSpan n.val (s.owner u.2.txn.disp)).flatMap fun u =>
              s.lockReqs n.val u.1 u.2).filter fun q => decide (q.1.dev.toNat = m)))) ∧
    (∀ round dev pos : Nat, round < 2 ^ 46 → dev < 256 → pos < 1024 → bits (txnKey round dev pos) 63 18 = round ∧
      bits (txnKey round dev pos) 17 10 = dev ∧ bits (txnKey round dev pos) 9 0 = pos) ∧
    (∀ m round reqs, s.Carries i (.portion n.val round m reqs) → (s.part n.val).live = true → (s.part n.val).lane.ue = false →
      ((s.part n.val).lane.out m round = true → Happens (.portionArrival n i) s u) ∧
      ((s.part n.val).lane.out m round = false → Happens (.portionArrival n i) s ((u.updLane n.val fun l => { l with
        portions := l.portions ++ [(round, m, reqs.filter fun q => s.inSpan n.val q.1)],
        lastSeen := aset l.lastSeen m (Max.max round ((aget l.lastSeen m).getD 0)),
        heard := aset l.heard m ((s.part n.val).clock s.cycle * 5 / 9) }).forwardAll n.val))) ∧
    (∀ failed m count, s.Carries i (.rounds n.val failed m count) → (s.part n.val).live = true →
      Happens (.portionArrival n i) s (u.updLane n.val fun l => { l with
        told := (failed, m, count) :: l.told.filter fun q => !decide (q.1 = failed ∧ q.2.1 = m) })) ∧
    (∀ key pass, s.Carries i (.verdict n.val key pass) → (s.part n.val).live = true → (s.part n.val).lane.ue = false →
      Happens (.verdictArrival i) s (if pass then u.updLane n.val fun l => { l with
        pending := l.pending.filter fun q => q ≠ key } else u)) ∧
    (∀ r, s.Carries i (.lock k r) → (s.part r.part).live = true → (s.core k).lkm.queue.length < mgrSize k →
      (s.core k).lkm.ue = false → (∀ j x, j < i → s.msg j ≠ some (.lock k x)) →
      Happens (.lockRequest i) s (if (s.part r.part).has k then u.updCore k fun co =>
        { co with lkm := { co.lkm with queue := co.lkm.queue ++ [r] } } else u)) ∧
    (∀ (tile : Nat) r rs, s.liveCore k = true → grantable ((s.core k).lkm.queue.filter fun q => q.tile = tile) = r :: rs →
      s.tileFree k r = true → (s.core k).lkm.ue = false → ∃ v, exec (.grant k tile) s = .next v ∧
        v.sh.fabric = s.sh.fabric ++ (r :: rs).flatMap (fun q =>
          ((s.core k).parts (s.tileBytes (tilePlace k tile r.phys))).map fun b => s.addressed k.val q.dev (.grant q.core q.slot q.key b.1 b.2
            ((s.core k).lkm.version tile)
            (match q.check with | some c => decide (c ≠ (s.core k).lkm.version tile) | none => false) q.landing)) ∧
        v.sh.mem = s.sh.mem ∧
        ∀ q ∈ (v.core k).lkm.queue, q.tile = tile → (∃ g ∈ r :: rs, g.key = q.key) → q.granted = true) ∧
    (∀ l : List LockReq, (∀ r rs, l = r :: rs → r.write = true → grantable l = if r.granted then [] else [r]) ∧
      (∀ q ∈ grantable l, q.granted = false) ∧ (∀ q ∈ grantable l, q.write = true → grantable l = [q])) ∧
    (∀ r dst j d tile, s.Carries i (.req r dst j) → r.op = .trecon d tile → s.runs r.part r.op = true → dst.dev = s.device →
      ((s.inSpan r.part dst = false ∨ s.turnedAway r = true) → Happens (.versionQuery i) s (u.answer r 0 false (some 0x0B))) ∧
      (s.inSpan r.part dst = true → s.turnedAway r = false → isSlice tile = true →
        ((s.owner tile).dev ≠ s.device → Happens (.versionQuery i) s
          (u.postTo r.src.val (s.owner tile).dev (.req { r with op := .trecon d (s.tileName tile) } (s.owner tile) j))) ∧
        ((s.owner tile).dev = s.device →
          (s.inSpan r.part (s.owner tile) = true → (s.core (s.owner tile).keyOf).lkm.ue = false →
            Happens (.versionQuery i) s (u.answer r
              (BitVec.ofNat 512 ((s.core (s.owner tile).keyOf).lkm.version (offOf tile / 0x1000)).toNat) false none)) ∧
          (s.inSpan r.part (s.owner tile) = false → Happens (.versionQuery i) s (u.answer r 0 false (some 0x0B)))))) ∧
    (∀ slot key off data v fail landing a, s.Carries i (.grant k slot key off data v fail landing) → s.liveCore k = true →
      ((s.core k).attempts.find? fun a => a.key = key) = some a → (s.core k).landingHeld a = false →
      Happens (.grantLanding i) s ((u.putFar (data.zipIdx.map fun b =>
        (Loc.local_ k (landing + off + b.2), b.1.1, b.1.2))).updCore k fun co => { co with
          attempts := co.attempts.map fun b => if b.key = key then b.landed slot data.length v fail else b })) ∧
    (∀ slot key off data v fail landing, s.Carries i (.grant k slot key off data v fail landing) → s.liveCore k = true →
      ((s.core k).attempts.find? fun a => a.key = key) = none → Happens (.grantLanding i) s u) ∧
    (∀ (a : Attempt) (slot m : Nat) (v : BitVec 32) (fail : Bool), (aget a.part_ slot).getD 0 + m = 0x1000 →
      a.landed slot m v fail = { a with
        part_ := adel a.part_ slot,
        got := a.got ++ [(slot, v, fail)],
        stage := if a.got.length + 1 = a.txn.tiles.length then .ready else a.stage })

/-- R281, R282, R316 to R319, R414: bodies start, failed attempts go to their recon, commits are written, complete and become
idle; a far tile that is pushed or released no longer counts for its translation (15 R377); a member of the group fails, and the others are told of its rounds. When a push or a release counts for its commit is log entry 76;
that a commit whose core was reset completes with no context is log entry 127.
Completes: `txnDispatch`, `failedAttempt`, `commitPushWritten`, `lockRelease`, `commitComplete`, `memberFailure`. -/
def Obligations.DispatchEvents : Prop :=
  ∀ (s : State) (i : Nat) (k : Key) (c : CtxNo) (a : Attempt),
    let u := s.unpost i
    (s.liveCore k = true → (s.core k).anyStopped = false → (s.core k).nextTxn = some a → (s.core k).idleCtx = some c →
      (a.stage = .ready → ∃ t, exec (.txnDispatch k) s = .next t ∧ (t.ctx k c).run = .running ∧ (t.ctx k c).pc = a.txn.entry ∧
        (t.ctx k c).csr.txbody = true ∧ (t.ctx k c).csr.txid = a.key ∧ (t.ctx k c).csr.mode = .user ∧ (t.ctx k c).csr.cls = 2 ∧
        (t.ctx k c).x 1 = a.txn.arg1 ∧ (t.ctx k c).x 2 = a.txn.arg2 ∧
        t.sh.fabric = s.sh.fabric ++ if a.txn.checked then [.verdict a.part a.key true] else []) ∧
      (a.stage = .failed → ((s.core k).attempts.find? fun a => a.stage == .ready && a.fail) = none →
        ∃ t, exec (.failedAttempt k) s = .next t ∧ (t.ctx k c).run = .running ∧ (t.ctx k c).pc = a.txn.recon ∧
          (t.ctx k c).csr.txbody = false ∧ (t.ctx k c).aux.recon = some false ∧ (t.ctx k c).x 4 = a.txn.desc)) ∧
    (s.liveCore k = true → ((s.core k).attempts.find? fun a => a.stage == .ready && a.fail) = some a →
      Happens (.failedAttempt k) s (s.failAttempt k a)) ∧
    (∀ tile phys key dev core data v, s.Carries i (.push k tile phys key dev core data v) → s.liveCore k = true →
      (s.core k).lkm.ue = false → (∀ j m, j < i → s.msg j = some m → m.samePush k tile key = false) →
      let l := (s.core k).lkm.collect tile key data
      let w := u.updCore k fun co => { co with lkm := co.lkm.keep tile key l }
      (l.length < 0x1000 → Happens (.commitPushWritten i) s w) ∧
      (0x1000 ≤ l.length → Happens (.commitPushWritten i) s
        ((((w.putFar (l.zipIdx.map fun b => (tilePlace k tile phys + b.2, b.1.1, b.1.2))).updCore k
          fun co => { co with lkm := co.lkm.setVersion tile v }).unlock k tile key).tellCommit k dev core key true tile))) ∧
    (∀ (m : LockMgr) (tile t : Nat) (v : BitVec 32), m.versions = [] →
      (m.setVersion tile v).version t = if t = tile then v else 0) ∧
    (∀ tile key dev core, s.liveCore k = true → (s.core k).lkm.ue = false →
      (s.Carries i (.release k tile key dev core false) → Happens (.lockRelease i) s (u.unlock k tile key)) ∧
      (s.Carries i (.release k tile key dev core true) →
        Happens (.lockRelease i) s ((u.unlock k tile key).tellCommit k dev core key false tile))) ∧
    (∀ mgr : Key, ∀ dev core key push tile, s.tellCommit mgr dev core key push tile = if dev = s.device then
        (if isHod mgr then (s.commitStep core key push).dropLeaf core key tile else s.commitStep core key push)
      else s.post (.away dev mgr.val (.done core key push))) ∧
    (∀ key, s.liveCore k = true →
      (s.Carries i (.done k key true) → Happens (.commitPushWritten i) s (u.commitStep k key true)) ∧
      (s.Carries i (.done k key false) → Happens (.lockRelease i) s (u.commitStep k key false))) ∧
    (s.liveCore k = true → ((s.core k).attempts.find? fun a => match a.stage with
        | .committing _ 0 0 => true
        | _ => false) = some a →
      let w := (s.updCore k fun co => { co with attempts := co.attempts.filter fun b => b.key ≠ a.key }).complete a.part k a.txn
        a.key 0 a.fails 0 a.sub a.host
      let v := w.trace k c 6 a.pcEnd 0 0
      (a.stage = .committing (some c) 0 0 →
        ((v.ctx k c).aux.dbg.want ≠ some 2 → Happens (.commitComplete k) s (v.becomeIdle k c)) ∧
        ((v.ctx k c).aux.dbg.want = some 2 → Happens (.commitComplete k) s (v.debugStop k c 2))) ∧
      (a.stage = .committing none 0 0 → Happens (.commitComplete k) s w)) ∧
    (∀ (n : Fin 64) (dev : BitVec 8) (gone : Bool) (told : List Nat), (s.part n.val).live = true →
      dev.toNat ∈ (s.part n.val).others → told.length + 1 = (s.part n.val).others.length →
      (gone = true ∨ s.silent n.val dev.toNat = true) →
      let cut := told.foldl Min.min ((s.part n.val).lane.roundsOf dev.toNat)
      let rest := (s.part n.val).others.filter fun m => m ≠ dev.toNat
      let w := if dev.toNat ∈ (s.part n.val).lane.telling then s else
        (rest.foldl (fun s m => s.postTo 0 (BitVec.ofNat 8 m) (.rounds n.val dev.toNat (s.part n.val).device.toNat
          ((s.part n.val).lane.roundsOf dev.toNat))) s).updLane n.val fun l => { l with telling := dev.toNat :: l.telling }
      let v := (w.updLane n.val fun l => { l with
        cuts := aset l.cuts dev.toNat cut,
        portions := l.portions.filter fun q => !decide (q.2.1 = dev.toNat ∧ cut ≤ q.1) }).report n.val 6 none 0 0 0
          (at_ dev.toNat 0) 0 0 0
      (v.laneTouches n.val dev = false → Happens (.memberFailure n dev ⟨gone, told⟩) s (v.forwardAll n.val)) ∧
      (v.laneTouches n.val dev = true →
        Happens (.memberFailure n dev ⟨gone, told⟩) s ((v.partFatal n.val none 0 0 0 0).forwardAll n.val)))

/-- R354, R357, R358, R361, R362, R365, R366, R377, R380, R381, R409 and R347: translations, fault records, launches, gang stops,
drains, resumptions, core resets, completed SHOOTs. The model's choices: all cores stop in one step (log entry 51), a launch lands in one
step and starts in a second that waits for an idle context 0 (52), when the slice of a core that is reset reads zero (57), which messages
fall out (102), that a launch waits for a core that is reset (143). What a save area holds beside the bytes to which the spec gives a form,
how a RESTORE finds it, and the order of the pieces that it writes and reads back (`State.pieces`, `State.area`, `State.putArea`,
`State.readBack`, `State.areaOk`) are the model's choice too (20).
Completes: `translateRequest`, `faultRecordPlaced`, `shootComplete`, `launchStart`, `gangStop`, `quiescence`, `saveDrainEnd`,
`resumeStart`, `resetComplete`. -/
def Obligations.PartitionEvents : Prop :=
  ∀ (s : State) (k : Key) (c : CtxNo) (n : Fin 64) (i : Nat),
    (∀ f succ, (s.ctx k c).run = .parked .far succ → (s.ctx k c).aux.far = some f → f.phys = none → s.liveCore k = true →
      let r := s.translateAll (s.partNo k) (dieOf k) (if f.write then .write else .read) ((s.ctx k c).csr.mode == .supervisor)
        f.blocks
      (∀ t cause va, r = (t, .error (cause, va)) → Happens (.translateRequest k c) s
        ((t.updCtx k c fun x => { x with run := .running, aux := { x.aux with far := none } }).deliver k c cause (at_ va 0)
          (s.ctx k c).pc (s.ctx k c).pc)) ∧
      (∀ t ls, r = (t, .ok ls) → ∃ u g, exec (.translateRequest k c) s = .next u ∧ (u.ctx k c).aux.far = some g ∧
        g.leaves = ls ∧ g.phys = some (f.blocks.filterMap fun b =>
          (leafFor ls b.2).map fun l => (b.1, l.phys (b.1 * 0x10000))))) ∧
    (∀ va m : Nat, 0 < m → va % 0x10000 + m ≤ 0x10000 → blockSpan va m = [(va / 0x10000, va)]) ∧
    (∀ va m : Nat, 0 < m → m ≤ 0x10000 → 0x10000 < va % 0x10000 + m →
      blockSpan va m = [(va / 0x10000, va), (va / 0x10000 + 1, (va / 0x10000 + 1) * 0x10000)]) ∧
    (∀ e cause v t m, s.sh.held[i]? = some ⟨.record k c e cause v, t, m⟩ → t ≤ s.now → s.liveCore k = true →
      (∀ u, (s.unheld i).arrive k e false = some u →
        ((s.ctx k c).run = .idle → Happens (.faultRecordPlaced i) s u) ∧
        ((s.ctx k c).run ≠ .idle → Happens (.faultRecordPlaced i) s (u.later k c cause (some v) (pcOf (eword e 4).toNat)))) ∧
      ((s.unheld i).arrive k e false = none → Happens (.faultRecordPlaced i) s
        { s with sh := { s.sh with held := s.sh.held.eraseIdx i ++ [⟨.record k c e cause v, s.now + 1000, m⟩] } })) ∧
    (∀ h, s.shoots[i]? = some h → (∀ u ∈ h.users, u ∉ s.leafUsers h) →
      Happens (.shootComplete i) s (({ s with shoots := s.shoots.eraseIdx i } : State).notice h.port
        (hostNotice 0 0 false 0 4 (at_ h.part 0 ||| at_ h.scope.val 8) 0 (at_ h.part 0) 0 h.va 0))) ∧
    (∀ l, s.launches[i]? = some l → (s.part l.a.part.val).live = true → (∀ j ∈ l.a.targets, (s.core j).resetting = none) →
      (l.ts = none → Happens (.launchStart i) s (s.landLaunch l) ∧
        (∀ t u, s.landSegs l.a.part.val l.a.targets l.a.named = (t, none) → t.landSlice l.a.part.val l.a = (u, none) →
          s.landLaunch l = { u with launches := u.launches.map fun q => if q.id = l.id then { q with ts := some u.tick2 } else q }) ∧
        (∀ t va left, s.landSegs l.a.part.val l.a.targets l.a.named = (t, some (va, left)) →
          s.landLaunch l = ((l.a.targets.foldl (fun t k => t.updCore k fun co => left.foldl (fun co j => co.setSeg j 0) co)
            t).unlaunch l.id).stateNotice l.a.part.val true va 0)) ∧
      (∀ t, l.ts = some t → t ≤ s.now → (∀ j ∈ l.a.targets, (s.ctx j 0).run = .idle) →
        ∃ u, exec (.launchStart i) s = .next u ∧ ∀ j ∈ l.a.targets,
          (u.ctx j 0).run = .running ∧ (u.ctx j 0).pc = l.a.entry ∧ (u.ctx j 0).x 1 = l.a.arg1 ∧ (u.ctx j 0).x 2 = l.a.arg2 ∧
          (u.ctx j 0).csr.cls = 3 ∧ (u.ctx j 0).csr.mode = if l.a.sup then .supervisor else .user)) ∧
    (let p := s.part n.val;
      (p.state = .armed → p.t ≤ s.now → ∃ u, exec (.gangStop n) s = .next u ∧ (u.part n.val).state = .stopping ∧
        (u.part n.val).since = some s.cycle ∧ (u.part n.val).stops = p.stops ++ [p.clock s.cycle] ∧
        u.sh.fabric = s.sh.fabric.filter (fun m => !m.falls s.device n.val p.has) ∧
        u.sh.fallout = s.sh.fallout ++
          (s.sh.fabric.filter fun m => m.falls s.device n.val p.has).map (fun m => (m.pallet, m)) ∧ ∀ j d, (u.ctx j d).regs = (s.ctx j d).regs ∧ (u.ctx j d).pc = (s.ctx j d).pc ∧
          (u.ctx j d).run = (s.ctx j d).run) ∧
      (p.state = .stopping → (p.keys.all fun j => (s.core j).stoppedWell) = true →
        let t := p.keys.foldl State.swapOut s
        ((p.saveva = 0 ∨ p.fatal = true) →
          Happens (.quiescence n) s ((t.setPart n.val { p with state := .stopped }).stateNotice n.val false 0 0)) ∧
        (p.saveva ≠ 0 → p.fatal = false → Happens (.quiescence n) s
          (t.freshId.2.setPart n.val { p with state := .saving, drainId := t.m.nextId }))) ∧
      (p.state = .saving →
        let ranges := p.cores.map fun j => (j, s.liveRanges (coreKey j))
        let total := p.liveBase + liveBytes ranges
        let r := (s.countDrain p ranges).drain n.val (s.pieces p ranges) total (total / 0x10000 + 2)
        (∀ t va, r = (t, some va) → Happens (.saveDrainEnd n) s ((t.setPart n.val { t.part n.val with state := .incomplete }).stateNotice
          n.val false va (t.part n.val).progress)) ∧
        (∀ t, r = (t, none) → ∃ u, exec (.saveDrainEnd n) s = .next u ∧ (u.part n.val).state = .saved ∧
          u.sh.mem = t.sh.mem.write ((t.part n.val).drained.headD 0 + 8) 8 1)) ∧
      (p.state = .resuming →
        (p.tr ≤ s.now + 1000 → Happens (.resumeStart n true) s (s.unresumed n.val)) ∧
        (p.tr ≤ s.now → s.restored n.val = none → Happens (.resumeStart n false) s (s.unresumed n.val)) ∧
        (∀ pages, p.restore = some pages → s.restored n.val = (s.area (pages.headD 0)).map fun a =>
          (s.putArea n.val { a with pages := pages }).forget a.ranges) ∧
        (∀ d r a t ps, p.restore = none → p.before = .saved → p.drained = d :: r → s.areaAt d = some a →
          (s.savePages n.val p.saveva a.size = (t, some ps) →
            s.restored n.val = some ((t.readBack { a with pages := ps }).forget a.ranges)) ∧
          (s.savePages n.val p.saveva a.size = (t, none) → s.restored n.val = none)) ∧
        (∀ t, p.tr ≤ s.now → s.restored n.val = some t → (∀ j ∈ (t.part n.val).keys, ∀ e ∈ (t.core j).flyUe, e.2 ≠ 9) →
          ∃ u, exec (.resumeStart n false) s = .next u ∧
            (u.part n.val).state = (if (t.part n.val).fatal then .armed else .active) ∧ (u.part n.val).since = none ∧
            (u.part n.val).held = (t.part n.val).held + (s.cycle - (t.part n.val).since.getD s.cycle) ∧ u.sh.mem = t.sh.mem ∧
            ∀ j d, (u.ctx j d).regs = (t.ctx j d).regs ∧ (u.ctx j d).pc = (t.ctx j d).pc ∧ (u.ctx j d).run = (t.ctx j d).run) ∧
        (p.tr ≤ s.now → p.restore = none → p.before ≠ .saved → (∀ j ∈ p.keys, ∀ e ∈ (s.core j).flyUe, e.2 ≠ 9) → ∃ u, exec (.resumeStart n false) s = .next u ∧
          (u.part n.val).state = (if p.fatal then .armed else .active) ∧ (u.part n.val).since = none ∧
          (u.part n.val).held = p.held + (s.cycle - p.since.getD s.cycle) ∧
          ∀ j d, (u.ctx j d).regs = (s.ctx j d).regs ∧ (u.ctx j d).pc = (s.ctx j d).pc ∧ (u.ctx j d).run = (s.ctx j d).run))) ∧
    (∀ m q, (s.core k).resetting = some m → s.partOf k = some q → (s.part q).live = true →
      Happens (.resetComplete k) s (((s.zeroCore k).updCore k fun co => { co with resetting := none }).report q 3 (some k) 0 0 m
        (at_ (index k) 0) 0 0 0) ∧
      (s.Canonical → ∀ o, o < localSize k → (o < (s.core k).spillBase ∨ (s.core k).spillBase + (s.core k).spillLen ≤ o) →
        (s.zeroCore k).sh.mem.get (Loc.local_ k o) = 0))

/-- R340, R341, R343 to R346, R354, R361 to R363, R376, R377, R383, R390, R391, R407, R409: the partition commands, accepted and
refused, and their words. A refused command changes nothing but the access's completion. The model's readings: what DESTROY leaves idle and
discarded (log entry 35), the order of the statuses (55), that the contexts of a core are cleared in the step of RESETCORE (57), what it
keeps of a commit that has begun (127), that RESTORE looks for a record of the save area by its header and refuses one that has none
(`State.area`, `State.areaOk`; 20).
Completes: `create`, `destroy`, `launch`, `preempt`, `resume`, `restore`, `savecont`, `resetcore`, `shoot`, `mapdone`. -/
def Obligations.HostCommands : Prop :=
  ∀ (s : State) (p : Fin 2) (n : Fin 64),
    (∀ i, CommandOf p n i → s.portUp p = true →
      (s.mg.state ≠ .ready → Happens i s (s.status p 1)) ∧
      (s.mg.state = .ready → (s.part n.val).state ≠ .free → (s.part n.val).owner ≠ p → s.holds p n = false →
        Happens i s (s.status p 3))) ∧
    (s.Accepts p n → let q := s.part n.val
      (∀ x : CreateArgs, x.part = n →
        (s.holds p n = false → Happens (.create p x) s (s.status p 3)) ∧
        (s.holds p n = true → q.state ≠ .free → Happens (.create p x) s (s.status p 1)) ∧
        (s.holds p n = true → q.state = .free → s.createBad x = true → Happens (.create p x) s (s.status p 2)) ∧
        (s.holds p n = true → q.state = .free → s.createBad x = false → ∃ t, exec (.create p x) s = .next t ∧
          (t.part n.val).state = .active ∧ (t.part n.val).pallets = x.pallets ∧ (t.part n.val).hods = x.hods ∧
          (t.part n.val).config = x.config ∧ (t.part n.val).job = x.job ∧ (t.part n.val).group = x.group ∧
          (t.part n.val).root = x.root ∧ (t.part n.val).owner = p ∧ t.ports[p].last = ⟨false, 0, 0⟩ ∧
          (∀ j ∈ (t.part n.val).keys, t.core j = Core.init))) ∧
      (q.state.ends = false → Happens (.destroy p n) s (s.status p 1)) ∧
      (q.state.ends = true → ∃ t, exec (.destroy p n) s = .next t ∧ t.part n.val = Part.init ∧ t.ports[p].last = ⟨false, 0, 0⟩ ∧
        ∀ j ∈ q.keys, ∀ c, (t.ctx j c).run = .idle ∧ (t.core j).csr.seg = Vector.replicate 4 0 ∧ (t.core j).rq = []) ∧
      (∀ x : LaunchArgs, x.part = n → s.Early n →
        (s.launchBad x = true → Happens (.launch p x) s (s.status p 2)) ∧
        (s.launchBad x = false → s.launchBusy x = true → Happens (.launch p x) s (s.status p 5)) ∧
        (s.launchBad x = false → s.launchBusy x = false → ∃ t id, exec (.launch p x) s = .next t ∧
          t.launches = s.launches ++ [⟨id, p, x, none⟩] ∧ t.sh = s.sh ∧ t.ports[p].last = ⟨false, 0, 0⟩ ∧
          ∀ j ∈ x.targets, ∀ e ∈ x.named, (t.core j).csr.seg[e.1].toNat % 4 = 1)) ∧
      (q.state ≠ .active → q.state ≠ .armed → ∀ x : LaunchArgs, x.part = n → Happens (.launch p x) s (s.status p 1)) ∧
      (q.state = .armed → q.t < s.now + 2000 → ∀ (x : LaunchArgs) k, x.part = n →
        Happens (.launch p x) s (s.status p 4) ∧ Happens (.resetcore p n k) s (s.status p 4)) ∧
      (∀ t va len, (q.state ≠ .active → Happens (.preempt p n t va len) s (s.status p 1)) ∧
        (q.state = .active → va.toNat < 2 ^ 57 → va.toNat % 0x10000 = 0 → len % 0x10000 = 0 →
          ((t < s.now + 2000 ∨ s.now + 2 ^ 32 < t) → Happens (.preempt p n t va len) s (s.status p 4)) ∧
          (s.now + 2000 ≤ t → t ≤ s.now + 2 ^ 32 → Happens (.preempt p n t va len) s ((s.setPart n.val { q with
            state := .armed, t := t, saveva := va, savelen := len, progress := 0, drained := [] }).status p 0)))) ∧
      (∀ t, s.timeOk t = true → q.fatal = false → (q.state = .stopped ∨ q.state = .saved ∨ q.state = .incomplete) →
        Happens (.resume p n t) s ((s.setPart n.val { q with
          state := .resuming, tr := t, before := q.state, restore := none }).status p 0)) ∧
      (∀ t, (q.fatal = true ∨ (q.state ≠ .stopped ∧ q.state ≠ .saved ∧ q.state ≠ .incomplete)) →
        Happens (.resume p n t) s (s.status p 1)) ∧
      (∀ t va, q.state = .active → farAddr va = true → va.toNat % 0x10000 = 0 → s.timeOk t = true →
        (∀ j ∈ q.keys, (s.core j).kq = [] ∧ ∀ c, (s.ctx j c).run = .idle) →
        (∀ u l v o, s.translate n.val va.toNat 0 .read true = .ok (u, l) → u.areaOk q (l.phys va.toNat) = true →
          u.savePages n.val va (((u.area (l.phys va.toNat)).map SaveArea.size).getD 0) = (v, o) →
          (∀ ps, o = some ps → Happens (.restore p n t va) s ((v.setPart n.val { q with
            state := .resuming, tr := t, before := .active, restore := some ps, since := some v.cycle }).status p 0)) ∧
          (o = none → Happens (.restore p n t va) s (s.status p 6))) ∧
        (∀ u l, s.translate n.val va.toNat 0 .read true = .ok (u, l) → u.areaOk q (l.phys va.toNat) = false →
          Happens (.restore p n t va) s (s.status p 6)) ∧
        (∀ e, s.translate n.val va.toNat 0 .read true = .error e → Happens (.restore p n t va) s (s.status p 6))) ∧
      (∀ va len, q.state = .incomplete → farAddr va = true → va ≠ 0 → va.toNat % 0x10000 = 0 → len % 0x10000 = 0 →
        Happens (.savecont p n va len) s ((s.freshId.2.setPart n.val { q with
          state := .saving, drainId := s.m.nextId, saveva := va, savelen := len, progress := if va = q.saveva then q.progress else 0,
          drained := if va = q.saveva then q.drained else [] }).status p 0)) ∧
      (∀ va len, q.state ≠ .incomplete → Happens (.savecont p n va len) s (s.status p 1)) ∧
      (∀ k, s.Early n → (isHod k = true ∨ q.has k = false) → Happens (.resetcore p n k) s (s.status p 2)) ∧
      (∀ k, s.Early n → isHod k = false → q.has k = true → ∃ t, exec (.resetcore p n k) s = .next t ∧
        (t.core k).resetting.isSome = true ∧ (t.core k).rq = [] ∧ (t.core k).kq = [] ∧ (∀ a ∈ (t.core k).attempts, ∃ x y, a.stage = .committing none x y) ∧
        ∀ c, (t.ctx k c).run = .idle ∧ (t.ctx k c).regs = Regs.init) ∧
      (∀ sc va, q.fatal = true → q.live = false → Happens (.shoot p n sc va) s (s.status p 1)) ∧
      (∀ sc va, q.state ≠ .free → (q.fatal = false ∨ q.live = true) → (sc = 2 ∨ farAddr va = true) → ∃ t us, exec (.shoot p n sc va) s = .next t ∧
        t.shoots = s.shoots ++ [⟨p, n.val, sc, va, s.pageAt n.val va.toNat, us⟩] ∧ t.sh = s.sh ∧
        (∀ l ∈ (t.core (hodKey (sliceOf q.hods va.toNat))).tlb, sc ≠ 2 → shot n.val sc va l = false) ∧
        (sc = 2 → ∀ h ∈ hodsOf q.hods, ∀ l ∈ (t.core (hodKey h)).tlb, l.part ≠ n.val)) ∧
      (∀ k c va a1 a2, q.live = true → q.has k = true →
        Happens (.mapdone p n k c va a1 a2) s ((s.offer k (entry 7 s.device 0 false 0 0 0 a1
          (at_ 2 0 ||| at_ c.val 8 ||| BitVec.ofNat 64 (a2.toNat % 2 ^ 54 * 1024)) va 0 0) false).status p 0))) ∧
    (s.portUp p = true → ∀ d : BitVec 2048,
      (∀ tr, tr < 2 ^ 64 → d.toNat = 4 + n.val * 256 + tr <<< 64 →
        s.access p true 0x1000 256 d = evResume p n tr s) ∧
      (∀ k : Nat, k < 4096 → d.toNat = 7 + n.val * 256 + k <<< 64 →
        s.access p true 0x1000 256 d = evResetcore p n (coreKey k) s) ∧
      (d.toNat = 8 + n.val * 256 → s.access p true 0x1000 256 d = evDestroy p n s) ∧
      ((d.toNat % 256 = 0 ∨ 10 < d.toNat % 256) → s.access p true 0x1000 256 d =
        some (s.status p (if s.mg.state = .ready then 2 else 1))))

/-- R386, R387, R392 to R395, R432: injection records accepted and refused, accesses to the aperture, notices popped, a port's link
lost. The model's readings: the alignment of the addresses of TYPE 2 and 3 (log entry 21), that a TYPE 4 record is accepted before its
descriptor is captured and checked, which happens when it is performed (22), TYPE 5 written in the step of its record and
refused with status 1 in SELFTEST and VERIFY (54), the credit of the first hop (113).
Completes: `injActiveMessage`, `injQueueMessage`, `injLineWrite`, `injLineRead`, `injTxnSubmit`, `injFarWrite`, `noteRead`,
`hostLinkLoss`. -/
def Obligations.HostRecords : Prop :=
  ∀ (s : State) (p : Fin 2) (x : InjRec),
    (∀ kind i, kind.Event p x i →
      (s.Takes kind p x → ∃ t id r, exec i s = .next t ∧ t.ports[p].inj = s.ports[p].inj ++ [id] ∧
        t.ports[p].last = ⟨false, 0, 0⟩ ∧ t.sh.mem = s.sh.mem ∧ t.cores = s.cores ∧
        t.sh.fabric = s.sh.fabric ++ [.req r (if kind = .txn then ⟨s.device, (coreKey (coreOf x.addr)).val⟩ else s.owner x.addr) 0] ∧
        r.id = id ∧ r.part = x.part.val ∧ r.host = some p ∧ r.htag = x.htag ∧
        (kind = .message → r.op = .send false x.addr x.arg1 x.arg2 x.sup) ∧
        (kind = .queue → r.op = .send true x.addr x.arg1 x.arg2 x.sup) ∧
        (kind = .write → r.op = .post (.mc x.addr 1 1 .i64 (BitVec.allOnes 64) x.data)) ∧
        (kind = .read → r.op = .loadv x.addr .i64 (BitVec.allOnes 64)) ∧
        (kind = .txn → r.op = .tsub (.named x.addr) none)) ∧
      (s.portUp p = true →
        (s.mg.state ≠ .ready → Happens i s (s.status p 1)) ∧
        (s.mg.state = .ready →
          (x.rsv = true → Happens i s (s.status p 2)) ∧
          (x.sup = true → kind ≠ .message → kind ≠ .queue → Happens i s (s.status p 2)) ∧
          (x.rsv = false → (x.sup = true → kind = .message ∨ kind = .queue) →
            ((s.part x.part.val).live = false → Happens i s (s.status p 1)) ∧
            ((s.part x.part.val).live = true →
              (s.injAddr kind x.part.val x.addr = false → Happens i s (s.status p 2)) ∧
              (s.injAddr kind x.part.val x.addr = true → (32 ≤ s.ports[p].inj.length ∨ s.hopFree kind x = false) →
                Happens i s (s.reply p true 7 0))))))) ∧
    (∀ kind, ((s.owner x.addr).dev = s.device ∨ kind = .txn) → s.hopFree kind x = true) ∧
    (∀ (w : Bool) (off size : Nat) (d : BitVec 2048), s.portUp p = true →
      (size ≠ 8 → size ≠ 128 → size ≠ 256 → s.access p w off size d = some (s.status p 2)) ∧
      (0x3200 ≤ off → off < 0x10000 → s.access p w off size d = some (s.status p 2)) ∧
      (0x11000 ≤ off → s.access p w off size d = some (s.status p 2)) ∧
      (6 ≤ bits (dataWord d 0) 63 60 → s.access p true 0 128 d = some (s.status p (if s.mg.state = .ready then 2 else 1))) ∧
      ∀ (n : Nat) (v : Word), s.mgmtRead p n = some v → n < 0x1000 → n % 8 = 0 →
        s.access p false (0x10000 + n) 8 d = some (s.reply p false 0 (v.setWidth 1024))) ∧
    (s.portUp p = true →
      ((s.mg.state = .selftest ∨ s.mg.state = .verify) → Happens (.injFarWrite p x) s (s.status p 1)) ∧
      (∀ a, a = x.addr.toNat → s.mg.state ≠ .selftest → s.mg.state ≠ .verify → x.rsv = false → x.sup = false →
        ((Loc.farEnd ≤ a ∨ a % 64 ≠ 0 ∨ (s.mg.state ≠ .ready ∧ a < 0x5FF0000000)) →
          Happens (.injFarWrite p x) s (s.status p 2)) ∧
        (a < Loc.farEnd → a % 64 = 0 → (s.mg.state = .ready ∨ 0x5FF0000000 ≤ a) → s.ports[p].inj.length < 32 →
          Happens (.injFarWrite p x) s (((s.putFar ((List.range 64).map fun i =>
            (a + i, BitVec.ofNat 8 (x.data.toNat >>> (8 * i)), false))).notice p
              (hostNotice 0 0 false 0 8 x.addr 0 (at_ x.htag.toNat 0) 0 0 0)).status p 0))) ∧
      (s.ports[p].notices = [] → Happens (.noteRead p) s (s.reply p false 0 (BitVec.ofNat 1024 (15 <<< 60)))) ∧
      (∀ e es, s.ports[p].notices = e :: es → ∃ t, exec (.noteRead p) s = .next t ∧ t.ports[p].notices = es ∧
        t.ports[p].last = ⟨false, 0, e⟩ ∧ t.sh = s.sh ∧ t.cores = s.cores) ∧
      (∃ t, exec (.hostLinkLoss p) s = .next t ∧ t.ports[p].up = false ∧ t.ports[p].notices = s.ports[p].notices ∧
        t.ports[p + 1] = s.ports[p + 1] ∧ ∀ m : Fin 64, t.sems[m] = if s.sems[m].val = p.val + 1 then 0 else s.sems[m]))

/-- R5, R396, R398 to R400, R404, R411 to R413: links come up with common versions, credits return, are reported and hold messages
back, a flit that arrives frees its buffers, reserved flits are discarded, time is corrected, ports die and are replaced, drain rounds end, memories are patrolled. The
name of a hop and the OPER of a link-state flit are log entry 112, class 8 to both ports is 59, the credit-only flit outside the counts
126, the packets that a drain keeps 128; the channel of a time flit is a free value (`Config.channel`, log entry 116).
Completes: `linkUp`, `creditReturn`, `creditFlitTimer`, `rsvFlitDiscard`, `timeFlit`, `linkStateFlit`, `portDead`, `standbyTakeover`,
`drainRound`, `patrolRead`. -/
def Obligations.LinkEvents : Prop :=
  ∀ (s : State) (p : Fin 18) (vc : Fin 8),
    (∀ (q : Fin 20) th, settled q th = if interfaces q ≤ th.length ∧ ∀ r ∈ th.take (interfaces q), r.1 ≤ 0x10000 ∧ 0x10000 ≤ r.2
      then some (List.replicate (interfaces q) 0x10000) else none) ∧
    (s.mg.power = true → ∀ th d,
      (∀ q, settled q th = none → Happens (.linkUp q ⟨th, d⟩) s (s.reportPorts 8)) ∧
      (∀ q : Fin 20, q.val < 2 → (settled q th).isSome = true → ∃ t, exec (.linkUp q ⟨th, d⟩) s = .next t ∧
        t.ports[Fin.ofNat 2 q.val].up = true ∧ t.sems = s.sems ∧ t.slaup = s.slaup) ∧
      (∀ q : Fin 20, q.val = p.val + 2 → (settled q th).isSome = true → s.mg.state = .ready → s.slaup[p].dead = false →
        ∃ t, exec (.linkUp q ⟨th, d⟩) s = .next t ∧ t.slaup[p].up = true ∧ t.slaup[p].delay = d ∧
          ∀ j : Fin 8, t.slaup[p].ctl[j] = Credit.init ∧ t.slaup[p].dat[j] = Credit.init)) ∧
    (s.slaup[p].up = true → ∀ (data : Bool) (cnt : BitVec 16),
      let c := if data then s.slaup[p].dat[vc] else s.slaup[p].ctl[vc]
      (2 ^ 15 ≤ (cnt - c.ret).toNat → ∃ t, exec (.creditReturn p vc data cnt) s = .next t ∧ t.slaup[p].flit = s.now ∧
        t.slaup[p].stalecr = Min.min (s.slaup[p].stalecr + 1) 0xFFFFFFFF ∧ t.slaup[p].ctl = s.slaup[p].ctl ∧
        t.slaup[p].dat = s.slaup[p].dat) ∧
      ((cnt - c.ret).toNat < 2 ^ 15 → ∃ t, exec (.creditReturn p vc data cnt) s = .next t ∧ t.slaup[p].flit = s.now ∧
        (if data then t.slaup[p].dat[vc] else t.slaup[p].ctl[vc]) = { c with ret := cnt } ∧
        t.slaup[p].stalecr = s.slaup[p].stalecr ∧ ∀ j : Fin 8, j ≠ vc →
          t.slaup[p].dat[j] = s.slaup[p].dat[j] ∧ t.slaup[p].ctl[j] = s.slaup[p].ctl[j])) ∧
    (∀ i m, s.msg i = some m → s.slaup[p].hasCredit m.channel m.ndata = false → s.emit i p = none) ∧
    (∀ (x : SlaupPort) (n : Nat), (x.sends vc n).ctl[vc].sent = x.ctl[vc].sent + 1 ∧
      (x.sends vc n).dat[vc].sent = x.dat[vc].sent + BitVec.ofNat 16 n) ∧
    (s.slaup[p].up = true →
      (s.slaup[p].unreported = true ∨ s.slaup[p].credited + 1000 ≤ s.now) →
      ∃ t, exec (.creditFlitTimer p) s = .next t ∧ t.slaup[p].credited = s.now ∧
        t.slaup[p].rotate = s.slaup[p].rotate + 1 ∧
        (∀ j : Fin 8, t.slaup[p].ctl[j].sent = s.slaup[p].ctl[j].sent ∧ t.slaup[p].dat[j].sent = s.slaup[p].dat[j].sent) ∧
        flitBits t.slaup[p].wire 252 248 = 0 ∧ flitBits t.slaup[p].wire 31 29 = s.slaup[p].rotate.val % 8 ∧
        flitBits t.slaup[p].wire 28 28 = s.slaup[p].rotate.val / 8 ∧
        flitBits t.slaup[p].wire 27 12 = (if h : s.slaup[p].rotate.val < 8 then
          s.slaup[p].ctl[s.slaup[p].rotate.val].freed.toNat else s.slaup[p].dat[s.slaup[p].rotate.val - 8].freed.toNat) ∧
        (if h : s.slaup[p].rotate.val < 8 then
          t.slaup[p].ctl[s.slaup[p].rotate.val].reported = s.slaup[p].ctl[s.slaup[p].rotate.val].freed
        else t.slaup[p].dat[s.slaup[p].rotate.val - 8].reported = s.slaup[p].dat[s.slaup[p].rotate.val - 8].freed)) ∧
    (s.slaup[p].up = true → ∃ t, exec (.rsvFlitDiscard ⟨p, vc⟩) s = .next t ∧
      t.slaup[p].badflit = Min.min (s.slaup[p].badflit + 1) 0xFFFFFFFF ∧ t.slaup[p].flit = s.now ∧
      t.slaup[p].ctl[vc].freed = s.slaup[p].ctl[vc].freed + 1 ∧ t.slaup[p].dat = s.slaup[p].dat ∧ t.sh = s.sh) ∧
    (∀ n : Nat, let x := (s.freed p vc n).slaup[p]
      x.ctl[vc].freed = s.slaup[p].ctl[vc].freed + 1 ∧ x.dat[vc].freed = s.slaup[p].dat[vc].freed + BitVec.ofNat 16 n ∧
      x.flit = s.now ∧ ∀ j : Fin 8, j ≠ vc → x.ctl[j] = s.slaup[p].ctl[j] ∧ x.dat[j] = s.slaup[p].dat[j]) ∧
    (s.mg.state = .ready →
      (∀ ts, s.slaup[p].up = true → ∃ t, exec (.timeFlit ⟨p, ts⟩) s = .next t ∧
        t.slaup = (s.freed p (Config.channel 10) 0).slaup ∧ t.dom.joined = true ∧
        t.now = (if s.dom.joined = true then Max.max s.now (ts + s.slaup[p].delay) else ts + s.slaup[p].delay)) ∧
      (∀ ident sq, s.slaup[p].up = true → let u := s.freed p 7 0
        ((ident, sq) ∈ s.dom.pairs → Happens (.linkStateFlit ⟨p, ident⟩ sq) s u) ∧
        ((ident, sq) ∉ s.dom.pairs →
          let ms := u.toward fun dev q => decide (hopName dev q = ident)
          let d := { s.dom with pairs := s.dom.pairs ++ [(ident, sq)], stuck := s.dom.stuck ++ ms }
          ∃ t, exec (.linkStateFlit ⟨p, ident⟩ sq) s = .next t ∧
            t.dom = (if ms.isEmpty then d else d.drains s.now) ∧ t.slaup = u.slaup ∧
            t.sh.fabric = s.sh.fabric ++ ((List.finRange 18).filter fun q => s.slaup[q].up && !s.slaup[q].dead).map fun q =>
              .ctl q 11 (BitVec.ofNat 64 (ident % 2 ^ 16 * 2 ^ 16 + sq.toNat)))) ∧
      (s.slaup[p].dies s.now = true → ∃ t, exec (.portDead p) s = .next t ∧ t.slaup[p].dead = true ∧ t.slaup[p].up = false ∧
        t.slaup[p].seq = s.slaup[p].seq + 1 ∧ t.dom.deaths = s.dom.deaths ++ [p] ∧
        t.dom.pairs = s.dom.pairs ++ [(hopName s.device (s.slaup[p].plane p), s.slaup[p].seq + 1)] ∧
        t.sh.fabric = (s.sh.fabric.filter fun m => m.ctlAt ≠ some p) ++
          ((List.finRange 18).filter fun q => decide (q ≠ p) && s.slaup[q].up && !s.slaup[q].dead).map (fun q =>
            .ctl q 11 (BitVec.ofNat 64 (linkOper (hopName s.device (s.slaup[p].plane p)) (s.slaup[p].seq + 1)))) ∧
        (∀ m, m ∈ t.dom.stuck ↔ m ∈ s.dom.stuck ∨ (m ∈ s.sh.fabric ∧ m.leaves s.device ≠ none ∧
          s.planeOf m = some (s.slaup[p].plane p))) ∧
        (s.dom.draining = none → t.dom.draining = some (0, (s.now / 10000 + 1) * 10000)))) ∧
    (∀ (x : SlaupPort) (now : Nat), x.dies now = true ↔ x.dead = false ∧ (16 ≤ x.fails ∨ (x.up = true ∧ x.flit + 2000 ≤ now) ∨
      ∃ t, x.downAt = some t ∧ t + 10000 ≤ now)) ∧
    (∀ q : Fin 18, s.dom.standby p = some q → s.slaup[q].dead = false → s.slaup[q].standbyFor = none →
      ∃ t, exec (.standbyTakeover p) s = .next t ∧ t.slaup[q].standbyFor = some p ∧ t.slaup[q].up = true) ∧
    (∀ (a b : Fin 18) r, (s.dom.deaths.filter fun q => decide (q.val < 16)) = a :: b :: r → a ≠ b →
      s.dom.standby a = some 16 ∧ s.dom.standby b = some 17) ∧
    (∀ j t, s.dom.draining = some (j, t) → t ≤ s.now →
      let q := s.sh.fabric.filter s.drained
      let out := ((List.finRange 18).filter fun p => s.slaup[p].up && !s.slaup[p].dead).map fun p =>
        Msg.ctl p 12 (BitVec.ofNat 64 (s.dom.drainRound + 1))
      (q = [] → ∃ u, exec (.drainRound (s.dom.drainRound + 1) j t) s = .next u ∧ u.dom.drainRound = s.dom.drainRound + 1 ∧
        u.dom.draining = none ∧ u.dom.stuck = [] ∧ u.sh.fabric = s.sh.fabric ++ out) ∧
      (q ≠ [] → (∀ m ∈ q, s.unfrozen m = false) → Happens (.drainRound (s.dom.drainRound + 1) j t) s
        { s with dom := { s.dom with draining := some (j, t + 10000) } }) ∧
      ((∃ m ∈ q, s.unfrozen m = true) → ∃ u, exec (.drainRound (s.dom.drainRound + 1) j t) s = .next u ∧
        u.dom.drainRound = s.dom.drainRound + 1 ∧ u.dom.stuck = q.filter (fun m => !s.unfrozen m) ∧
        u.dom.draining = (if (q.all s.unfrozen) = true ∧ 4 ≤ j + 1 then none else some (j + 1, t + 10000)) ∧
        u.dom.drainDrop = Min.min (s.dom.drainDrop + (s.sh.fabric.filter s.lost).length) 0xFFFFFFFF ∧
        u.dom.kept = s.dom.kept ++ (s.sh.fabric.filter s.lost).filter Msg.keeps ∧
        (∀ m, m.keeps = true → s.sh.fabric.count m ≤ u.sh.fabric.count m) ∧
        ((∀ m ∈ s.sh.fabric, s.lost m = true → m.keeps = true) → u.sh.fabric = s.sh.fabric ++ out))) ∧
    (∀ k : Key, s.mg.power = true → (s.core k).patrolled < s.cycle / 4096 → ∃ t, exec (.patrolRead k) s = .next t ∧
      (t.core k).patrolled = s.cycle / 4096 ∧ t.sh.mem = s.sh.mem ∧ t.sh.ue = s.sh.ue ∧
      (∀ w ∈ t.sh.ce, w ∈ s.sh.ce) ∧ ∀ c, (t.ctx k c).regs = (s.ctx k c).regs)

/-- R417 to R419, R421, R426, R429: debug stops, resumptions, single steps, reverse steps, reads, trace records and their
rate. The line of a history entry is a free value (log entry 25), which also numbers log entries from the newest; a first reverse step
that is refused ends the command with status 1 (24); what `DSTEP` counts is log entry 84, where a stop of scope 1 lands log entry 123,
and what an undo entry in error does to `DRSTEP` and `DREAD` log entry 141.
Completes: `traceRateAdjust`, `dstop`, `dgo`, `dstep`, `drstep`, `dread`, `dtread`. -/
def Obligations.DebugEvents : Prop :=
  ∀ (s : State) (p : Fin 2) (n : Fin 64) (k : Key) (c : CtxNo),
    (s.Accepts p n → ∀ m sc sk a cls,
      ((s.part n.val).live = false → ∀ i ∈ [Instr.dstop p n k m sc, .dgo p n k m sk, .dstep p n k c a, .drstep p n k c a,
        .dread p n k c cls a, .dtread p n k a], Happens i s (s.status p 1)) ∧
      ((s.part n.val).live = true → ((s.part n.val).config.getLsbD 63 = false ∨ (s.part n.val).has k = false) →
        ∀ i ∈ [Instr.dstop p n k m sc, .dgo p n k m sk, .dstep p n k c a, .drstep p n k c a, .dread p n k c cls a],
          Happens i s (s.status p 2))) ∧
    (s.Debugs p n k →
      (∀ m : BitVec 4, m = 1#4 <<< c.val →
        ((s.ctx k c).stopsNow = true → ∃ t, exec (.dstop p n k m 0) s = .next t ∧ t.ports[p].last = ⟨false, 0, 0⟩ ∧
          s.StoppedAs t k c 0 ∧ ∀ d, d ≠ c → t.ctx k d = s.ctx k d) ∧
        ((s.ctx k c).stopsNow = false → (s.ctx k c).isStopped = false → ∃ t, exec (.dstop p n k m 0) s = .next t ∧
          (t.ctx k c).run = (s.ctx k c).run ∧ (t.ctx k c).aux.dbg.want = some 0) ∧
        ((s.core k).csr.dm[0].getLsbD 63 = false → ∃ t, exec (.dstop p n k m 1) s = .next t ∧
          (t.ctx k c).run = (s.ctx k c).run ∧ (t.ctx k c).aux.dbg.want = some 1) ∧
        (((s.ctx k c).csr.txbody = true ∨ (s.ctx k c).aux.recon.isSome = true) → ∃ t, exec (.dstop p n k m 2) s = .next t ∧
          (t.ctx k c).run = (s.ctx k c).run ∧ (t.ctx k c).aux.dbg.want = some 2) ∧
        ((s.ctx k c).csr.txbody = false → (s.ctx k c).aux.recon = none → (s.ctx k c).stopsNow = true →
          ∃ t, exec (.dstop p n k m 2) s = .next t ∧ t.ports[p].last = ⟨false, 0, 0⟩ ∧ s.StoppedAs t k c 0) ∧
        (∀ sk sc, (s.ctx k c).run = .stopped sc → sc ≠ 2 →
          ((sk = false ∨ s.atBreak k c = none ∨ s.slaved k c = true) → ∃ t, exec (.dgo p n k m sk) s = .next t ∧
            t.ports[p].last = ⟨false, 0, 0⟩ ∧ (t.ctx k c).run = .running ∧ (t.ctx k c).pc = (s.ctx k c).pc ∧
            (t.ctx k c).regs = (s.ctx k c).regs ∧ (t.ctx k c).aux.dbg = ⟨none, none, sk && (s.atBreak k c).isSome && s.slaved k c⟩) ∧
          (∀ w, sk = true → s.atBreak k c = some w → s.slaved k c = false → (s.ctx k c).faulty = false →
            ∃ t, exec (.dgo p n k m sk) s = .next t ∧ t.ports[p].last = ⟨false, 0, 0⟩ ∧ (t.ctx k c).run = .running ∧
              (t.ctx k c).pc = nextPc (s.ctx k c).pc w ∧ (t.ctx k c).regs = (s.ctx k c).regs ∧
              (t.ctx k c).aux.dbg = ⟨none, none, false⟩ ∧
              (t.ctx k c).aux.hist.map (·.pc) = ((s.ctx k c).pc :: (s.ctx k c).aux.hist.map (·.pc)).take 128)) ∧
        (∀ sk, (s.ctx k c).isStopped = false → Happens (.dgo p n k m sk) s (s.status p 5))) ∧
      (∀ a sc, 1 ≤ a → a ≤ 255 → (s.ctx k c).run = .stopped sc → sc ≠ 2 → ∃ t, exec (.dstep p n k c a) s = .next t ∧
        t.ports[p].last = ⟨false, 0, 0⟩ ∧ (t.ctx k c).run = .running ∧ (t.ctx k c).aux.dbg = ⟨none, some a, false⟩ ∧
        (t.ctx k c).pc = (s.ctx k c).pc ∧ (t.ctx k c).regs = (s.ctx k c).regs) ∧
      (∀ a, 1 ≤ a → a ≤ 255 → (s.ctx k c).isStopped = false → Happens (.dstep p n k c a) s (s.status p 5)) ∧
      (∀ a, (a = 0 ∨ 255 < a) → Happens (.dstep p n k c a) s (s.status p 2)) ∧
      (∀ a, 1 ≤ a → a ≤ 128 →
        ((∃ d, (s.ctx k d).isStopped = false ∧ (s.ctx k d).run ≠ .idle) → Happens (.drstep p n k c a) s (s.status p 5)) ∧
        ((∀ d, (s.ctx k d).isStopped = true ∨ (s.ctx k d).run = .idle) →
          (s.backErrors k c = 0 →
            (s.stepBack k c = none → Happens (.drstep p n k c a) s (s.status p 1)) ∧
            (∀ t, s.stepBack k c = some t → a = 1 →
              Happens (.drstep p n k c a) s ((t.debugReply p 4 0 1 n 0 0).status p 0))) ∧
          (s.backErrors k c ≠ 0 → Happens (.drstep p n k c a) s
            (((s.fatalAt k c (s.backErrors k c)).debugReply p 4 1 0 n 0 0).status p 0)))) ∧
      (∀ h r, (s.ctx k c).aux.hist = h :: r → h.irrev = false → (∀ q ∈ h.seqs, ∃ e, (s.core k).logAt q = some e ∧
          (s.core k).overwritten c q e = false) →
        ∃ t, s.stepBack k c = some t ∧ (t.ctx k c).pc = h.pc ∧ (t.ctx k c).aux.hist = r ∧
          (∀ sc, (s.ctx k c).run = .stopped sc → (t.ctx k c).run = .stopped 0) ∧
          (t.core k).logHead = (s.core k).logHead ∧ (∀ d, (t.ctx k d).regs.g = (s.ctx k d).regs.g) ∧
          (∀ q e u, h.seqs = [q] → (s.core k).logAt q = some e → e.kind = .reg c 0 u 0 → u ≠ 0 →
            (t.ctx k c).x u = e.old)) ∧
      (∀ h r, (s.ctx k c).aux.hist = h :: r → h.irrev = true → s.stepBack k c = none) ∧
      ((s.ctx k c).aux.hist = [] → s.stepBack k c = none) ∧
      (∀ a : Nat,
        (∀ h : a < 32, Happens (.dread p n k c .x a) s ((s.debugReply p 5 0 0 n a (((s.ctx k c).x ⟨a, h⟩).setWidth 512)).status p 0) ∧
          Happens (.dread p n k c .v a) s ((s.debugReply p 5 0 0 n a ((s.ctx k c).v ⟨a, h⟩)).status p 0)) ∧
        (∀ h : a < 8, Happens (.dread p n k c .p a) s ((s.debugReply p 5 0 0 n a (((s.ctx k c).p ⟨a, h⟩).setWidth 512)).status p 0) ∧
          Happens (.dread p n k c .g a) s
            ((s.debugReply p 5 0 0 n a ((((s.ctx k c).g ⟨a, h⟩).setWidth 64).setWidth 512)).status p 0)) ∧
        (∀ r, csrRights a = some r → Happens (.dread p n k c .csr a) s
          ((s.debugReply p 5 0 0 n a ((s.csrRead k c a).setWidth 512)).status p 0)) ∧
        (∀ e, (s.core k).log[a]? = some e →
          ((s.core k).logUe.contains ((s.core k).logHead - 1 - a) = false → Happens (.dread p n k c .log a) s
            (((match e.kind with | .slice .. => s.irrevCore k | _ => s).debugReply p 5 0 0 n a
              (BitVec.ofNat 512 (e.old.toNat + e.word.toNat <<< 64))).status p 0)) ∧
          ((s.core k).logUe.contains ((s.core k).logHead - 1 - a) = true → ∃ w : VWord, Happens (.dread p n k c .log a) s
            (((s.freeLine.2.countUe k 1).debugReply p 5 0 0 n a w).status p 0))) ∧
        (∀ cls, s.dread k c cls a = none → Happens (.dread p n k c cls a) s (s.status p 2)) ∧
        (a < (s.ctx k c).aux.hist.length → ∃ (w : VWord) (u : State), u.cores = s.cores ∧ u.sh = s.sh ∧
          Happens (.dread p n k c .hist a) s ((u.debugReply p 5 0 0 n a w).status p 0)))) ∧
    (s.Accepts p n → (s.part n.val).live = true → (s.part n.val).has k = true →
      (∀ a, 1 ≤ a → a ≤ 64 → ∃ t, exec (.dtread p n k a) s = .next t ∧ t.ports[p].last = ⟨false, 0, 0⟩ ∧
        (t.core k).trace.recs = (s.core k).trace.recs.drop a ∧
        (s.core k).trace.recs = (s.core k).trace.recs.take a ++ (t.core k).trace.recs) ∧
      (∀ a, (a = 0 ∨ 64 < a) → Happens (.dtread p n k a) s (s.status p 2))) ∧
    (s.mg.power = true → (s.core k).trace.rated < s.now / 1000 → ∃ t, exec (.traceRateAdjust k) s = .next t ∧
      (t.core k).trace.recs = (s.core k).trace.recs ∧
      (t.core k).trace.rate.val = (if 768 < (s.core k).trace.recs.length then Min.min 7 ((s.core k).trace.rate.val + 1)
        else if (s.core k).trace.recs.length < 256 then (s.core k).trace.rate.val - 1 else (s.core k).trace.rate.val) ∧
      ∀ d, t.ctx k d = s.ctx k d)

/-- R415, R431 to R438: power, temperature, bring-up, firmware, attestation, management registers. The words of the image's header are
log entry 61, the statuses of ATTREQ and SVNSET in other states 62, the layout of a debug command in DCMD 63, the digest and the
keys 6, the sensors 26: what a trip reads is free from 105 °C on.
Completes: `powerGood`, `powerLoss`, `railsOff`, `tempWarning`, `thermalTrip`, `selftestDone`, `verifyDone`, `fwctlWrite`,
`svnsetWrite`, `attreqSign`, `attreqIdentity`, `cdataWrite`, `mgmtRegWrite`. -/
def Obligations.ModuleEvents : Prop :=
  ∀ (s : State) (p : Fin 2),
    (s.mg.power = false → ∃ t, exec .powerGood s = .next t ∧ s.Blank t ∧ t.mg.power = true ∧ t.now = 0 ∧ t.tie = 0 ∧
      ∀ n : Fin 64, t.sems[n] = 0) ∧
    (s.mg.power = true → ∃ t, exec .powerLoss s = .next t ∧ s.Blank t ∧ t.mg.power = false) ∧
    (∀ t0, s.mg.trip = some t0 → s.mg.power = true → (s.allStopped = true ∨ t0 + 50000 ≤ s.now) →
      ∃ t, exec .railsOff s = .next t ∧ s.Blank t ∧ t.mg.power = false) ∧
    (s.mg.power = true →
      (∀ (die : BitVec 4) (c : BitVec 16), 1520 ≤ c.toNat → ∃ t, exec (.tempWarning die c) s = .next t ∧
        t.mg.tempmax = at_ die.toNat 16 ||| at_ c.toNat 0 ∧
        (c.toNat < 1680 → t.cores = s.cores ∧ t.parts = s.parts ∧ t.mg.trip = s.mg.trip ∧
          (s.ports[p].notices.length < 256 → (s.sh.held.any fun h => h.isNotice p) = false →
            t.ports[p].notices = s.ports[p].notices ++
              [hostNotice 0 0 false 0 12 (at_ die.toNat 16 ||| at_ c.toNat 0) 0 0 0 0 0])) ∧
        (1680 ≤ c.toNat → t.mg.trip = some (s.mg.trip.getD s.now) ∧
          (s.mg.trip = none → ∀ n, (s.part n).live = true → (t.part n).fatal = true ∧ (t.part n).state = .armed))) ∧
      (s.mg.trip = none → ∃ t, exec .thermalTrip s = .next t ∧ t.mg.trip = some s.now ∧ 1680 ≤ tempOf t.mg.tempmax ∧
        ∀ n, ((s.part n).live = true → (t.part n).fatal = true ∧ (t.part n).state = .armed) ∧
          ((s.part n).state = .resuming → (t.part n).fatal = true)) ∧
      (s.mg.state = .selftest →
        Happens (.selftestDone true) s { s with mg := { s.mg with state := .waitfw } } ∧
        Happens (.selftestDone false) s { s with mg := { s.mg with state := .failed, fail := 5 } }) ∧
      (s.mg.state = .verify →
        (s.verify s.mg.fwaddr = 0 → ∃ t, exec .verifyDone s = .next t ∧ t.mg.state = .ready ∧ t.mg.fail = 0 ∧
          t.mg.svn = BitVec.ofNat 64 (s.sh.mem.read (s.mg.fwaddr + 16) 8) ∧
          t.mg.measure = shake256 ((List.range (64 + s.sh.mem.read (s.mg.fwaddr + 8) 8)).map fun i =>
            s.sh.mem.get (s.mg.fwaddr + i)) ∧ t.mg.measure.length = 64 ∧
          t.cores = s.cores ∧ t.parts = s.parts) ∧
        (s.verify s.mg.fwaddr ≠ 0 → Happens .verifyDone s
          { s with mg := { s.mg with state := .failed, fail := BitVec.ofNat 8 (s.verify s.mg.fwaddr) } }))) ∧
    (∀ a, let magic := s.sh.mem.read a 8 = 0x4B595237 ∧ s.sh.mem.read (a + 24) 40 = 0
      let len := s.sh.mem.read (a + 8) 8
      let fits := len % 64 = 0 ∧ len ≤ 0x4000000
      (s.verify a = 1 ↔ ¬ magic) ∧ (s.verify a = 2 ↔ magic ∧ ¬ fits) ∧
      (s.verify a = 3 ↔ magic ∧ fits ∧ s.signed a len = false) ∧
      (s.verify a = 4 ↔ magic ∧ fits ∧ s.signed a len = true ∧ s.sh.mem.read (a + 16) 8 < s.mg.svnmin.toNat) ∧
      (s.verify a = 0 ↔ magic ∧ fits ∧ s.signed a len = true ∧ s.mg.svnmin.toNat ≤ s.sh.mem.read (a + 16) 8)) ∧
    (s.portUp p = true →
      (∀ a, (s.mg.state = .waitfw ∨ s.mg.state = .failed) → FirmwareAt a → Happens (.fwctlWrite p a 8) s
        ({ s with mg := { s.mg with state := .verify, fwaddr := a } } |>.status p 0)) ∧
      (∀ a, (s.mg.state = .waitfw ∨ s.mg.state = .failed) → ¬ FirmwareAt a → Happens (.fwctlWrite p a 8) s (s.status p 2)) ∧
      (∀ a, s.mg.state ≠ .waitfw → s.mg.state ≠ .failed → Happens (.fwctlWrite p a 8) s (s.status p 1)) ∧
      (∀ v : BitVec 16, ∃ t, exec (.svnsetWrite p v) s = .next t ∧ s.mg.svnmin.toNat ≤ t.mg.svnmin.toNat ∧
        (t.mg.svnmin = if s.mg.state = .ready ∧ s.mg.svnmin.toNat < v.toNat ∧ v.toNat ≤ s.mg.svn.toNat then v
          else s.mg.svnmin)) ∧
      (∀ a, s.mg.state = .ready → a % 64 = 0 → a < 0x5FF0000000 →
        (s.mg.leafctr < 2 ^ 20 → ∃ t, exec (.attreqSign p a 8) s = .next t ∧ t.mg.leafctr = s.mg.leafctr + 1 ∧
          t.cores = s.cores ∧ t.ports[p].last = ⟨false, 0, 0⟩) ∧
        (2 ^ 20 ≤ s.mg.leafctr → Happens (.attreqSign p a 8) s ((s.notice p
          (hostNotice 0 0 false 0 11 0 (at_ 1 8) 0 0 (at_ a 0) 0)).status p 0)) ∧
        (∃ t, exec (.attreqIdentity p a 8) s = .next t ∧ t.mg.leafctr = s.mg.leafctr ∧ t.cores = s.cores ∧
          t.ports[p].last = ⟨false, 0, 0⟩)) ∧
      (∀ a, s.mg.state ≠ .ready → Happens (.attreqSign p a 8) s (s.status p 1) ∧
        Happens (.attreqIdentity p a 8) s (s.status p 1)) ∧
      (∀ a z, z ≠ 8 → Happens (.attreqSign p a z) s (s.status p 2) ∧ Happens (.attreqIdentity p a z) s (s.status p 2)) ∧
      (∀ c, counterOf s.ports[p].csel = some c →
        Happens (.cdataWrite p 0) s ((s.clearCounter c).status p 0) ∧ (s.clearCounter c).counter c = 0 ∧
        ∀ v, v ≠ 0 → Happens (.cdataWrite p v) s (s.status p 0)) ∧
      (counterOf s.ports[p].csel = none → ∀ v, Happens (.cdataWrite p v) s (s.status p 0)) ∧
      (∀ v : Word,
        exec (.mgmtRegWrite p 0x010 v) s = exec (.fwctlWrite p (v.toNat % 2 ^ 39) 8) s ∧
        exec (.mgmtRegWrite p 0x028 v) s = exec (.svnsetWrite p (v.setWidth 16)) s ∧
        (v.getLsbD 0 = false → exec (.mgmtRegWrite p 0x038 v) s = exec (.attreqSign p (v.toNat % 2 ^ 39 / 64 * 64) 8) s) ∧
        (v.getLsbD 0 = true → exec (.mgmtRegWrite p 0x038 v) s = exec (.attreqIdentity p (v.toNat % 2 ^ 39 / 64 * 64) 8) s) ∧
        exec (.mgmtRegWrite p 0x060 v) s = exec (.cdataWrite p (v &&& 0xFFFFFFFF)) s ∧
        (∃ t, exec (.mgmtRegWrite p 0x058 v) s = .next t ∧ t.ports[p].csel = v &&& 0x1FFF00FF ∧
          t.ports[p + 1].csel = s.ports[p + 1].csel) ∧
        (∀ i : Fin 32, ∃ t, exec (.mgmtRegWrite p (0x100 + 8 * i.val) v) s = .next t ∧ t.ports[p].dcmd[i] = v ∧
          t.ports[p].last = ⟨false, 0, 0⟩ ∧ ∀ j : Fin 32, j ≠ i → t.ports[p].dcmd[j] = s.ports[p].dcmd[j]) ∧
        (∀ off ∈ [0x000, 0x008, 0x018, 0x020, 0x030, 0x040, 0x048, 0x050], Happens (.mgmtRegWrite p off v) s (s.status p 0)) ∧
        (∀ off, off % 8 ≠ 0 → Happens (.mgmtRegWrite p off v) s (s.status p 2)) ∧
        (∀ off, 0x200 < off → Happens (.mgmtRegWrite p off v) s (s.status p 2)) ∧
        (∀ (n : Fin 64) (k : Fin 4096) (m : BitVec 4) (sc : Fin 3), v.toNat % 256 = 1 →
          s.ports[p].dcmd[0] = BitVec.ofNat 64 (n.val * 256) → s.ports[p].dcmd[1] = BitVec.ofNat 64 k.val →
          s.ports[p].dcmd[2] = m.setWidth 64 → s.ports[p].dcmd[3] = BitVec.ofNat 64 sc.val →
          (∀ j : Fin 32, 4 ≤ j.val → s.ports[p].dcmd[j] = 0) →
          exec (.mgmtRegWrite p 0x200 v) s = exec (.dstop p n (coreKey k.val) m sc) s)))

/-- R11, R97, R340, R388, R389, R400, R432, R438: right after reset nothing runs, every memory reads zero, the semaphores are free
and self-test begins; the byte store is canonical. That far memory reads zero, and the values of registers for which the
spec gives none, are the model's choice (log entries 1 and 2). -/
def Obligations.ResetState : Prop :=
  State.reset.Canonical ∧
  (∀ k c, (State.reset.ctx k c).run = .idle ∧ State.reset.partOf k = none ∧ (State.reset.core k).rq = [] ∧
    (State.reset.core k).kq = [] ∧ (∀ i : Fin 4, (State.reset.core k).csr.seg[i] = 0) ∧ ∀ r, (State.reset.ctx k c).x r = 0) ∧
  (∀ n, (State.reset.part n).state = .free) ∧ (∀ a, State.reset.sh.mem.get a = 0) ∧
  (∀ n : Fin 64, State.reset.sems[n] = 0) ∧ State.reset.tie = 0 ∧ State.reset.now = 0 ∧
  State.reset.mg.power = true ∧ State.reset.mg.state = .selftest ∧
  ∀ p : Fin 2, ∀ off ∈ [0x040, 0x048, 0x050], State.reset.mgmtRead p off = some 0

/-- Every step keeps the byte store in its canonical form (00 R9, 06 R156: equal memories are equal data), from every state.
-/
def Obligations.StepKeepsCanonical : Prop :=
  ∀ s t : State, s.Canonical → step s = .next t → t.Canonical

/-- R63, R66 to R73, R89: the decoder gives back every well-formed instruction word for word, whatever follows it, with every
operand at every value that the encoding admits. -/
def Obligations.DecodeEncode : Prop :=
  ∀ (i : Instr) (rest : List Nat), encode i ≠ [] → i.wf = true → decode (encode i ++ rest) = .ok (i, (encode i).length)

/-- R64 to R73, R85, R89: words written out from the spec's encodings decode to the instructions that they stand for, at least
one of each major, and words of no instruction are turned away. -/
def Obligations.DecodeWords : Prop :=
  decode [0x0000] = .ok (.nop, 1) ∧ decode [0x818A] = .ok (.li 3 10, 1) ∧ decode [0x9981] = .ok (.loop 3 1, 1) ∧
  decode [0xF9ED, 0x2834] = .ok (.addi ⟨3, 3, -300⟩, 2) ∧ decode [0xFB58, 0x1F93] = .ok (.remu ⟨25, 22, 3⟩, 2) ∧
  decode [0xFB01, 0x46A6] = .ok (.ldd 26 (.strm 6), 2) ∧ decode [0xFB01, 0x4BB7] = .ok (.std 27 (.strm 7), 2) ∧
  decode [0xFB08, 0xFF08, 0x5813] = .ok (.vadd ⟨17, 2, 3, ⟨some .bf16, 2⟩⟩ false, 3) ∧
  decode [0x7C01] = .ok (.slink true, 1) ∧ decode [0xFB81, 0xB3AD] = .ok (.fst 26 ⟨29, 0⟩ 1 .plain, 2) ∧
  decode [0xFA01, 0xB813] = .ok (.bar 1 3 true, 2) ∧ decode [0xF816, 0xBAA0] = .ok (.waitany 10 0x16, 2) ∧
  decode [0xBF0C] = .ok (.domset 0 12, 1) ∧ decode [0xF80B, 0xD400] = .ok (.rbeg 11 false, 2) ∧
  decode [0xDB0B] = .ok (.chkpt 11, 1) ∧ decode [0xFA14, 0xE024] = .ok (.fld 5 ⟨4, 0⟩ 0 false 2, 2) ∧
  decode [0xFA25, 0xEF20] = .ok (.kres 9 true 2, 2) ∧
  decode [0xF946, 0xFA04, 0xE804] = .ok (.kmma ⟨1, 4, 2, true, 6, 0⟩ false, 3) ∧
  decode [0x083A] = .ok (.add ⟨3, 3, 10⟩, 1) ∧ decode [0x143A] = .ok (.clz ⟨3, 10⟩, 1) ∧
  decode [0x203A] = .ok (.min ⟨3, 3, 10⟩, 1) ∧ decode [0xFA16, 0xF805, 0x333A] = .ok (.lea ⟨3, 5, 10⟩ 2 5, 3) ∧
  decode [0xF802, 0x3850] = .ok (.csrr 5 2, 2) ∧ decode [0x5025] = .ok (.vld 2 (.addr ⟨5, 0⟩) ⟨none, 0⟩, 1) ∧
  decode [0xFA10, 0x6023] = .ok (.vand ⟨2, 4, 3, ⟨none, 0⟩⟩, 2) ∧ decode [0x7023] = .ok (.vrecip ⟨2, 3, ⟨none, 0⟩⟩, 1) ∧
  decode [0x8985] = .ok (.beqz 3 5, 1) ∧ decode [0x91FF] = .ok (.bnez 3 (-1), 1) ∧
  decode [0xF9FE, 0xA03A] = .ok (.beq 3 10 (-2), 2) ∧ decode [0xA81A] = .ok (.jalr 1 10 0, 1) ∧
  decode [0xC7FC] = .ok (.j (-4), 1) ∧ decode [0xC810] = .ok (.jal 16, 1) ∧
  decode [0xF90A, 0xFEE0, 0x6D42] = .ok (.vcvt ⟨4, 2, ⟨some .f32, 0⟩⟩ 10 none 1, 3) ∧
  (∀ ws ∈ [[0x0001], [0xF000], [0xF801, 0x0000], [0xFA00, 0xFA00, 0x0800], [0xF800]],
    ∀ i n, decode ws ≠ .ok (i, n))

/-- R9, R63, R76, R85, R92, R261, R265: a core that issues executes the instruction that the words at the chosen context's PC
decode to, with `after` around it (result delays, lookahead windows, history) and the fetched words that were corrected counted before
it; words that decode to nothing raise 0x01, or 0x20 where the core computes wrongly. What keeps the selector's count (`keepsCount`) is
log entry 34. A step makes one of the moves that the state offers; which, where there are several, is a free choice (log
entry 4). -/
def Obligations.StepRunsDecoded : Prop :=
  ∀ (s : State) (k : Key) (c : CtxNo) (j : Fin 5),
    (∀ i n, decode (s.wordsAt k (s.ctx k c).pc 5) = .ok (i, n) → s.sh.ue = [] →
      s.fetch k c = .ok (i, (s.wordsAt k (s.ctx k c).pc 5).take n)) ∧
    (∀ e, decode (s.wordsAt k (s.ctx k c).pc 5) = .error e → s.sh.ue = [] → s.fetch k c = .error (0x01, e.xvalue)) ∧
    (s.moves = [.issue k] → s.chosen k (s.selectable k) = some (c, j) → s.waitEnds k c = none → s.awake k c = true →
      let done := fun t : State => (t.updCore k fun co => { co with
        sel := { (co.sel.charge (s.selectable k) c s.cycle (t.keepsCount k c)) with ptr := co.sel.ptr.set j c } }).forward s k c
      (∀ i ws t, s.fetch k c = .ok (i, ws) → let u := (s.fetchCe k (s.ctx k c).pc ws.length).executing k c ws none
        u.unlocked i = true → u.hazard i = none → exec i u = .next t → t.m.fate ≠ .stalled →
        step s = .next (done (u.after t i))) ∧
      (∀ q v, s.fetch k c = .error (q, v) → let u := s.executing k c [] none
        ((s.ctx k c).aux.flaw = false → step s = .next (done ((u.raise q (some v)).stepped k c))) ∧
        ((s.ctx k c).aux.flaw = true → step s = .next (done u.wrong)))) ∧
    (s.sh.ce = [] → ∀ n, s.fetchCe k (s.ctx k c).pc n = s) ∧
    (s.moves = [] → step s = .next s.wakeMsgs.tick) ∧ (∀ m, s.moves = [m] → step s = s.make m) ∧
    (∀ m l, s.moves = m :: l → l ≠ [] → ∃ a ∈ s.moves,
      step s = ({ s with m := { s.m with freeCtr := s.m.freeCtr + 1 } } : State).make a)

/-- Every instruction and every event of the opcode table answers a next state in every state: no ordinary data ends a run. A
step faults only where the power is off and nothing of the outside is to come, and it refuses nothing. Two things are the model's choice
and no rule: that an event which is not enabled answers next (log entry 3), and the fault of a module without power (log entry
83). -/
def Obligations.NothingStops : Prop :=
  (∀ (i : Instr) (s : State), Goes i s) ∧
  (∀ s : State, (∃ t, step s = .next t) ∨ (step s = .fault .poweredOff ∧ s.mg.power = false ∧ s.m.inputs = []))

/-- The frame of the register-only instructions (`State.Frame` lists what stays): of the machine that it lists nothing but the
destination and the PC changes, no byte of memory does. -/
def Obligations.RegisterFrame : Prop :=
  ∀ (s t : State) (i : Instr) (d : Option Reg × Option Reg × Option Reg8), regOnly i = some d → exec i s = .next t →
    t.m.fate = .retired → s.Frame t d.1 d.2.1 d.2.2 ∧ t.sh.mem = s.sh.mem ∧ t.my.pc = s.succ

/-- The frame of scalar loads and stores in address form: a load changes its register and no byte of memory; a store changes
no register, and no byte outside those that it stores, at the place of its address. -/
def Obligations.LoadStoreFrame : Prop :=
  ∀ (s t : State) (a : Reg) (m : MAddr), t.m.fate = .retired →
    (∀ e ∈ loadTable, exec (e.1 a (.addr m)) s = .next t → s.Frame t (some a) none none ∧ t.sh.mem = s.sh.mem) ∧
    (exec (.lda a m) s = .next t → s.Frame t (some a) none none ∧ t.sh.mem = s.sh.mem) ∧
    (s.Canonical →
      (∀ e ∈ storeTable, exec (e.1 a (.addr m)) s = .next t → s.Frame t none none none ∧
        ∃ q, s.storePlace (s.addr m) = some q ∧ ∀ y, y < q ∨ q + e.2 ≤ y → t.sh.mem.get y = s.sh.mem.get y) ∧
      (exec (.stl a m) s = .next t → s.Frame t none none none ∧
        ∃ q, s.storePlace (s.addr m) = some q ∧ ∀ y, y < q ∨ q + 8 ≤ y → t.sh.mem.get y = s.sh.mem.get y) ∧
      (exec (.zln m) s = .next t → s.Frame t none none none ∧
        ∃ q, s.storePlace (s.addr m) = some q ∧ ∀ y, y < q ∨ q + 64 ≤ y → t.sh.mem.get y = s.sh.mem.get y))

/-- R388. A read acquires a free semaphore and tells its holder, a write releases one that the port holds, power-on frees them
all; an access of another size than 8 bytes completes with status 2 (R387). Completes: `semRead`, `semWrite`. -/
def Obligations.Semaphores : Prop :=
  ∀ (s : State) (p : Fin 2) (n : Fin 64),
    (s.portUp p = true →
      let me : Fin 3 := Fin.ofNat 3 (p.val + 1)
      (s.sems[n] = 0 → Happens (.semRead p n 8) s ((s.sem n me).reply p false 0 (semWord true me))) ∧
      (s.sems[n] = me → Happens (.semRead p n 8) s (s.reply p false 0 (semWord true me))) ∧
      (s.sems[n] ≠ 0 → s.sems[n] ≠ me → Happens (.semRead p n 8) s (s.reply p false 0 (semWord false s.sems[n]))) ∧
      (s.sems[n] = me → Happens (.semWrite p n 8) s ((s.sem n 0).status p 0)) ∧
      (s.sems[n] ≠ me → Happens (.semWrite p n 8) s (s.status p 0)) ∧
      ∀ z, z ≠ 8 → Happens (.semRead p n z) s (s.status p 2) ∧ Happens (.semWrite p n z) s (s.status p 2)) ∧
    (∀ n : Fin 64, State.reset.sems[n] = 0) ∧
    (s.mg.power = false → ∃ t, exec .powerGood s = .next t ∧ ∀ n : Fin 64, t.sems[n] = 0)

/-- R389: of two accesses of one cycle to a semaphore, to FWCTL or to ATTREQ, one from each port, that of the port of the tie bit is
served first, and the bit flips; an access alone leaves it. -/
def Obligations.TieBit : Prop :=
  ∀ (s : State) (p : Fin 2) (c : Fin 3) (a b : Input) (t : Nat), t ≤ s.cycle → a.tied = some (p, c) →
    (b.tied = some (p + 1, c) → s.portUp p = true → s.portUp (p + 1) = true → s.m.inputs = [(t, a), (t, b)] →
      let left := fun e => { s with tie := s.tie + 1, m := { s.m with inputs := [(t, e)] } }
      (s.tie = p → step s = (left b).comesIn a) ∧ (s.tie ≠ p → step s = (left a).comesIn b)) ∧
    (s.m.inputs = [(t, a)] → step s = ({ s with m := { s.m with inputs := [] } } : State).comesIn a) ∧
    (∀ (n : Fin 64) (x : Nat), (Input.row (.semRead p n 8)).tied = some (p, 0) ∧ (Input.row (.semWrite p n 8)).tied = some (p, 0) ∧
      (Input.row (.fwctlWrite p x 8)).tied = some (p, 1) ∧ (Input.row (.attreqSign p x 8)).tied = some (p, 2) ∧
      (Input.row (.attreqIdentity p x 8)).tied = some (p, 2) ∧
      (∀ (w : Bool) d, (Input.access p w (0x3000 + 8 * n.val) 8 d).tied = some (p, 0)) ∧
      (∀ d, (Input.access p true 0x10010 8 d).tied = some (p, 1) ∧ (Input.access p true 0x10038 8 d).tied = some (p, 2)) ∧
      ∀ i ∈ [Instr.semRead p n 8, .semWrite p n 8], ∃ u, exec i s = .next u ∧ u.tie = s.tie)

/-- R433. FWCTL is accepted in WAITFW and FAILED only; of two writes that arrive together the port of the tie bit starts
VERIFY and the other completes with status 1. An access of another size than 8 bytes completes with status 2 (R387). Completes: `fwctlWrite`. -/
def Obligations.FirmwareControl : Prop :=
  ∀ (s : State) (p : Fin 2) (a : Nat), s.portUp p = true →
    ((s.mg.state = .waitfw ∨ s.mg.state = .failed) → FirmwareAt a →
      Happens (.fwctlWrite p a 8) s ({ s with mg := { s.mg with state := .verify, fwaddr := a } } |>.status p 0)) ∧
    (s.mg.state ≠ .waitfw → s.mg.state ≠ .failed → Happens (.fwctlWrite p a 8) s (s.status p 1)) ∧
    (∀ z, z ≠ 8 → Happens (.fwctlWrite p a z) s (s.status p 2)) ∧
    (∀ b t, (s.mg.state = .waitfw ∨ s.mg.state = .failed) → FirmwareAt a → s.tie = p → s.portUp (p + 1) = true → t ≤ s.cycle →
      (s.m.inputs = [(t, .row (.fwctlWrite p a 8)), (t, .row (.fwctlWrite (p + 1) b 8))] ∨
        s.m.inputs = [(t, .row (.fwctlWrite (p + 1) b 8)), (t, .row (.fwctlWrite p a 8))]) →
      ∃ u v, step s = .next u ∧ u.mg.state = .verify ∧ u.mg.fwaddr = a ∧ u.tie = p + 1 ∧ u.ports[p].last = ⟨false, 0, 0⟩ ∧
        step u = .next v ∧ v.mg = u.mg ∧ v.ports[p + 1].last = ⟨false, 1, 0⟩)

/-- R104, R105: `CSEL` with its three registers read at issue, and `LEA`, whose sum wraps and which checks nothing; without
REX, T is A, and without IMX the value is 0.
Completes: `csel`, `lea`. -/
def Obligations.SelectAndAddress : Prop :=
  (∀ (s : State) (a t b : Reg), s.Room 1 →
    GivesX (.csel ⟨a, t, b⟩) s a (if s.x a ≠ 0 then s.x t else s.x b) ∧
    ∀ (z : Fin 4) (v : Int),
      GivesX (.lea ⟨a, t, b⟩ z v) s a (s.x t + s.x b * BitVec.ofNat 64 (2 ^ z.val) + BitVec.ofInt 64 v)) ∧
  ∀ a b : Reg, a.val < 16 → b.val < 16 →
    decode [6 * 2048 + 2 * 256 + a.val * 16 + b.val] = .ok (.csel ⟨a, a, b⟩, 1) ∧
    decode [6 * 2048 + 3 * 256 + a.val * 16 + b.val] = .ok (.lea ⟨a, a, b⟩ 0 0, 1)

/-- R98. `YIELD` changes nothing but the selector's note; in the next cycle its context is not chosen where another is ready,
and from the cycle after that it is eligible as before.
Completes: `yield`. -/
def Obligations.YieldStandsBack : Prop :=
  ∀ (s : State) (k : Key) (c : CtxNo),
    exec .yield s = .next (s.updMine fun co => { co with sel := { co.sel with yielded := some (s.cc, s.cycle) } }).retire ∧
    (∀ t, (s.core k).sel.yielded = some (c, t) → t + 1 = s.cycle →
      ((∃ d ∈ s.readyCtxs k, d ≠ c) → c ∉ s.selectable k ∧ ∀ d, d ≠ c → (d ∈ s.selectable k ↔ d ∈ s.readyCtxs k)) ∧
      ((∀ d ∈ s.readyCtxs k, d = c) → s.selectable k = s.readyCtxs k)) ∧
    (∀ t, (s.core k).sel.yielded = some (c, t) → t + 1 ≠ s.cycle → s.selectable k = s.readyCtxs k) ∧
    (∀ l j d, s.chosen k l = some (d, j) → d ∈ l)

/-- R66 to R71, R89, R100: of majors 1 to 4, with and without REX, the decoder gives back every instruction and its length,
whatever follows. -/
def Obligations.DecodeEncodeInteger : Prop :=
  ∀ rest : List Nat,
    (∀ f ∈ integerOps, ∀ a t b : Reg, let w := encode (f ⟨a, t, b⟩)
      decode (w ++ rest) = .ok (f ⟨a, t, b⟩, w.length) ∧
      w.length = if t = a ∧ a.val < 16 ∧ b.val < 16 then 1 else 2) ∧
    (∀ f ∈ unaryOps, ∀ a b : Reg, let w := encode (f ⟨a, b⟩)
      decode (w ++ rest) = .ok (f ⟨a, b⟩, w.length) ∧ w.length = if a.val < 16 ∧ b.val < 16 then 1 else 2)
end

