-- ==== Sys2Proof/Laws/State.lean ====
section
/-! SUPPORT. What each update leaves alone: one lemma for each field of `State` and each update, true by definition. -/
namespace Sys2Proof.Machine
open Sys2Proof

/-! `setCore` -/

@[simp] theorem State.setCore_cycle (s : State) (k : Key) (c : Core) : (s.setCore k c).cycle = s.cycle := rfl
@[simp] theorem State.setCore_tsBase (s : State) (k : Key) (c : Core) : (s.setCore k c).tsBase = s.tsBase := rfl
@[simp] theorem State.setCore_device (s : State) (k : Key) (c : Core) : (s.setCore k c).device = s.device := rfl
@[simp] theorem State.setCore_parts (s : State) (k : Key) (c : Core) : (s.setCore k c).parts = s.parts := rfl
@[simp] theorem State.setCore_sh (s : State) (k : Key) (c : Core) : (s.setCore k c).sh = s.sh := rfl
@[simp] theorem State.setCore_launches (s : State) (k : Key) (c : Core) : (s.setCore k c).launches = s.launches := rfl
@[simp] theorem State.setCore_shoots (s : State) (k : Key) (c : Core) : (s.setCore k c).shoots = s.shoots := rfl
@[simp] theorem State.setCore_areas (s : State) (k : Key) (c : Core) : (s.setCore k c).areas = s.areas := rfl
@[simp] theorem State.setCore_ports (s : State) (k : Key) (c : Core) : (s.setCore k c).ports = s.ports := rfl
@[simp] theorem State.setCore_sems (s : State) (k : Key) (c : Core) : (s.setCore k c).sems = s.sems := rfl
@[simp] theorem State.setCore_tie (s : State) (k : Key) (c : Core) : (s.setCore k c).tie = s.tie := rfl
@[simp] theorem State.setCore_slaup (s : State) (k : Key) (c : Core) : (s.setCore k c).slaup = s.slaup := rfl
@[simp] theorem State.setCore_dom (s : State) (k : Key) (c : Core) : (s.setCore k c).dom = s.dom := rfl
@[simp] theorem State.setCore_mg (s : State) (k : Key) (c : Core) : (s.setCore k c).mg = s.mg := rfl
@[simp] theorem State.setCore_peers (s : State) (k : Key) (c : Core) : (s.setCore k c).peers = s.peers := rfl
@[simp] theorem State.setCore_m (s : State) (k : Key) (c : Core) : (s.setCore k c).m = s.m := rfl

/-! `updCore` -/

@[simp] theorem State.updCore_cycle (s : State) (k : Key) (f : Core → Core) : (s.updCore k f).cycle = s.cycle := rfl
@[simp] theorem State.updCore_tsBase (s : State) (k : Key) (f : Core → Core) : (s.updCore k f).tsBase = s.tsBase := rfl
@[simp] theorem State.updCore_device (s : State) (k : Key) (f : Core → Core) : (s.updCore k f).device = s.device := rfl
@[simp] theorem State.updCore_parts (s : State) (k : Key) (f : Core → Core) : (s.updCore k f).parts = s.parts := rfl
@[simp] theorem State.updCore_sh (s : State) (k : Key) (f : Core → Core) : (s.updCore k f).sh = s.sh := rfl
@[simp] theorem State.updCore_launches (s : State) (k : Key) (f : Core → Core) : (s.updCore k f).launches = s.launches := rfl
@[simp] theorem State.updCore_shoots (s : State) (k : Key) (f : Core → Core) : (s.updCore k f).shoots = s.shoots := rfl
@[simp] theorem State.updCore_areas (s : State) (k : Key) (f : Core → Core) : (s.updCore k f).areas = s.areas := rfl
@[simp] theorem State.updCore_ports (s : State) (k : Key) (f : Core → Core) : (s.updCore k f).ports = s.ports := rfl
@[simp] theorem State.updCore_sems (s : State) (k : Key) (f : Core → Core) : (s.updCore k f).sems = s.sems := rfl
@[simp] theorem State.updCore_tie (s : State) (k : Key) (f : Core → Core) : (s.updCore k f).tie = s.tie := rfl
@[simp] theorem State.updCore_slaup (s : State) (k : Key) (f : Core → Core) : (s.updCore k f).slaup = s.slaup := rfl
@[simp] theorem State.updCore_dom (s : State) (k : Key) (f : Core → Core) : (s.updCore k f).dom = s.dom := rfl
@[simp] theorem State.updCore_mg (s : State) (k : Key) (f : Core → Core) : (s.updCore k f).mg = s.mg := rfl
@[simp] theorem State.updCore_peers (s : State) (k : Key) (f : Core → Core) : (s.updCore k f).peers = s.peers := rfl
@[simp] theorem State.updCore_m (s : State) (k : Key) (f : Core → Core) : (s.updCore k f).m = s.m := rfl

/-! `updCtx` -/

@[simp] theorem State.updCtx_cycle (s : State) (k : Key) (c : CtxNo) (f : Ctx → Ctx) : (s.updCtx k c f).cycle = s.cycle := rfl
@[simp] theorem State.updCtx_tsBase (s : State) (k : Key) (c : CtxNo) (f : Ctx → Ctx) : (s.updCtx k c f).tsBase = s.tsBase := rfl
@[simp] theorem State.updCtx_device (s : State) (k : Key) (c : CtxNo) (f : Ctx → Ctx) : (s.updCtx k c f).device = s.device := rfl
@[simp] theorem State.updCtx_parts (s : State) (k : Key) (c : CtxNo) (f : Ctx → Ctx) : (s.updCtx k c f).parts = s.parts := rfl
@[simp] theorem State.updCtx_sh (s : State) (k : Key) (c : CtxNo) (f : Ctx → Ctx) : (s.updCtx k c f).sh = s.sh := rfl
@[simp] theorem State.updCtx_launches (s : State) (k : Key) (c : CtxNo) (f : Ctx → Ctx) : (s.updCtx k c f).launches = s.launches := rfl
@[simp] theorem State.updCtx_shoots (s : State) (k : Key) (c : CtxNo) (f : Ctx → Ctx) : (s.updCtx k c f).shoots = s.shoots := rfl
@[simp] theorem State.updCtx_areas (s : State) (k : Key) (c : CtxNo) (f : Ctx → Ctx) : (s.updCtx k c f).areas = s.areas := rfl
@[simp] theorem State.updCtx_ports (s : State) (k : Key) (c : CtxNo) (f : Ctx → Ctx) : (s.updCtx k c f).ports = s.ports := rfl
@[simp] theorem State.updCtx_sems (s : State) (k : Key) (c : CtxNo) (f : Ctx → Ctx) : (s.updCtx k c f).sems = s.sems := rfl
@[simp] theorem State.updCtx_tie (s : State) (k : Key) (c : CtxNo) (f : Ctx → Ctx) : (s.updCtx k c f).tie = s.tie := rfl
@[simp] theorem State.updCtx_slaup (s : State) (k : Key) (c : CtxNo) (f : Ctx → Ctx) : (s.updCtx k c f).slaup = s.slaup := rfl
@[simp] theorem State.updCtx_dom (s : State) (k : Key) (c : CtxNo) (f : Ctx → Ctx) : (s.updCtx k c f).dom = s.dom := rfl
@[simp] theorem State.updCtx_mg (s : State) (k : Key) (c : CtxNo) (f : Ctx → Ctx) : (s.updCtx k c f).mg = s.mg := rfl
@[simp] theorem State.updCtx_peers (s : State) (k : Key) (c : CtxNo) (f : Ctx → Ctx) : (s.updCtx k c f).peers = s.peers := rfl
@[simp] theorem State.updCtx_m (s : State) (k : Key) (c : CtxNo) (f : Ctx → Ctx) : (s.updCtx k c f).m = s.m := rfl

/-! `upd` -/

@[simp] theorem State.upd_cycle (s : State) (f : Ctx → Ctx) : (s.upd f).cycle = s.cycle := rfl
@[simp] theorem State.upd_tsBase (s : State) (f : Ctx → Ctx) : (s.upd f).tsBase = s.tsBase := rfl
@[simp] theorem State.upd_device (s : State) (f : Ctx → Ctx) : (s.upd f).device = s.device := rfl
@[simp] theorem State.upd_parts (s : State) (f : Ctx → Ctx) : (s.upd f).parts = s.parts := rfl
@[simp] theorem State.upd_sh (s : State) (f : Ctx → Ctx) : (s.upd f).sh = s.sh := rfl
@[simp] theorem State.upd_launches (s : State) (f : Ctx → Ctx) : (s.upd f).launches = s.launches := rfl
@[simp] theorem State.upd_shoots (s : State) (f : Ctx → Ctx) : (s.upd f).shoots = s.shoots := rfl
@[simp] theorem State.upd_areas (s : State) (f : Ctx → Ctx) : (s.upd f).areas = s.areas := rfl
@[simp] theorem State.upd_ports (s : State) (f : Ctx → Ctx) : (s.upd f).ports = s.ports := rfl
@[simp] theorem State.upd_sems (s : State) (f : Ctx → Ctx) : (s.upd f).sems = s.sems := rfl
@[simp] theorem State.upd_tie (s : State) (f : Ctx → Ctx) : (s.upd f).tie = s.tie := rfl
@[simp] theorem State.upd_slaup (s : State) (f : Ctx → Ctx) : (s.upd f).slaup = s.slaup := rfl
@[simp] theorem State.upd_dom (s : State) (f : Ctx → Ctx) : (s.upd f).dom = s.dom := rfl
@[simp] theorem State.upd_mg (s : State) (f : Ctx → Ctx) : (s.upd f).mg = s.mg := rfl
@[simp] theorem State.upd_peers (s : State) (f : Ctx → Ctx) : (s.upd f).peers = s.peers := rfl
@[simp] theorem State.upd_m (s : State) (f : Ctx → Ctx) : (s.upd f).m = s.m := rfl

/-! `updMine` -/

@[simp] theorem State.updMine_cycle (s : State) (f : Core → Core) : (s.updMine f).cycle = s.cycle := rfl
@[simp] theorem State.updMine_tsBase (s : State) (f : Core → Core) : (s.updMine f).tsBase = s.tsBase := rfl
@[simp] theorem State.updMine_device (s : State) (f : Core → Core) : (s.updMine f).device = s.device := rfl
@[simp] theorem State.updMine_parts (s : State) (f : Core → Core) : (s.updMine f).parts = s.parts := rfl
@[simp] theorem State.updMine_sh (s : State) (f : Core → Core) : (s.updMine f).sh = s.sh := rfl
@[simp] theorem State.updMine_launches (s : State) (f : Core → Core) : (s.updMine f).launches = s.launches := rfl
@[simp] theorem State.updMine_shoots (s : State) (f : Core → Core) : (s.updMine f).shoots = s.shoots := rfl
@[simp] theorem State.updMine_areas (s : State) (f : Core → Core) : (s.updMine f).areas = s.areas := rfl
@[simp] theorem State.updMine_ports (s : State) (f : Core → Core) : (s.updMine f).ports = s.ports := rfl
@[simp] theorem State.updMine_sems (s : State) (f : Core → Core) : (s.updMine f).sems = s.sems := rfl
@[simp] theorem State.updMine_tie (s : State) (f : Core → Core) : (s.updMine f).tie = s.tie := rfl
@[simp] theorem State.updMine_slaup (s : State) (f : Core → Core) : (s.updMine f).slaup = s.slaup := rfl
@[simp] theorem State.updMine_dom (s : State) (f : Core → Core) : (s.updMine f).dom = s.dom := rfl
@[simp] theorem State.updMine_mg (s : State) (f : Core → Core) : (s.updMine f).mg = s.mg := rfl
@[simp] theorem State.updMine_peers (s : State) (f : Core → Core) : (s.updMine f).peers = s.peers := rfl
@[simp] theorem State.updMine_m (s : State) (f : Core → Core) : (s.updMine f).m = s.m := rfl

/-! `setFate` -/

@[simp] theorem State.setFate_cycle (s : State) (f : Fate) : (s.setFate f).cycle = s.cycle := rfl
@[simp] theorem State.setFate_tsBase (s : State) (f : Fate) : (s.setFate f).tsBase = s.tsBase := rfl
@[simp] theorem State.setFate_device (s : State) (f : Fate) : (s.setFate f).device = s.device := rfl
@[simp] theorem State.setFate_cores (s : State) (f : Fate) : (s.setFate f).cores = s.cores := rfl
@[simp] theorem State.setFate_parts (s : State) (f : Fate) : (s.setFate f).parts = s.parts := rfl
@[simp] theorem State.setFate_sh (s : State) (f : Fate) : (s.setFate f).sh = s.sh := rfl
@[simp] theorem State.setFate_launches (s : State) (f : Fate) : (s.setFate f).launches = s.launches := rfl
@[simp] theorem State.setFate_shoots (s : State) (f : Fate) : (s.setFate f).shoots = s.shoots := rfl
@[simp] theorem State.setFate_areas (s : State) (f : Fate) : (s.setFate f).areas = s.areas := rfl
@[simp] theorem State.setFate_ports (s : State) (f : Fate) : (s.setFate f).ports = s.ports := rfl
@[simp] theorem State.setFate_sems (s : State) (f : Fate) : (s.setFate f).sems = s.sems := rfl
@[simp] theorem State.setFate_tie (s : State) (f : Fate) : (s.setFate f).tie = s.tie := rfl
@[simp] theorem State.setFate_slaup (s : State) (f : Fate) : (s.setFate f).slaup = s.slaup := rfl
@[simp] theorem State.setFate_dom (s : State) (f : Fate) : (s.setFate f).dom = s.dom := rfl
@[simp] theorem State.setFate_mg (s : State) (f : Fate) : (s.setFate f).mg = s.mg := rfl
@[simp] theorem State.setFate_peers (s : State) (f : Fate) : (s.setFate f).peers = s.peers := rfl

/-! `jump` -/

@[simp] theorem State.jump_cycle (s : State) (pc : PC) : (s.jump pc).cycle = s.cycle := rfl
@[simp] theorem State.jump_tsBase (s : State) (pc : PC) : (s.jump pc).tsBase = s.tsBase := rfl
@[simp] theorem State.jump_device (s : State) (pc : PC) : (s.jump pc).device = s.device := rfl
@[simp] theorem State.jump_parts (s : State) (pc : PC) : (s.jump pc).parts = s.parts := rfl
@[simp] theorem State.jump_sh (s : State) (pc : PC) : (s.jump pc).sh = s.sh := rfl
@[simp] theorem State.jump_launches (s : State) (pc : PC) : (s.jump pc).launches = s.launches := rfl
@[simp] theorem State.jump_shoots (s : State) (pc : PC) : (s.jump pc).shoots = s.shoots := rfl
@[simp] theorem State.jump_areas (s : State) (pc : PC) : (s.jump pc).areas = s.areas := rfl
@[simp] theorem State.jump_ports (s : State) (pc : PC) : (s.jump pc).ports = s.ports := rfl
@[simp] theorem State.jump_sems (s : State) (pc : PC) : (s.jump pc).sems = s.sems := rfl
@[simp] theorem State.jump_tie (s : State) (pc : PC) : (s.jump pc).tie = s.tie := rfl
@[simp] theorem State.jump_slaup (s : State) (pc : PC) : (s.jump pc).slaup = s.slaup := rfl
@[simp] theorem State.jump_dom (s : State) (pc : PC) : (s.jump pc).dom = s.dom := rfl
@[simp] theorem State.jump_mg (s : State) (pc : PC) : (s.jump pc).mg = s.mg := rfl
@[simp] theorem State.jump_peers (s : State) (pc : PC) : (s.jump pc).peers = s.peers := rfl

/-! `retire` -/

@[simp] theorem State.retire_cycle (s : State) : (s.retire).cycle = s.cycle := rfl
@[simp] theorem State.retire_tsBase (s : State) : (s.retire).tsBase = s.tsBase := rfl
@[simp] theorem State.retire_device (s : State) : (s.retire).device = s.device := rfl
@[simp] theorem State.retire_parts (s : State) : (s.retire).parts = s.parts := rfl
@[simp] theorem State.retire_sh (s : State) : (s.retire).sh = s.sh := rfl
@[simp] theorem State.retire_launches (s : State) : (s.retire).launches = s.launches := rfl
@[simp] theorem State.retire_shoots (s : State) : (s.retire).shoots = s.shoots := rfl
@[simp] theorem State.retire_areas (s : State) : (s.retire).areas = s.areas := rfl
@[simp] theorem State.retire_ports (s : State) : (s.retire).ports = s.ports := rfl
@[simp] theorem State.retire_sems (s : State) : (s.retire).sems = s.sems := rfl
@[simp] theorem State.retire_tie (s : State) : (s.retire).tie = s.tie := rfl
@[simp] theorem State.retire_slaup (s : State) : (s.retire).slaup = s.slaup := rfl
@[simp] theorem State.retire_dom (s : State) : (s.retire).dom = s.dom := rfl
@[simp] theorem State.retire_mg (s : State) : (s.retire).mg = s.mg := rfl
@[simp] theorem State.retire_peers (s : State) : (s.retire).peers = s.peers := rfl

/-! `park` -/

@[simp] theorem State.park_cycle (s : State) (w : Wait) : (s.park w).cycle = s.cycle := rfl
@[simp] theorem State.park_tsBase (s : State) (w : Wait) : (s.park w).tsBase = s.tsBase := rfl
@[simp] theorem State.park_device (s : State) (w : Wait) : (s.park w).device = s.device := rfl
@[simp] theorem State.park_parts (s : State) (w : Wait) : (s.park w).parts = s.parts := rfl
@[simp] theorem State.park_sh (s : State) (w : Wait) : (s.park w).sh = s.sh := rfl
@[simp] theorem State.park_launches (s : State) (w : Wait) : (s.park w).launches = s.launches := rfl
@[simp] theorem State.park_shoots (s : State) (w : Wait) : (s.park w).shoots = s.shoots := rfl
@[simp] theorem State.park_areas (s : State) (w : Wait) : (s.park w).areas = s.areas := rfl
@[simp] theorem State.park_ports (s : State) (w : Wait) : (s.park w).ports = s.ports := rfl
@[simp] theorem State.park_sems (s : State) (w : Wait) : (s.park w).sems = s.sems := rfl
@[simp] theorem State.park_tie (s : State) (w : Wait) : (s.park w).tie = s.tie := rfl
@[simp] theorem State.park_slaup (s : State) (w : Wait) : (s.park w).slaup = s.slaup := rfl
@[simp] theorem State.park_dom (s : State) (w : Wait) : (s.park w).dom = s.dom := rfl
@[simp] theorem State.park_mg (s : State) (w : Wait) : (s.park w).mg = s.mg := rfl
@[simp] theorem State.park_peers (s : State) (w : Wait) : (s.park w).peers = s.peers := rfl

/-! `setMem` -/

@[simp] theorem State.setMem_cycle (s : State) (b : Memory) : (s.setMem b).cycle = s.cycle := rfl
@[simp] theorem State.setMem_tsBase (s : State) (b : Memory) : (s.setMem b).tsBase = s.tsBase := rfl
@[simp] theorem State.setMem_device (s : State) (b : Memory) : (s.setMem b).device = s.device := rfl
@[simp] theorem State.setMem_cores (s : State) (b : Memory) : (s.setMem b).cores = s.cores := rfl
@[simp] theorem State.setMem_parts (s : State) (b : Memory) : (s.setMem b).parts = s.parts := rfl
@[simp] theorem State.setMem_launches (s : State) (b : Memory) : (s.setMem b).launches = s.launches := rfl
@[simp] theorem State.setMem_shoots (s : State) (b : Memory) : (s.setMem b).shoots = s.shoots := rfl
@[simp] theorem State.setMem_areas (s : State) (b : Memory) : (s.setMem b).areas = s.areas := rfl
@[simp] theorem State.setMem_ports (s : State) (b : Memory) : (s.setMem b).ports = s.ports := rfl
@[simp] theorem State.setMem_sems (s : State) (b : Memory) : (s.setMem b).sems = s.sems := rfl
@[simp] theorem State.setMem_tie (s : State) (b : Memory) : (s.setMem b).tie = s.tie := rfl
@[simp] theorem State.setMem_slaup (s : State) (b : Memory) : (s.setMem b).slaup = s.slaup := rfl
@[simp] theorem State.setMem_dom (s : State) (b : Memory) : (s.setMem b).dom = s.dom := rfl
@[simp] theorem State.setMem_mg (s : State) (b : Memory) : (s.setMem b).mg = s.mg := rfl
@[simp] theorem State.setMem_peers (s : State) (b : Memory) : (s.setMem b).peers = s.peers := rfl
@[simp] theorem State.setMem_m (s : State) (b : Memory) : (s.setMem b).m = s.m := rfl

/-! `post` -/

@[simp] theorem State.post_cycle (s : State) (g : Msg) : (s.post g).cycle = s.cycle := rfl
@[simp] theorem State.post_tsBase (s : State) (g : Msg) : (s.post g).tsBase = s.tsBase := rfl
@[simp] theorem State.post_device (s : State) (g : Msg) : (s.post g).device = s.device := rfl
@[simp] theorem State.post_cores (s : State) (g : Msg) : (s.post g).cores = s.cores := rfl
@[simp] theorem State.post_parts (s : State) (g : Msg) : (s.post g).parts = s.parts := rfl
@[simp] theorem State.post_launches (s : State) (g : Msg) : (s.post g).launches = s.launches := rfl
@[simp] theorem State.post_shoots (s : State) (g : Msg) : (s.post g).shoots = s.shoots := rfl
@[simp] theorem State.post_areas (s : State) (g : Msg) : (s.post g).areas = s.areas := rfl
@[simp] theorem State.post_ports (s : State) (g : Msg) : (s.post g).ports = s.ports := rfl
@[simp] theorem State.post_sems (s : State) (g : Msg) : (s.post g).sems = s.sems := rfl
@[simp] theorem State.post_tie (s : State) (g : Msg) : (s.post g).tie = s.tie := rfl
@[simp] theorem State.post_slaup (s : State) (g : Msg) : (s.post g).slaup = s.slaup := rfl
@[simp] theorem State.post_dom (s : State) (g : Msg) : (s.post g).dom = s.dom := rfl
@[simp] theorem State.post_mg (s : State) (g : Msg) : (s.post g).mg = s.mg := rfl
@[simp] theorem State.post_peers (s : State) (g : Msg) : (s.post g).peers = s.peers := rfl
@[simp] theorem State.post_m (s : State) (g : Msg) : (s.post g).m = s.m := rfl

/-! `unpost` -/

@[simp] theorem State.unpost_cycle (s : State) (i : Nat) : (s.unpost i).cycle = s.cycle := rfl
@[simp] theorem State.unpost_tsBase (s : State) (i : Nat) : (s.unpost i).tsBase = s.tsBase := rfl
@[simp] theorem State.unpost_device (s : State) (i : Nat) : (s.unpost i).device = s.device := rfl
@[simp] theorem State.unpost_cores (s : State) (i : Nat) : (s.unpost i).cores = s.cores := rfl
@[simp] theorem State.unpost_parts (s : State) (i : Nat) : (s.unpost i).parts = s.parts := rfl
@[simp] theorem State.unpost_launches (s : State) (i : Nat) : (s.unpost i).launches = s.launches := rfl
@[simp] theorem State.unpost_shoots (s : State) (i : Nat) : (s.unpost i).shoots = s.shoots := rfl
@[simp] theorem State.unpost_areas (s : State) (i : Nat) : (s.unpost i).areas = s.areas := rfl
@[simp] theorem State.unpost_ports (s : State) (i : Nat) : (s.unpost i).ports = s.ports := rfl
@[simp] theorem State.unpost_sems (s : State) (i : Nat) : (s.unpost i).sems = s.sems := rfl
@[simp] theorem State.unpost_tie (s : State) (i : Nat) : (s.unpost i).tie = s.tie := rfl
@[simp] theorem State.unpost_slaup (s : State) (i : Nat) : (s.unpost i).slaup = s.slaup := rfl
@[simp] theorem State.unpost_dom (s : State) (i : Nat) : (s.unpost i).dom = s.dom := rfl
@[simp] theorem State.unpost_mg (s : State) (i : Nat) : (s.unpost i).mg = s.mg := rfl
@[simp] theorem State.unpost_peers (s : State) (i : Nat) : (s.unpost i).peers = s.peers := rfl
@[simp] theorem State.unpost_m (s : State) (i : Nat) : (s.unpost i).m = s.m := rfl

/-! `setPart` -/

@[simp] theorem State.setPart_cycle (s : State) (n : Nat) (p : Part) : (s.setPart n p).cycle = s.cycle := rfl
@[simp] theorem State.setPart_tsBase (s : State) (n : Nat) (p : Part) : (s.setPart n p).tsBase = s.tsBase := rfl
@[simp] theorem State.setPart_device (s : State) (n : Nat) (p : Part) : (s.setPart n p).device = s.device := rfl
@[simp] theorem State.setPart_cores (s : State) (n : Nat) (p : Part) : (s.setPart n p).cores = s.cores := rfl
@[simp] theorem State.setPart_sh (s : State) (n : Nat) (p : Part) : (s.setPart n p).sh = s.sh := rfl
@[simp] theorem State.setPart_launches (s : State) (n : Nat) (p : Part) : (s.setPart n p).launches = s.launches := rfl
@[simp] theorem State.setPart_shoots (s : State) (n : Nat) (p : Part) : (s.setPart n p).shoots = s.shoots := rfl
@[simp] theorem State.setPart_areas (s : State) (n : Nat) (p : Part) : (s.setPart n p).areas = s.areas := rfl
@[simp] theorem State.setPart_ports (s : State) (n : Nat) (p : Part) : (s.setPart n p).ports = s.ports := rfl
@[simp] theorem State.setPart_sems (s : State) (n : Nat) (p : Part) : (s.setPart n p).sems = s.sems := rfl
@[simp] theorem State.setPart_tie (s : State) (n : Nat) (p : Part) : (s.setPart n p).tie = s.tie := rfl
@[simp] theorem State.setPart_slaup (s : State) (n : Nat) (p : Part) : (s.setPart n p).slaup = s.slaup := rfl
@[simp] theorem State.setPart_dom (s : State) (n : Nat) (p : Part) : (s.setPart n p).dom = s.dom := rfl
@[simp] theorem State.setPart_mg (s : State) (n : Nat) (p : Part) : (s.setPart n p).mg = s.mg := rfl
@[simp] theorem State.setPart_peers (s : State) (n : Nat) (p : Part) : (s.setPart n p).peers = s.peers := rfl
@[simp] theorem State.setPart_m (s : State) (n : Nat) (p : Part) : (s.setPart n p).m = s.m := rfl

/-! `updPart` -/

@[simp] theorem State.updPart_cycle (s : State) (n : Nat) (f : Part → Part) : (s.updPart n f).cycle = s.cycle := rfl
@[simp] theorem State.updPart_tsBase (s : State) (n : Nat) (f : Part → Part) : (s.updPart n f).tsBase = s.tsBase := rfl
@[simp] theorem State.updPart_device (s : State) (n : Nat) (f : Part → Part) : (s.updPart n f).device = s.device := rfl
@[simp] theorem State.updPart_cores (s : State) (n : Nat) (f : Part → Part) : (s.updPart n f).cores = s.cores := rfl
@[simp] theorem State.updPart_sh (s : State) (n : Nat) (f : Part → Part) : (s.updPart n f).sh = s.sh := rfl
@[simp] theorem State.updPart_launches (s : State) (n : Nat) (f : Part → Part) : (s.updPart n f).launches = s.launches := rfl
@[simp] theorem State.updPart_shoots (s : State) (n : Nat) (f : Part → Part) : (s.updPart n f).shoots = s.shoots := rfl
@[simp] theorem State.updPart_areas (s : State) (n : Nat) (f : Part → Part) : (s.updPart n f).areas = s.areas := rfl
@[simp] theorem State.updPart_ports (s : State) (n : Nat) (f : Part → Part) : (s.updPart n f).ports = s.ports := rfl
@[simp] theorem State.updPart_sems (s : State) (n : Nat) (f : Part → Part) : (s.updPart n f).sems = s.sems := rfl
@[simp] theorem State.updPart_tie (s : State) (n : Nat) (f : Part → Part) : (s.updPart n f).tie = s.tie := rfl
@[simp] theorem State.updPart_slaup (s : State) (n : Nat) (f : Part → Part) : (s.updPart n f).slaup = s.slaup := rfl
@[simp] theorem State.updPart_dom (s : State) (n : Nat) (f : Part → Part) : (s.updPart n f).dom = s.dom := rfl
@[simp] theorem State.updPart_mg (s : State) (n : Nat) (f : Part → Part) : (s.updPart n f).mg = s.mg := rfl
@[simp] theorem State.updPart_peers (s : State) (n : Nat) (f : Part → Part) : (s.updPart n f).peers = s.peers := rfl
@[simp] theorem State.updPart_m (s : State) (n : Nat) (f : Part → Part) : (s.updPart n f).m = s.m := rfl

/-! `pushNotice` -/

@[simp] theorem State.pushNotice_cycle (s : State) (p : Fin 2) (n : BitVec 1024) : (s.pushNotice p n).cycle = s.cycle := rfl
@[simp] theorem State.pushNotice_tsBase (s : State) (p : Fin 2) (n : BitVec 1024) : (s.pushNotice p n).tsBase = s.tsBase := rfl
@[simp] theorem State.pushNotice_device (s : State) (p : Fin 2) (n : BitVec 1024) : (s.pushNotice p n).device = s.device := rfl
@[simp] theorem State.pushNotice_cores (s : State) (p : Fin 2) (n : BitVec 1024) : (s.pushNotice p n).cores = s.cores := rfl
@[simp] theorem State.pushNotice_parts (s : State) (p : Fin 2) (n : BitVec 1024) : (s.pushNotice p n).parts = s.parts := rfl
@[simp] theorem State.pushNotice_sh (s : State) (p : Fin 2) (n : BitVec 1024) : (s.pushNotice p n).sh = s.sh := rfl
@[simp] theorem State.pushNotice_launches (s : State) (p : Fin 2) (n : BitVec 1024) : (s.pushNotice p n).launches = s.launches := rfl
@[simp] theorem State.pushNotice_shoots (s : State) (p : Fin 2) (n : BitVec 1024) : (s.pushNotice p n).shoots = s.shoots := rfl
@[simp] theorem State.pushNotice_areas (s : State) (p : Fin 2) (n : BitVec 1024) : (s.pushNotice p n).areas = s.areas := rfl
@[simp] theorem State.pushNotice_sems (s : State) (p : Fin 2) (n : BitVec 1024) : (s.pushNotice p n).sems = s.sems := rfl
@[simp] theorem State.pushNotice_tie (s : State) (p : Fin 2) (n : BitVec 1024) : (s.pushNotice p n).tie = s.tie := rfl
@[simp] theorem State.pushNotice_slaup (s : State) (p : Fin 2) (n : BitVec 1024) : (s.pushNotice p n).slaup = s.slaup := rfl
@[simp] theorem State.pushNotice_dom (s : State) (p : Fin 2) (n : BitVec 1024) : (s.pushNotice p n).dom = s.dom := rfl
@[simp] theorem State.pushNotice_mg (s : State) (p : Fin 2) (n : BitVec 1024) : (s.pushNotice p n).mg = s.mg := rfl
@[simp] theorem State.pushNotice_peers (s : State) (p : Fin 2) (n : BitVec 1024) : (s.pushNotice p n).peers = s.peers := rfl
@[simp] theorem State.pushNotice_m (s : State) (p : Fin 2) (n : BitVec 1024) : (s.pushNotice p n).m = s.m := rfl

/-! `register` -/

@[simp] theorem State.register_cycle (s : State) (k : Key) (r : Range) : (s.register k r).cycle = s.cycle := rfl
@[simp] theorem State.register_tsBase (s : State) (k : Key) (r : Range) : (s.register k r).tsBase = s.tsBase := rfl
@[simp] theorem State.register_device (s : State) (k : Key) (r : Range) : (s.register k r).device = s.device := rfl
@[simp] theorem State.register_parts (s : State) (k : Key) (r : Range) : (s.register k r).parts = s.parts := rfl
@[simp] theorem State.register_sh (s : State) (k : Key) (r : Range) : (s.register k r).sh = s.sh := rfl
@[simp] theorem State.register_launches (s : State) (k : Key) (r : Range) : (s.register k r).launches = s.launches := rfl
@[simp] theorem State.register_shoots (s : State) (k : Key) (r : Range) : (s.register k r).shoots = s.shoots := rfl
@[simp] theorem State.register_areas (s : State) (k : Key) (r : Range) : (s.register k r).areas = s.areas := rfl
@[simp] theorem State.register_ports (s : State) (k : Key) (r : Range) : (s.register k r).ports = s.ports := rfl
@[simp] theorem State.register_sems (s : State) (k : Key) (r : Range) : (s.register k r).sems = s.sems := rfl
@[simp] theorem State.register_tie (s : State) (k : Key) (r : Range) : (s.register k r).tie = s.tie := rfl
@[simp] theorem State.register_slaup (s : State) (k : Key) (r : Range) : (s.register k r).slaup = s.slaup := rfl
@[simp] theorem State.register_dom (s : State) (k : Key) (r : Range) : (s.register k r).dom = s.dom := rfl
@[simp] theorem State.register_mg (s : State) (k : Key) (r : Range) : (s.register k r).mg = s.mg := rfl
@[simp] theorem State.register_peers (s : State) (k : Key) (r : Range) : (s.register k r).peers = s.peers := rfl
@[simp] theorem State.register_m (s : State) (k : Key) (r : Range) : (s.register k r).m = s.m := rfl

/-! `unregister` -/

@[simp] theorem State.unregister_cycle (s : State) (k : Key) (n : Nat) (o : RangeOwner) : (s.unregister k n o).cycle = s.cycle := rfl
@[simp] theorem State.unregister_tsBase (s : State) (k : Key) (n : Nat) (o : RangeOwner) : (s.unregister k n o).tsBase = s.tsBase := rfl
@[simp] theorem State.unregister_device (s : State) (k : Key) (n : Nat) (o : RangeOwner) : (s.unregister k n o).device = s.device := rfl
@[simp] theorem State.unregister_parts (s : State) (k : Key) (n : Nat) (o : RangeOwner) : (s.unregister k n o).parts = s.parts := rfl
@[simp] theorem State.unregister_sh (s : State) (k : Key) (n : Nat) (o : RangeOwner) : (s.unregister k n o).sh = s.sh := rfl
@[simp] theorem State.unregister_launches (s : State) (k : Key) (n : Nat) (o : RangeOwner) : (s.unregister k n o).launches = s.launches := rfl
@[simp] theorem State.unregister_shoots (s : State) (k : Key) (n : Nat) (o : RangeOwner) : (s.unregister k n o).shoots = s.shoots := rfl
@[simp] theorem State.unregister_areas (s : State) (k : Key) (n : Nat) (o : RangeOwner) : (s.unregister k n o).areas = s.areas := rfl
@[simp] theorem State.unregister_ports (s : State) (k : Key) (n : Nat) (o : RangeOwner) : (s.unregister k n o).ports = s.ports := rfl
@[simp] theorem State.unregister_sems (s : State) (k : Key) (n : Nat) (o : RangeOwner) : (s.unregister k n o).sems = s.sems := rfl
@[simp] theorem State.unregister_tie (s : State) (k : Key) (n : Nat) (o : RangeOwner) : (s.unregister k n o).tie = s.tie := rfl
@[simp] theorem State.unregister_slaup (s : State) (k : Key) (n : Nat) (o : RangeOwner) : (s.unregister k n o).slaup = s.slaup := rfl
@[simp] theorem State.unregister_dom (s : State) (k : Key) (n : Nat) (o : RangeOwner) : (s.unregister k n o).dom = s.dom := rfl
@[simp] theorem State.unregister_mg (s : State) (k : Key) (n : Nat) (o : RangeOwner) : (s.unregister k n o).mg = s.mg := rfl
@[simp] theorem State.unregister_peers (s : State) (k : Key) (n : Nat) (o : RangeOwner) : (s.unregister k n o).peers = s.peers := rfl
@[simp] theorem State.unregister_m (s : State) (k : Key) (n : Nat) (o : RangeOwner) : (s.unregister k n o).m = s.m := rfl

/-! `setStrm` -/

@[simp] theorem State.setStrm_cycle (s : State) (k : Key) (i : Reg8) (t : Option Stream) : (s.setStrm k i t).cycle = s.cycle := rfl
@[simp] theorem State.setStrm_tsBase (s : State) (k : Key) (i : Reg8) (t : Option Stream) : (s.setStrm k i t).tsBase = s.tsBase := rfl
@[simp] theorem State.setStrm_device (s : State) (k : Key) (i : Reg8) (t : Option Stream) : (s.setStrm k i t).device = s.device := rfl
@[simp] theorem State.setStrm_parts (s : State) (k : Key) (i : Reg8) (t : Option Stream) : (s.setStrm k i t).parts = s.parts := rfl
@[simp] theorem State.setStrm_sh (s : State) (k : Key) (i : Reg8) (t : Option Stream) : (s.setStrm k i t).sh = s.sh := rfl
@[simp] theorem State.setStrm_launches (s : State) (k : Key) (i : Reg8) (t : Option Stream) : (s.setStrm k i t).launches = s.launches := rfl
@[simp] theorem State.setStrm_shoots (s : State) (k : Key) (i : Reg8) (t : Option Stream) : (s.setStrm k i t).shoots = s.shoots := rfl
@[simp] theorem State.setStrm_areas (s : State) (k : Key) (i : Reg8) (t : Option Stream) : (s.setStrm k i t).areas = s.areas := rfl
@[simp] theorem State.setStrm_ports (s : State) (k : Key) (i : Reg8) (t : Option Stream) : (s.setStrm k i t).ports = s.ports := rfl
@[simp] theorem State.setStrm_sems (s : State) (k : Key) (i : Reg8) (t : Option Stream) : (s.setStrm k i t).sems = s.sems := rfl
@[simp] theorem State.setStrm_tie (s : State) (k : Key) (i : Reg8) (t : Option Stream) : (s.setStrm k i t).tie = s.tie := rfl
@[simp] theorem State.setStrm_slaup (s : State) (k : Key) (i : Reg8) (t : Option Stream) : (s.setStrm k i t).slaup = s.slaup := rfl
@[simp] theorem State.setStrm_dom (s : State) (k : Key) (i : Reg8) (t : Option Stream) : (s.setStrm k i t).dom = s.dom := rfl
@[simp] theorem State.setStrm_mg (s : State) (k : Key) (i : Reg8) (t : Option Stream) : (s.setStrm k i t).mg = s.mg := rfl
@[simp] theorem State.setStrm_peers (s : State) (k : Key) (i : Reg8) (t : Option Stream) : (s.setStrm k i t).peers = s.peers := rfl
@[simp] theorem State.setStrm_m (s : State) (k : Key) (i : Reg8) (t : Option Stream) : (s.setStrm k i t).m = s.m := rfl

/-! `later` -/

@[simp] theorem State.later_cycle (s : State) (k : Key) (c : CtxNo) (q : BitVec 8) (v : Option Word) (pc : PC) : (s.later k c q v pc).cycle = s.cycle := rfl
@[simp] theorem State.later_tsBase (s : State) (k : Key) (c : CtxNo) (q : BitVec 8) (v : Option Word) (pc : PC) : (s.later k c q v pc).tsBase = s.tsBase := rfl
@[simp] theorem State.later_device (s : State) (k : Key) (c : CtxNo) (q : BitVec 8) (v : Option Word) (pc : PC) : (s.later k c q v pc).device = s.device := rfl
@[simp] theorem State.later_parts (s : State) (k : Key) (c : CtxNo) (q : BitVec 8) (v : Option Word) (pc : PC) : (s.later k c q v pc).parts = s.parts := rfl
@[simp] theorem State.later_sh (s : State) (k : Key) (c : CtxNo) (q : BitVec 8) (v : Option Word) (pc : PC) : (s.later k c q v pc).sh = s.sh := rfl
@[simp] theorem State.later_launches (s : State) (k : Key) (c : CtxNo) (q : BitVec 8) (v : Option Word) (pc : PC) : (s.later k c q v pc).launches = s.launches := rfl
@[simp] theorem State.later_shoots (s : State) (k : Key) (c : CtxNo) (q : BitVec 8) (v : Option Word) (pc : PC) : (s.later k c q v pc).shoots = s.shoots := rfl
@[simp] theorem State.later_areas (s : State) (k : Key) (c : CtxNo) (q : BitVec 8) (v : Option Word) (pc : PC) : (s.later k c q v pc).areas = s.areas := rfl
@[simp] theorem State.later_ports (s : State) (k : Key) (c : CtxNo) (q : BitVec 8) (v : Option Word) (pc : PC) : (s.later k c q v pc).ports = s.ports := rfl
@[simp] theorem State.later_sems (s : State) (k : Key) (c : CtxNo) (q : BitVec 8) (v : Option Word) (pc : PC) : (s.later k c q v pc).sems = s.sems := rfl
@[simp] theorem State.later_tie (s : State) (k : Key) (c : CtxNo) (q : BitVec 8) (v : Option Word) (pc : PC) : (s.later k c q v pc).tie = s.tie := rfl
@[simp] theorem State.later_slaup (s : State) (k : Key) (c : CtxNo) (q : BitVec 8) (v : Option Word) (pc : PC) : (s.later k c q v pc).slaup = s.slaup := rfl
@[simp] theorem State.later_dom (s : State) (k : Key) (c : CtxNo) (q : BitVec 8) (v : Option Word) (pc : PC) : (s.later k c q v pc).dom = s.dom := rfl
@[simp] theorem State.later_mg (s : State) (k : Key) (c : CtxNo) (q : BitVec 8) (v : Option Word) (pc : PC) : (s.later k c q v pc).mg = s.mg := rfl
@[simp] theorem State.later_peers (s : State) (k : Key) (c : CtxNo) (q : BitVec 8) (v : Option Word) (pc : PC) : (s.later k c q v pc).peers = s.peers := rfl
@[simp] theorem State.later_m (s : State) (k : Key) (c : CtxNo) (q : BitVec 8) (v : Option Word) (pc : PC) : (s.later k c q v pc).m = s.m := rfl

/-! `updSlaup` -/

@[simp] theorem State.updSlaup_cycle (s : State) (p : Fin 18) (f : SlaupPort → SlaupPort) : (s.updSlaup p f).cycle = s.cycle := rfl
@[simp] theorem State.updSlaup_tsBase (s : State) (p : Fin 18) (f : SlaupPort → SlaupPort) : (s.updSlaup p f).tsBase = s.tsBase := rfl
@[simp] theorem State.updSlaup_device (s : State) (p : Fin 18) (f : SlaupPort → SlaupPort) : (s.updSlaup p f).device = s.device := rfl
@[simp] theorem State.updSlaup_cores (s : State) (p : Fin 18) (f : SlaupPort → SlaupPort) : (s.updSlaup p f).cores = s.cores := rfl
@[simp] theorem State.updSlaup_parts (s : State) (p : Fin 18) (f : SlaupPort → SlaupPort) : (s.updSlaup p f).parts = s.parts := rfl
@[simp] theorem State.updSlaup_sh (s : State) (p : Fin 18) (f : SlaupPort → SlaupPort) : (s.updSlaup p f).sh = s.sh := rfl
@[simp] theorem State.updSlaup_launches (s : State) (p : Fin 18) (f : SlaupPort → SlaupPort) : (s.updSlaup p f).launches = s.launches := rfl
@[simp] theorem State.updSlaup_shoots (s : State) (p : Fin 18) (f : SlaupPort → SlaupPort) : (s.updSlaup p f).shoots = s.shoots := rfl
@[simp] theorem State.updSlaup_areas (s : State) (p : Fin 18) (f : SlaupPort → SlaupPort) : (s.updSlaup p f).areas = s.areas := rfl
@[simp] theorem State.updSlaup_ports (s : State) (p : Fin 18) (f : SlaupPort → SlaupPort) : (s.updSlaup p f).ports = s.ports := rfl
@[simp] theorem State.updSlaup_sems (s : State) (p : Fin 18) (f : SlaupPort → SlaupPort) : (s.updSlaup p f).sems = s.sems := rfl
@[simp] theorem State.updSlaup_tie (s : State) (p : Fin 18) (f : SlaupPort → SlaupPort) : (s.updSlaup p f).tie = s.tie := rfl
@[simp] theorem State.updSlaup_dom (s : State) (p : Fin 18) (f : SlaupPort → SlaupPort) : (s.updSlaup p f).dom = s.dom := rfl
@[simp] theorem State.updSlaup_mg (s : State) (p : Fin 18) (f : SlaupPort → SlaupPort) : (s.updSlaup p f).mg = s.mg := rfl
@[simp] theorem State.updSlaup_peers (s : State) (p : Fin 18) (f : SlaupPort → SlaupPort) : (s.updSlaup p f).peers = s.peers := rfl
@[simp] theorem State.updSlaup_m (s : State) (p : Fin 18) (f : SlaupPort → SlaupPort) : (s.updSlaup p f).m = s.m := rfl

/-! `updLane` -/

@[simp] theorem State.updLane_cycle (s : State) (n : Nat) (f : Lane → Lane) : (s.updLane n f).cycle = s.cycle := rfl
@[simp] theorem State.updLane_tsBase (s : State) (n : Nat) (f : Lane → Lane) : (s.updLane n f).tsBase = s.tsBase := rfl
@[simp] theorem State.updLane_device (s : State) (n : Nat) (f : Lane → Lane) : (s.updLane n f).device = s.device := rfl
@[simp] theorem State.updLane_cores (s : State) (n : Nat) (f : Lane → Lane) : (s.updLane n f).cores = s.cores := rfl
@[simp] theorem State.updLane_sh (s : State) (n : Nat) (f : Lane → Lane) : (s.updLane n f).sh = s.sh := rfl
@[simp] theorem State.updLane_launches (s : State) (n : Nat) (f : Lane → Lane) : (s.updLane n f).launches = s.launches := rfl
@[simp] theorem State.updLane_shoots (s : State) (n : Nat) (f : Lane → Lane) : (s.updLane n f).shoots = s.shoots := rfl
@[simp] theorem State.updLane_areas (s : State) (n : Nat) (f : Lane → Lane) : (s.updLane n f).areas = s.areas := rfl
@[simp] theorem State.updLane_ports (s : State) (n : Nat) (f : Lane → Lane) : (s.updLane n f).ports = s.ports := rfl
@[simp] theorem State.updLane_sems (s : State) (n : Nat) (f : Lane → Lane) : (s.updLane n f).sems = s.sems := rfl
@[simp] theorem State.updLane_tie (s : State) (n : Nat) (f : Lane → Lane) : (s.updLane n f).tie = s.tie := rfl
@[simp] theorem State.updLane_slaup (s : State) (n : Nat) (f : Lane → Lane) : (s.updLane n f).slaup = s.slaup := rfl
@[simp] theorem State.updLane_dom (s : State) (n : Nat) (f : Lane → Lane) : (s.updLane n f).dom = s.dom := rfl
@[simp] theorem State.updLane_mg (s : State) (n : Nat) (f : Lane → Lane) : (s.updLane n f).mg = s.mg := rfl
@[simp] theorem State.updLane_peers (s : State) (n : Nat) (f : Lane → Lane) : (s.updLane n f).peers = s.peers := rfl
@[simp] theorem State.updLane_m (s : State) (n : Nat) (f : Lane → Lane) : (s.updLane n f).m = s.m := rfl

/-! `putRaw` -/

@[simp] theorem State.putRaw_cycle (s : State) (k : Key) (ps : List (Nat × Nat × Nat)) : (s.putRaw k ps).cycle = s.cycle := rfl
@[simp] theorem State.putRaw_tsBase (s : State) (k : Key) (ps : List (Nat × Nat × Nat)) : (s.putRaw k ps).tsBase = s.tsBase := rfl
@[simp] theorem State.putRaw_device (s : State) (k : Key) (ps : List (Nat × Nat × Nat)) : (s.putRaw k ps).device = s.device := rfl
@[simp] theorem State.putRaw_cores (s : State) (k : Key) (ps : List (Nat × Nat × Nat)) : (s.putRaw k ps).cores = s.cores := rfl
@[simp] theorem State.putRaw_parts (s : State) (k : Key) (ps : List (Nat × Nat × Nat)) : (s.putRaw k ps).parts = s.parts := rfl
@[simp] theorem State.putRaw_launches (s : State) (k : Key) (ps : List (Nat × Nat × Nat)) : (s.putRaw k ps).launches = s.launches := rfl
@[simp] theorem State.putRaw_shoots (s : State) (k : Key) (ps : List (Nat × Nat × Nat)) : (s.putRaw k ps).shoots = s.shoots := rfl
@[simp] theorem State.putRaw_areas (s : State) (k : Key) (ps : List (Nat × Nat × Nat)) : (s.putRaw k ps).areas = s.areas := rfl
@[simp] theorem State.putRaw_ports (s : State) (k : Key) (ps : List (Nat × Nat × Nat)) : (s.putRaw k ps).ports = s.ports := rfl
@[simp] theorem State.putRaw_sems (s : State) (k : Key) (ps : List (Nat × Nat × Nat)) : (s.putRaw k ps).sems = s.sems := rfl
@[simp] theorem State.putRaw_tie (s : State) (k : Key) (ps : List (Nat × Nat × Nat)) : (s.putRaw k ps).tie = s.tie := rfl
@[simp] theorem State.putRaw_slaup (s : State) (k : Key) (ps : List (Nat × Nat × Nat)) : (s.putRaw k ps).slaup = s.slaup := rfl
@[simp] theorem State.putRaw_dom (s : State) (k : Key) (ps : List (Nat × Nat × Nat)) : (s.putRaw k ps).dom = s.dom := rfl
@[simp] theorem State.putRaw_mg (s : State) (k : Key) (ps : List (Nat × Nat × Nat)) : (s.putRaw k ps).mg = s.mg := rfl
@[simp] theorem State.putRaw_peers (s : State) (k : Key) (ps : List (Nat × Nat × Nat)) : (s.putRaw k ps).peers = s.peers := rfl
@[simp] theorem State.putRaw_m (s : State) (k : Key) (ps : List (Nat × Nat × Nat)) : (s.putRaw k ps).m = s.m := rfl

/-! `executing` -/

@[simp] theorem State.executing_cycle (s : State) (k : Key) (c : CtxNo) (ws : List Nat) (l : Option Bool) : (s.executing k c ws l).cycle = s.cycle := rfl
@[simp] theorem State.executing_tsBase (s : State) (k : Key) (c : CtxNo) (ws : List Nat) (l : Option Bool) : (s.executing k c ws l).tsBase = s.tsBase := rfl
@[simp] theorem State.executing_device (s : State) (k : Key) (c : CtxNo) (ws : List Nat) (l : Option Bool) : (s.executing k c ws l).device = s.device := rfl
@[simp] theorem State.executing_cores (s : State) (k : Key) (c : CtxNo) (ws : List Nat) (l : Option Bool) : (s.executing k c ws l).cores = s.cores := rfl
@[simp] theorem State.executing_parts (s : State) (k : Key) (c : CtxNo) (ws : List Nat) (l : Option Bool) : (s.executing k c ws l).parts = s.parts := rfl
@[simp] theorem State.executing_sh (s : State) (k : Key) (c : CtxNo) (ws : List Nat) (l : Option Bool) : (s.executing k c ws l).sh = s.sh := rfl
@[simp] theorem State.executing_launches (s : State) (k : Key) (c : CtxNo) (ws : List Nat) (l : Option Bool) : (s.executing k c ws l).launches = s.launches := rfl
@[simp] theorem State.executing_shoots (s : State) (k : Key) (c : CtxNo) (ws : List Nat) (l : Option Bool) : (s.executing k c ws l).shoots = s.shoots := rfl
@[simp] theorem State.executing_areas (s : State) (k : Key) (c : CtxNo) (ws : List Nat) (l : Option Bool) : (s.executing k c ws l).areas = s.areas := rfl
@[simp] theorem State.executing_ports (s : State) (k : Key) (c : CtxNo) (ws : List Nat) (l : Option Bool) : (s.executing k c ws l).ports = s.ports := rfl
@[simp] theorem State.executing_sems (s : State) (k : Key) (c : CtxNo) (ws : List Nat) (l : Option Bool) : (s.executing k c ws l).sems = s.sems := rfl
@[simp] theorem State.executing_tie (s : State) (k : Key) (c : CtxNo) (ws : List Nat) (l : Option Bool) : (s.executing k c ws l).tie = s.tie := rfl
@[simp] theorem State.executing_slaup (s : State) (k : Key) (c : CtxNo) (ws : List Nat) (l : Option Bool) : (s.executing k c ws l).slaup = s.slaup := rfl
@[simp] theorem State.executing_dom (s : State) (k : Key) (c : CtxNo) (ws : List Nat) (l : Option Bool) : (s.executing k c ws l).dom = s.dom := rfl
@[simp] theorem State.executing_mg (s : State) (k : Key) (c : CtxNo) (ws : List Nat) (l : Option Bool) : (s.executing k c ws l).mg = s.mg := rfl
@[simp] theorem State.executing_peers (s : State) (k : Key) (c : CtxNo) (ws : List Nat) (l : Option Bool) : (s.executing k c ws l).peers = s.peers := rfl

end Sys2Proof.Machine
end

