-- ==== Sys2Proof/Laws/Core.lean ====
section
/-! SUPPORT. Lists kept by key; cores and contexts after an update; registers after a write; what an instruction leaves. -/
namespace Sys2Proof.Machine
open Sys2Proof

/-! ## Lists kept by key -/

@[simp] theorem aget_aset_same {α : Type} (l : List (Nat × α)) (n : Nat) (x : α) : aget (aset l n x) n = some x := by
  induction l with
  | nil => simp [aset, aget]
  | cons e l ih =>
    obtain ⟨k, v⟩ := e
    simp only [aset]
    split
    · simp [aget]
    · split
      · simp [aget]
      · simp [aget, *]

theorem aget_aset_ne {α : Type} (l : List (Nat × α)) {n j : Nat} (x : α) (h : j ≠ n) :
    aget (aset l n x) j = aget l j := by
  have h' : n ≠ j := fun e => h e.symm
  induction l with
  | nil => simp [aset, aget, h']
  | cons e l ih =>
    obtain ⟨k, v⟩ := e
    simp only [aset]
    split
    · rename_i hk; subst hk; simp [aget, h']
    · split
      · simp [aget, h']
      · simp [aget, ih]

theorem aget_aset {α : Type} (l : List (Nat × α)) (n j : Nat) (x : α) :
    aget (aset l n x) j = if j = n then some x else aget l j := by
  split
  · next h => rw [h, aget_aset_same]
  · next h => exact aget_aset_ne l x h

/-! ## Cores -/

@[simp] theorem State.core_setCore_same (s : State) (k : Key) (c : Core) : (s.setCore k c).core k = c := by
  simp [State.core, State.setCore]

theorem State.core_setCore_ne (s : State) {k j : Key} (c : Core) (h : j ≠ k) : (s.setCore k c).core j = s.core j := by
  have : j.val ≠ k.val := fun e => h (Fin.ext e)
  simp [State.core, State.setCore, aget_aset_ne _ _ this]

theorem State.core_setCore (s : State) (k j : Key) (c : Core) : (s.setCore k c).core j = if j = k then c else s.core j := by
  split
  · next h => rw [h, core_setCore_same]
  · next h => exact core_setCore_ne s c h

@[simp] theorem State.core_updCore_same (s : State) (k : Key) (f : Core → Core) : (s.updCore k f).core k = f (s.core k) := by
  simp [State.updCore]

theorem State.core_updCore_ne (s : State) {k j : Key} (f : Core → Core) (h : j ≠ k) : (s.updCore k f).core j = s.core j :=
  core_setCore_ne s _ h

theorem State.core_updCore (s : State) (k j : Key) (f : Core → Core) :
    (s.updCore k f).core j = if j = k then f (s.core k) else s.core j := core_setCore s k j _

/-- The cores depend on their list alone. -/
theorem State.core_congr {s t : State} (h : s.cores = t.cores) (k : Key) : s.core k = t.core k := by simp [State.core, h]

@[simp] theorem State.core_setFate (s : State) (f : Fate) (k : Key) : (s.setFate f).core k = s.core k := rfl
@[simp] theorem State.core_setMem (s : State) (m : Memory) (k : Key) : (s.setMem m).core k = s.core k := rfl
@[simp] theorem State.core_post (s : State) (m : Msg) (k : Key) : (s.post m).core k = s.core k := rfl
@[simp] theorem State.core_putRaw (s : State) (k : Key) (ps : List (Nat × Nat × Nat)) (j : Key) :
    (s.putRaw k ps).core j = s.core j := rfl
@[simp] theorem State.core_executing (s : State) (k : Key) (c : CtxNo) (ws : List Nat) (l : Option Bool) (j : Key) :
    (s.executing k c ws l).core j = s.core j := rfl

/-! ## Contexts -/

@[simp] theorem Core.ctx_setCtx_same (co : Core) (c : CtxNo) (x : Ctx) : (co.setCtx c x).ctx c = x := by
  simp [Core.ctx, Core.setCtx]

theorem Core.ctx_setCtx_ne (co : Core) {c d : CtxNo} (x : Ctx) (h : d ≠ c) : (co.setCtx c x).ctx d = co.ctx d := by
  have : c.val ≠ d.val := fun e => h (Fin.ext e.symm)
  simp [Core.ctx, Core.setCtx, Vector.getElem_set_ne, this]

theorem Core.ctx_setCtx (co : Core) (c d : CtxNo) (x : Ctx) : (co.setCtx c x).ctx d = if d = c then x else co.ctx d := by
  split
  · next h => rw [h, ctx_setCtx_same]
  · next h => exact ctx_setCtx_ne co x h

@[simp] theorem Core.ctx_updCtx_same (co : Core) (c : CtxNo) (f : Ctx → Ctx) : (co.updCtx c f).ctx c = f (co.ctx c) := by
  simp [Core.updCtx]

theorem Core.ctx_updCtx (co : Core) (c d : CtxNo) (f : Ctx → Ctx) :
    (co.updCtx c f).ctx d = if d = c then f (co.ctx c) else co.ctx d := ctx_setCtx co c d _

@[simp] theorem State.ctx_updCtx_same (s : State) (k : Key) (c : CtxNo) (f : Ctx → Ctx) :
    (s.updCtx k c f).ctx k c = f (s.ctx k c) := by simp [State.ctx, State.updCtx]

theorem State.ctx_updCtx (s : State) (k j : Key) (c d : CtxNo) (f : Ctx → Ctx) :
    (s.updCtx k c f).ctx j d = if j = k ∧ d = c then f (s.ctx k c) else s.ctx j d := by
  simp only [State.ctx, State.updCtx, State.core_updCore]
  by_cases h : j = k
  · subst h; simp [Core.ctx_updCtx]
  · simp [h]

@[simp] theorem State.ctx_setFate (s : State) (f : Fate) (k : Key) (c : CtxNo) : (s.setFate f).ctx k c = s.ctx k c := rfl

/-! ## The executing context -/

@[simp] theorem State.me_setCore (s : State) (k : Key) (c : Core) : (s.setCore k c).me = s.me := rfl
@[simp] theorem State.me_updCore (s : State) (k : Key) (f : Core → Core) : (s.updCore k f).me = s.me := rfl
@[simp] theorem State.me_updCtx (s : State) (k : Key) (c : CtxNo) (f : Ctx → Ctx) : (s.updCtx k c f).me = s.me := rfl
@[simp] theorem State.me_upd (s : State) (f : Ctx → Ctx) : (s.upd f).me = s.me := rfl
@[simp] theorem State.me_updMine (s : State) (f : Core → Core) : (s.updMine f).me = s.me := rfl
@[simp] theorem State.me_setFate (s : State) (f : Fate) : (s.setFate f).me = s.me := rfl
@[simp] theorem State.me_jump (s : State) (pc : PC) : (s.jump pc).me = s.me := rfl
@[simp] theorem State.me_retire (s : State) : s.retire.me = s.me := rfl
@[simp] theorem State.me_park (s : State) (w : Wait) : (s.park w).me = s.me := rfl
@[simp] theorem State.me_setMem (s : State) (m : Memory) : (s.setMem m).me = s.me := rfl
@[simp] theorem State.cc_setCore (s : State) (k : Key) (c : Core) : (s.setCore k c).cc = s.cc := rfl
@[simp] theorem State.cc_updCore (s : State) (k : Key) (f : Core → Core) : (s.updCore k f).cc = s.cc := rfl
@[simp] theorem State.cc_updCtx (s : State) (k : Key) (c : CtxNo) (f : Ctx → Ctx) : (s.updCtx k c f).cc = s.cc := rfl
@[simp] theorem State.cc_upd (s : State) (f : Ctx → Ctx) : (s.upd f).cc = s.cc := rfl
@[simp] theorem State.cc_updMine (s : State) (f : Core → Core) : (s.updMine f).cc = s.cc := rfl
@[simp] theorem State.cc_setFate (s : State) (f : Fate) : (s.setFate f).cc = s.cc := rfl
@[simp] theorem State.cc_jump (s : State) (pc : PC) : (s.jump pc).cc = s.cc := rfl
@[simp] theorem State.cc_retire (s : State) : s.retire.cc = s.cc := rfl
@[simp] theorem State.cc_park (s : State) (w : Wait) : (s.park w).cc = s.cc := rfl
@[simp] theorem State.cc_setMem (s : State) (m : Memory) : (s.setMem m).cc = s.cc := rfl

@[simp] theorem State.my_upd (s : State) (f : Ctx → Ctx) : (s.upd f).my = f s.my :=
  State.ctx_updCtx_same s s.me s.cc f
@[simp] theorem State.my_setFate (s : State) (f : Fate) : (s.setFate f).my = s.my := rfl
@[simp] theorem State.my_setMem (s : State) (m : Memory) : (s.setMem m).my = s.my := rfl
@[simp] theorem State.my_jump (s : State) (pc : PC) : (s.jump pc).my = { s.my with pc := pc } := by simp [State.jump]
@[simp] theorem State.my_retire (s : State) : s.retire.my = { s.my with pc := s.succ } := by simp [State.retire]
@[simp] theorem State.my_park (s : State) (w : Wait) : (s.park w).my = { s.my with run := .parked w s.succ } := by
  simp [State.park]
@[simp] theorem State.myCore_updMine (s : State) (f : Core → Core) : (s.updMine f).myCore = f s.myCore :=
  State.core_updCore_same s s.me f
@[simp] theorem State.myCore_setFate (s : State) (f : Fate) : (s.setFate f).myCore = s.myCore := rfl
@[simp] theorem State.fate_setFate (s : State) (f : Fate) : (s.setFate f).m.fate = f := rfl
@[simp] theorem State.fate_jump (s : State) (pc : PC) : (s.jump pc).m.fate = .retired := rfl
@[simp] theorem State.fate_retire (s : State) : s.retire.m.fate = .retired := rfl
@[simp] theorem State.fate_park (s : State) (w : Wait) : (s.park w).m.fate = .parked := rfl

/-! ## Registers (02 R38, R40) -/

@[simp] theorem Ctx.x_zero (c : Ctx) : c.x 0 = 0 := rfl
@[simp] theorem Ctx.p_zero (c : Ctx) : c.p 0 = BitVec.allOnes 64 := rfl
@[simp] theorem Ctx.putX_zero (c : Ctx) (w : Word) : c.putX 0 w = c := rfl
@[simp] theorem Ctx.putP_zero (c : Ctx) (w : Word) : c.putP 0 w = c := rfl

theorem Ctx.x_putX (c : Ctx) (r q : Reg) (w : Word) : (c.putX r w).x q = if q = r ∧ r ≠ 0 then w else c.x q := by
  by_cases hr : r = 0
  · subst hr; simp
  · by_cases hq : q = r
    · subst hq; simp [Ctx.x, Ctx.putX, hr]
    · have : r.val ≠ q.val := fun e => hq (Fin.ext e.symm)
      simp [Ctx.x, Ctx.putX, hr, hq, Vector.getElem_set_ne, this]

theorem Ctx.v_putV (c : Ctx) (r q : Reg) (w : VWord) : (c.putV r w).v q = if q = r then w else c.v q := by
  by_cases hq : q = r
  · subst hq; simp [Ctx.v, Ctx.putV]
  · have : r.val ≠ q.val := fun e => hq (Fin.ext e.symm)
    simp [Ctx.v, Ctx.putV, hq, Vector.getElem_set_ne, this]

theorem Ctx.p_putP (c : Ctx) (r q : Reg8) (w : Word) : (c.putP r w).p q = if q = r ∧ r ≠ 0 then w else c.p q := by
  by_cases hr : r = 0
  · subst hr; simp
  · by_cases hq : q = r
    · subst hq; simp [Ctx.p, Ctx.putP, hr]
    · have : r.val ≠ q.val := fun e => hq (Fin.ext e.symm)
      simp [Ctx.p, Ctx.putP, hr, hq, Vector.getElem_set_ne, this]

theorem Ctx.g_putG (c : Ctx) (r q : Reg8) (w : BitVec 32) : (c.putG r w).g q = if q = r then w else c.g q := by
  by_cases hq : q = r
  · subst hq; simp [Ctx.g, Ctx.putG]
  · have : r.val ≠ q.val := fun e => hq (Fin.ext e.symm)
    simp [Ctx.g, Ctx.putG, hq, Vector.getElem_set_ne, this]

@[simp] theorem Ctx.putX_pc (c : Ctx) (r : Reg) (w : Word) : (c.putX r w).pc = c.pc := by unfold Ctx.putX; split <;> rfl
@[simp] theorem Ctx.putX_csr (c : Ctx) (r : Reg) (w : Word) : (c.putX r w).csr = c.csr := by unfold Ctx.putX; split <;> rfl
@[simp] theorem Ctx.putX_run (c : Ctx) (r : Reg) (w : Word) : (c.putX r w).run = c.run := by unfold Ctx.putX; split <;> rfl
@[simp] theorem Ctx.putX_aux (c : Ctx) (r : Reg) (w : Word) : (c.putX r w).aux = c.aux := by unfold Ctx.putX; split <;> rfl
@[simp] theorem Ctx.putX_v (c : Ctx) (r : Reg) (w : Word) (q : Reg) : (c.putX r w).v q = c.v q := by
  unfold Ctx.putX; split <;> rfl
@[simp] theorem Ctx.putX_p (c : Ctx) (r : Reg) (w : Word) (q : Reg8) : (c.putX r w).p q = c.p q := by
  unfold Ctx.putX; split <;> rfl
@[simp] theorem Ctx.putX_g (c : Ctx) (r : Reg) (w : Word) (q : Reg8) : (c.putX r w).g q = c.g q := by
  unfold Ctx.putX; split <;> rfl
@[simp] theorem Ctx.putP_pc (c : Ctx) (r : Reg8) (w : Word) : (c.putP r w).pc = c.pc := by unfold Ctx.putP; split <;> rfl
@[simp] theorem Ctx.putP_csr (c : Ctx) (r : Reg8) (w : Word) : (c.putP r w).csr = c.csr := by unfold Ctx.putP; split <;> rfl
@[simp] theorem Ctx.putP_aux (c : Ctx) (r : Reg8) (w : Word) : (c.putP r w).aux = c.aux := by unfold Ctx.putP; split <;> rfl
@[simp] theorem Ctx.putP_x (c : Ctx) (r : Reg8) (w : Word) (q : Reg) : (c.putP r w).x q = c.x q := by
  unfold Ctx.putP; split <;> rfl
@[simp] theorem Ctx.putP_v (c : Ctx) (r : Reg8) (w : Word) (q : Reg) : (c.putP r w).v q = c.v q := by
  unfold Ctx.putP; split <;> rfl
@[simp] theorem Ctx.putV_pc (c : Ctx) (r : Reg) (w : VWord) : (c.putV r w).pc = c.pc := rfl
@[simp] theorem Ctx.putV_csr (c : Ctx) (r : Reg) (w : VWord) : (c.putV r w).csr = c.csr := rfl
@[simp] theorem Ctx.putV_aux (c : Ctx) (r : Reg) (w : VWord) : (c.putV r w).aux = c.aux := rfl
@[simp] theorem Ctx.putV_x (c : Ctx) (r : Reg) (w : VWord) (q : Reg) : (c.putV r w).x q = c.x q := rfl
@[simp] theorem Ctx.putV_p (c : Ctx) (r : Reg) (w : VWord) (q : Reg8) : (c.putV r w).p q = c.p q := rfl

/-! ## How exec ends -/

@[simp] theorem conclude_ok (s t : State) : conclude s (.ok t) = .next t := rfl
@[simp] theorem conclude_pure (s t : State) : conclude s (pure t) = .next t := rfl
@[simp] theorem conclude_stall (s : State) : conclude s (.error .stall) = .next (s.setFate .stalled) := rfl
@[simp] theorem conclude_trap (s : State) (c : BitVec 8) (v : Option Word) :
    conclude s (.error (.trap c v)) = .next (s.raise c v) := rfl
@[simp] theorem conclude_full (s : State) (co : Core) (v : Option Word) :
    conclude s (.error (.full co v)) = .next ((s.setLogged s.me (s.myCore.madeRoom co)).raise 0x12 v) := rfl
@[simp] theorem conclude_inject (s : State) (c : BitVec 8) (v : Word) (k : Fin 4) :
    conclude s (.error (.inject c v k)) = .next ((s.fireTrigger s.me s.cc k).raise c (some v)) := rfl

/-- A meaning that ends through `conclude` always answers a next state. -/
theorem conclude_next (s : State) (r : Res) : ∃ t, conclude s r = .next t := by
  unfold conclude; split <;> exact ⟨_, rfl⟩

/-- An event always answers a next state. -/
theorem fire_next (s : State) (r : Option State) : ∃ t, fire s r = .next t := ⟨_, rfl⟩

@[simp] theorem fire_some (s t : State) : fire s (some t) = .next (t.setFate .quiet) := rfl
@[simp] theorem fire_none (s : State) : fire s none = .next (s.setFate .quiet) := rfl

end Sys2Proof.Machine
end

