-- ==== Sys2Proof/Laws/Log.lean ====
section
/-! SUPPORT. Appending to the undo log where it has room, and register writes with their entries (11 R321, R329; 04 R94). -/
namespace Sys2Proof.Machine
open Sys2Proof

theorem Core.discard_of_room {co : Core} (h : 256 < co.logFree) : co.discard = co := by
  simp [Core.discard, Nat.not_le.2 h]

theorem appendOwn_room {co : Core} (h : 256 < co.logFree) (e : LogEntry) :
    Machine.appendOwn appendFuel co e = .ok (co.push e) := by
  simp [appendFuel, Machine.appendOwn, Core.discard_of_room h, h]

theorem Core.logFree_push {co : Core} {n : Nat} (e : LogEntry) (h : n + 1 < co.logFree) : n < (co.push e).logFree := by
  simp only [Core.logFree, Core.push, List.length_cons] at *; omega

@[simp] theorem Core.ssLosses_push (co : Core) (e : LogEntry) : (co.push e).ssLosses = co.ssLosses := rfl

/-- An append that makes no superstep unrecoverable changes its own core alone. -/
theorem State.setLogged_push (s : State) (k : Key) (e : LogEntry) :
    s.setLogged k ((s.core k).push e) = s.setCore k ((s.core k).push e) := by
  simp [State.setLogged]

theorem State.appendOwn_room {s : State} (h : 256 < s.myCore.logFree) (e : LogEntry) :
    s.appendOwn e = .ok (s.withLog [e]) := by
  simp only [State.appendOwn, Machine.appendOwn_room h]
  exact congrArg Except.ok (State.setLogged_push s s.me e)

/-- The executing core, its context and what debug mode is stay after an append. -/
theorem State.withLog_cons (s : State) (e : LogEntry) (es : List LogEntry) : (s.withLog [e]).withLog es = s.withLog (e :: es) := by
  simp only [State.withLog, State.updMine, State.updCore, State.me, State.setCore, State.core, List.foldl]
  congr 1
  simp only [aget_aset_same, Option.getD_some]
  generalize s.cores = l
  generalize s.m.cur.1.val = n
  induction l with
  | nil => simp [aset, aget]
  | cons a l ih =>
    obtain ⟨k, v⟩ := a
    simp only [aset, aget]
    by_cases h1 : k = n
    · simp [h1, aset]
    · by_cases h2 : n < k
      · simp [h1, h2, aset]
      · simp [h1, h2, aset, ih]

@[simp] theorem State.withLog_nil_myCore (s : State) : (s.withLog []).myCore = s.myCore := by simp [State.withLog]
@[simp] theorem State.withLog_my (s : State) (es : List LogEntry) : (s.withLog es).my = s.my := by
  have : ∀ (es : List LogEntry) (co : Core) (c : CtxNo), (es.foldl Core.push co).ctx c = co.ctx c := by
    intro es; induction es with
    | nil => intros; rfl
    | cons e es ih => intro co c; simp only [List.foldl, ih]; rfl
  simp only [State.my, State.ctx, State.withLog, State.updMine]
  show (_ : Core).ctx _ = _
  rw [show (s.updCore s.me fun co => List.foldl Core.push co es).me = s.me from rfl, State.core_updCore_same]
  exact this es _ _
theorem State.withLog_core_ne (s : State) (es : List LogEntry) {k : Key} (h : k ≠ s.me) : (s.withLog es).core k = s.core k :=
  State.core_updCore_ne s _ h
@[simp] theorem State.noted_nil_of_off {s : State} (es : List LogEntry) (h : s.debug s.me = false) : s.noted es = s := by
  simp [State.noted, h]
@[simp] theorem State.noted_my (s : State) (es : List LogEntry) : (s.noted es).my = s.my := by
  unfold State.noted; split <;> simp
@[simp] theorem State.noted_sh (s : State) (es : List LogEntry) : (s.noted es).sh = s.sh := by
  unfold State.noted; split <;> rfl
@[simp] theorem State.noted_me (s : State) (es : List LogEntry) : (s.noted es).me = s.me := by
  unfold State.noted; split <;> rfl
@[simp] theorem State.noted_cc (s : State) (es : List LogEntry) : (s.noted es).cc = s.cc := by
  unfold State.noted; split <;> rfl
@[simp] theorem State.noted_m (s : State) (es : List LogEntry) : (s.noted es).m = s.m := by
  unfold State.noted; split <;> rfl
@[simp] theorem State.noted_parts (s : State) (es : List LogEntry) : (s.noted es).parts = s.parts := by
  unfold State.noted; split <;> rfl
theorem State.noted_core_ne (s : State) (es : List LogEntry) {k : Key} (h : k ≠ s.me) : (s.noted es).core k = s.core k := by
  unfold State.noted; split
  · exact State.withLog_core_ne s es h
  · rfl

/-- One register entry, where there is room. -/
theorem State.logReg_room {s : State} (h : s.Room 0) (cls : Fin 3) (r : Reg) (part : Fin 8) (old : Word) :
    s.logReg cls r part old = .ok (s.noted [⟨.reg s.cc cls r part, old⟩]) := by
  unfold State.logReg State.noted
  split
  · next hd => exact State.appendOwn_room (by have := h hd; omega) _
  · rfl

theorem State.setX_room {s : State} (h : s.Room 1) (r : Reg) (w : Word) : s.setX r w = .ok (s.wroteX r w) := by
  have h0 : s.Room 0 := fun hd => by have := h hd; omega
  simp only [State.setX, State.logReg_room h0]; rfl

theorem State.setP_room {s : State} (h : s.Room 1) (r : Reg8) (w : Word) : s.setP r w = .ok (s.wroteP r w) := by
  have h0 : s.Room 0 := fun hd => by have := h hd; omega
  simp only [State.setP, State.logReg_room h0]; rfl

@[simp] theorem State.debug_withLog (s : State) (es : List LogEntry) (k : Key) : (s.withLog es).debug k = s.debug k := rfl

/-- Entries appended one by one. -/
theorem State.logRegs_room {s : State} (i : Fin 8) (l : List (Fin 8)) (cls : Fin 3) (r : Reg) (old : Nat → Word)
    (h : s.Room (l.length + 1)) :
    (i :: l).foldlM (fun (s : State) (i : Fin 8) => s.logReg cls r i (old i.val)) s =
      .ok (s.noted ((i :: l).map fun i => ⟨.reg s.cc cls r i, old i.val⟩)) := by
  induction l generalizing s i with
  | nil =>
    have h0 : s.Room 0 := fun hd => by have := h hd; simp only [List.length_nil] at this; omega
    simp only [List.foldlM, State.logReg_room h0]; rfl
  | cons j l ih =>
    have h0 : s.Room 0 := fun hd => by have := h hd; omega
    rw [List.foldlM_cons, State.logReg_room h0]
    show (j :: l).foldlM (fun (s : State) (i : Fin 8) => s.logReg cls r i (old i.val)) (s.noted [⟨.reg s.cc cls r i, old i.val⟩]) = _
    by_cases hd : s.debug s.me = true
    · have hn : ∀ es, s.noted es = s.withLog es := fun es => by simp [State.noted, hd]
      have hr : (s.withLog [⟨.reg s.cc cls r i, old i.val⟩]).Room (l.length + 1) := fun _ => by
        have h1 := h hd
        have : (s.withLog [⟨.reg s.cc cls r i, old i.val⟩]).myCore = s.myCore.push ⟨.reg s.cc cls r i, old i.val⟩ := by
          simp [State.withLog]
        rw [this]
        simp only [List.length_cons] at h1
        exact Core.logFree_push _ (by omega)
      rw [hn, ih j hr]
      have hn' : ∀ a es, (s.withLog [a]).noted es = (s.withLog [a]).withLog es := fun a es => by
        have : (s.withLog [a]).debug (s.withLog [a]).me = true := hd
        simp [State.noted, this]
      rw [hn', hn, State.withLog_cons]; rfl
    · have hn : ∀ es, s.noted es = s := fun es => by simp [State.noted, hd]
      rw [hn, hn, ih j (fun h' => absurd h' hd), hn]

theorem State.setV_room {s : State} (h : s.Room 8) (r : Reg) (w : VWord) : s.setV r w = .ok (s.wroteV r w) := by
  have := State.logRegs_room (s := s) 0 [1, 2, 3, 4, 5, 6, 7] 1 r (fun i => eword (s.v r) i) h
  simp only [State.setV]
  erw [this]; rfl

/-! ## What a register write changes -/

@[simp] theorem State.wroteX_my (s : State) (r : Reg) (w : Word) : (s.wroteX r w).my = s.my.putX r w := by
  simp [State.wroteX]
@[simp] theorem State.wroteV_my (s : State) (r : Reg) (w : VWord) : (s.wroteV r w).my = s.my.putV r w := by
  simp [State.wroteV]
@[simp] theorem State.wroteP_my (s : State) (r : Reg8) (w : Word) : (s.wroteP r w).my = s.my.putP r w := by
  simp [State.wroteP]
@[simp] theorem State.wroteX_sh (s : State) (r : Reg) (w : Word) : (s.wroteX r w).sh = s.sh := by simp [State.wroteX]
@[simp] theorem State.wroteV_sh (s : State) (r : Reg) (w : VWord) : (s.wroteV r w).sh = s.sh := by simp [State.wroteV]
@[simp] theorem State.wroteP_sh (s : State) (r : Reg8) (w : Word) : (s.wroteP r w).sh = s.sh := by simp [State.wroteP]
@[simp] theorem State.wroteX_m (s : State) (r : Reg) (w : Word) : (s.wroteX r w).m = s.m := by simp [State.wroteX, State.upd]
@[simp] theorem State.wroteV_m (s : State) (r : Reg) (w : VWord) : (s.wroteV r w).m = s.m := by simp [State.wroteV, State.upd]
@[simp] theorem State.wroteP_m (s : State) (r : Reg8) (w : Word) : (s.wroteP r w).m = s.m := by simp [State.wroteP, State.upd]
@[simp] theorem State.wroteX_me (s : State) (r : Reg) (w : Word) : (s.wroteX r w).me = s.me := by simp [State.wroteX]
@[simp] theorem State.wroteV_me (s : State) (r : Reg) (w : VWord) : (s.wroteV r w).me = s.me := by simp [State.wroteV]
@[simp] theorem State.wroteP_me (s : State) (r : Reg8) (w : Word) : (s.wroteP r w).me = s.me := by simp [State.wroteP]
@[simp] theorem State.wroteX_succ (s : State) (r : Reg) (w : Word) : (s.wroteX r w).succ = s.succ := by simp [State.succ]
@[simp] theorem State.wroteV_succ (s : State) (r : Reg) (w : VWord) : (s.wroteV r w).succ = s.succ := by simp [State.succ]
@[simp] theorem State.wroteP_succ (s : State) (r : Reg8) (w : Word) : (s.wroteP r w).succ = s.succ := by simp [State.succ]

end Sys2Proof.Machine
end

