-- ==== Sys2Proof/Laws/Mem.lean ====
section
/-! SUPPORT. The byte store: a read after a write, and that every operation keeps the canonical form. -/
namespace Sys2Proof.Machine
open Sys2Proof

/-- Every listed address is at least a bound. -/
def cellsFrom (n : Nat) : List Host.Cell → Prop
  | [] => True
  | (a, _) :: r => n ≤ a ∧ cellsFrom (a + 1) r

theorem cellsFrom_mono {l : List Host.Cell} {m n : Nat} (h : cellsFrom n l) (hm : m ≤ n) : cellsFrom m l := by
  cases l with
  | nil => trivial
  | cons e r => exact ⟨Nat.le_trans hm h.1, h.2⟩

theorem cellsFrom_tail {a n : Nat} {b : Byte} {r : List Host.Cell} (h : cellsFrom n ((a, b) :: r)) : cellsFrom n r :=
  cellsFrom_mono h.2 (by have := h.1; omega)

theorem cellsSorted_iff (l : List Host.Cell) : cellsSorted l = true ↔ cellsFrom 0 l := by
  suffices h : ∀ (a : Nat) (b : Byte) (r : List Host.Cell), cellsSorted ((a, b) :: r) = true ↔ cellsFrom (a + 1) r by
    cases l with
    | nil => simp [cellsSorted, cellsFrom]
    | cons e r => obtain ⟨a, b⟩ := e; simpa [cellsFrom] using h a b r
  intro a b r
  induction r generalizing a b with
  | nil => simp [cellsSorted, cellsFrom]
  | cons e r ih =>
    obtain ⟨c, d⟩ := e
    simp only [cellsSorted, Bool.and_eq_true, decide_eq_true_eq, cellsFrom, ih c d]
    constructor <;> rintro ⟨h1, h2⟩ <;> exact ⟨by omega, h2⟩

theorem cellGet_eq_none {l : List Host.Cell} {n a : Nat} (h : cellsFrom n l) (ha : a < n) : cellGet l a = none := by
  cases l with
  | nil => rfl
  | cons e r =>
    obtain ⟨k, v⟩ := e
    have := h.1
    simp only [cellGet]
    rw [if_neg (by omega), if_pos (by omega)]

theorem cellGet_cellSet {l : List Host.Cell} {n : Nat} (h : cellsFrom n l) (a x : Nat) (b : Byte) :
    cellGet (cellSet l a b) x = if x = a then some b else cellGet l x := by
  induction l generalizing n with
  | nil => by_cases hx : x = a
           · subst hx; simp [cellSet, cellGet]
           · simp only [cellSet, cellGet, hx, if_false]
             rw [if_neg fun e => hx e.symm]
             split <;> rfl
  | cons e r ih =>
    obtain ⟨k, v⟩ := e
    simp only [cellSet]
    by_cases h1 : k = a
    · subst h1
      simp only [if_true, cellGet]
      by_cases hx : x = k
      · subst hx; simp
      · have : ¬ k = x := fun e => hx e.symm
        simp [hx, this]
    · by_cases h2 : a < k
      · simp only [h1, if_false, h2, if_true, cellGet]
        by_cases hx : x = a
        · subst hx; simp
        · have : ¬ a = x := fun e => hx e.symm
          simp only [this, if_false, hx]
          by_cases h3 : x < a
          · simp only [h3, if_true]
            rw [if_neg (by omega), if_pos (by omega)]
          · simp [h3]
      · simp only [h1, if_false, h2, cellGet]
        by_cases hx : k = x
        · subst hx; simp [h1]
        · simp only [hx, if_false]
          by_cases h3 : x < k
          · simp only [h3, if_true]; rw [if_neg (by omega)]
          · simp only [h3, if_false]; exact ih h.2

theorem cellGet_cellDel {l : List Host.Cell} {n : Nat} (h : cellsFrom n l) (a x : Nat) :
    cellGet (cellDel l a) x = if x = a then none else cellGet l x := by
  induction l generalizing n with
  | nil => simp [cellDel, cellGet]
  | cons e r ih =>
    obtain ⟨k, v⟩ := e
    simp only [cellDel]
    by_cases h1 : k = a
    · subst h1
      simp only [if_true]
      by_cases hx : x = k
      · subst hx; simp [cellGet_eq_none h.2 (Nat.lt_succ_self _)]
      · have : ¬ k = x := fun e => hx e.symm
        simp only [hx, if_false, cellGet, this]
        by_cases h3 : x < k
        · simp only [h3, if_true]; exact cellGet_eq_none h.2 (by omega)
        · simp [h3]
    · by_cases h2 : a < k
      · simp only [h1, if_false, h2, if_true]
        by_cases hx : x = a
        · subst hx; simp [cellGet, h1, h2]
        · simp [hx]
      · simp only [h1, if_false, h2, cellGet]
        by_cases hx : k = x
        · subst hx; simp [h1]
        · simp only [hx, if_false]
          by_cases h3 : x < k
          · simp only [h3, if_true]; rw [if_neg (by omega)]
          · simp only [h3, if_false]; exact ih h.2

theorem cellsFrom_cellSet {l : List Host.Cell} {n a : Nat} (b : Byte) (h : cellsFrom n l) (ha : n ≤ a) :
    cellsFrom n (cellSet l a b) := by
  induction l generalizing n with
  | nil => exact ⟨ha, trivial⟩
  | cons e r ih =>
    obtain ⟨k, v⟩ := e
    simp only [cellSet]
    split
    · next h1 => subst h1; exact ⟨ha, h.2⟩
    · split
      · next h1 h2 => exact ⟨ha, by omega, h.2⟩
      · next h1 h2 => exact ⟨h.1, ih h.2 (by omega)⟩

theorem cellsFrom_cellDel {l : List Host.Cell} {n : Nat} (a : Nat) (h : cellsFrom n l) : cellsFrom n (cellDel l a) := by
  induction l generalizing n with
  | nil => trivial
  | cons e r ih =>
    obtain ⟨k, v⟩ := e
    simp only [cellDel]
    split
    · exact cellsFrom_tail h
    · split
      · exact h
      · exact ⟨h.1, ih h.2⟩

theorem cellsFrom_filter {l : List Host.Cell} {n : Nat} (p : Host.Cell → Bool) (h : cellsFrom n l) :
    cellsFrom n (l.filter p) := by
  induction l generalizing n with
  | nil => trivial
  | cons e r ih =>
    obtain ⟨k, v⟩ := e
    by_cases hp : p (k, v) = true
    · rw [List.filter_cons_of_pos hp]; exact ⟨h.1, ih h.2⟩
    · rw [List.filter_cons_of_neg hp]; exact ih (cellsFrom_tail h)

/-- A listed cell is what `cellGet` finds. -/
theorem mem_iff_cellGet {l : List Host.Cell} {n : Nat} (h : cellsFrom n l) (a : Nat) (b : Byte) :
    (a, b) ∈ l ↔ cellGet l a = some b := by
  induction l generalizing n with
  | nil => simp [cellGet]
  | cons e r ih =>
    obtain ⟨k, v⟩ := e
    have ih := ih h.2
    simp only [List.mem_cons, Prod.mk.injEq, cellGet]
    by_cases h1 : k = a
    · subst h1
      have : ¬ (k, b) ∈ r := fun hm => by
        rw [ih] at hm; rw [cellGet_eq_none h.2 (Nat.lt_succ_self _)] at hm; cases hm
      simp only [true_and, this, or_false, if_true, Option.some.injEq]; exact eq_comm
    · have h1' : ¬ a = k := fun e => h1 e.symm
      simp only [h1, h1', false_and, false_or, if_false]
      by_cases h2 : a < k
      · simp only [h2, if_true]
        constructor
        · intro hm; rw [ih, cellGet_eq_none h.2 (by omega)] at hm; exact hm
        · intro hm; cases hm
      · simp only [h2, if_false]; exact ih

/-- The canonical form, by what each address holds. -/
theorem Memory.wf_iff (m : Memory) :
    m.wf = true ↔ cellsFrom 0 m.cells ∧ ∀ a b, cellGet m.cells a = some b → b ≠ m.dflt a := by
  simp only [Memory.wf, Bool.and_eq_true, cellsSorted_iff, List.all_eq_true, decide_eq_true_eq]
  constructor
  · rintro ⟨h1, h2⟩
    exact ⟨h1, fun a b hb => h2 (a, b) ((mem_iff_cellGet h1 a b).2 hb)⟩
  · rintro ⟨h1, h2⟩
    exact ⟨h1, fun e he => h2 e.1 e.2 ((mem_iff_cellGet h1 e.1 e.2).1 he)⟩

@[simp] theorem Memory.dflt_set (m : Memory) (a : Nat) (b : Byte) (x : Nat) : (m.set a b).dflt x = m.dflt x := by
  unfold Memory.set; split <;> rfl

/-- A byte written is what is read there, and every other byte stays. -/
theorem Memory.get_set {m : Memory} (h : m.wf = true) (a x : Nat) (b : Byte) :
    (m.set a b).get x = if x = a then b else m.get x := by
  have h0 := ((Memory.wf_iff m).1 h).1
  have hd := Memory.dflt_set m a b x
  unfold Memory.get
  rw [hd]
  unfold Memory.set
  by_cases hb : b = m.dflt a
  · rw [if_pos hb]
    simp only [cellGet_cellDel h0]
    by_cases hx : x = a
    · simp [hx, hb]
    · simp [hx]
  · rw [if_neg hb]
    simp only [cellGet_cellSet h0]
    by_cases hx : x = a
    · simp [hx]
    · simp [hx]

theorem Memory.wf_set {m : Memory} (h : m.wf = true) (a : Nat) (b : Byte) : (m.set a b).wf = true := by
  obtain ⟨h0, h1⟩ := (Memory.wf_iff m).1 h
  rw [Memory.wf_iff]
  have hd : ∀ x, (m.set a b).dflt x = m.dflt x := Memory.dflt_set m a b
  by_cases hb : b = m.dflt a
  · have he : (m.set a b).cells = cellDel m.cells a := by simp only [Memory.set, if_pos hb]
    refine ⟨by rw [he]; exact cellsFrom_cellDel a h0, fun x c hc => ?_⟩
    rw [he, cellGet_cellDel h0] at hc
    rw [hd]
    by_cases hx : x = a
    · simp [hx] at hc
    · simp only [hx, if_false] at hc; exact h1 x c hc
  · have he : (m.set a b).cells = cellSet m.cells a b := by simp only [Memory.set, if_neg hb]
    refine ⟨by rw [he]; exact cellsFrom_cellSet b h0 (Nat.zero_le _), fun x c hc => ?_⟩
    rw [he, cellGet_cellSet h0] at hc
    rw [hd]
    by_cases hx : x = a
    · subst hx; simp only [if_true, Option.some.injEq] at hc; subst hc; exact hb
    · simp only [hx, if_false] at hc; exact h1 x c hc

theorem Memory.wf_write {m : Memory} (h : m.wf = true) (a n v : Nat) : (m.write a n v).wf = true := by
  induction n generalizing m a v with
  | zero => exact h
  | succ n ih => exact ih (Memory.wf_set h _ _) _ _

/-- A byte after a write of n bytes: the byte of the value inside, the byte that was there outside (00 R9). -/
theorem Memory.get_write {m : Memory} (h : m.wf = true) (a n v x : Nat) :
    (m.write a n v).get x = if a ≤ x ∧ x < a + n then BitVec.ofNat 8 (v / 256 ^ (x - a)) else m.get x := by
  induction n generalizing m a v with
  | zero => rw [if_neg (by omega)]; rfl
  | succ n ih =>
    simp only [Memory.write]
    rw [ih (Memory.wf_set h _ _), Memory.get_set h]
    by_cases h1 : a + 1 ≤ x ∧ x < a + 1 + n
    · rw [if_pos h1, if_pos (by omega)]
      have : x - a = x - (a + 1) + 1 := by omega
      rw [this, Nat.pow_succ', Nat.div_div_eq_div_mul]
    · rw [if_neg h1]
      by_cases h2 : x = a
      · subst h2; simp
      · rw [if_neg h2, if_neg (by omega)]

/-- A range that hides no address outside it. -/
theorem find_not_hidden (l : List (Nat × Nat × Option Nat)) {lo hi a : Nat} (ha : a < lo ∨ hi ≤ a) :
    (l.filter fun c => !hidden lo hi c).find? (fun c => decide (c.1 ≤ a) && decide (a < c.2.1)) =
      l.find? (fun c => decide (c.1 ≤ a) && decide (a < c.2.1)) := by
  induction l with
  | nil => rfl
  | cons c r ih =>
    by_cases h : hidden lo hi c = true
    · have hc : (decide (c.1 ≤ a) && decide (a < c.2.1)) = false := by
        simp only [hidden, decide_eq_true_eq] at h
        simp only [Bool.and_eq_false_iff, decide_eq_false_iff_not]; omega
      simp only [List.filter, h, Bool.not_true, List.find?, hc]
      exact ih
    · simp only [Bool.not_eq_true] at h
      simp only [List.filter, h, Bool.not_false, List.find?, ih]

/-- Outside the range, an unlisted address reads as before. -/
theorem Memory.dflt_fill (m : Memory) {lo hi a : Nat} (e : Option Nat) (ha : a < lo ∨ hi ≤ a) :
    (m.fill lo hi e).dflt a = m.dflt a := by
  have hn : (decide (lo ≤ a) && decide (a < hi)) = false := by
    simp only [Bool.and_eq_false_iff, decide_eq_false_iff_not]; omega
  have hf : (m.fill lo hi e).cover.find? (fun c => decide (c.1 ≤ a) && decide (a < c.2.1)) =
      m.cover.find? (fun c => decide (c.1 ≤ a) && decide (a < c.2.1)) := by
    simp only [Memory.fill]
    by_cases hz : (e.isNone && (m.cover.filter fun c => !hidden lo hi c).all fun c => decide (c.2.1 ≤ lo ∨ hi ≤ c.1)) = true
    · rw [if_pos hz, find_not_hidden m.cover ha]
    · rw [if_neg hz, List.find?, hn, find_not_hidden m.cover ha]
  simp only [Memory.dflt, hf]

theorem Memory.wf_fill {m : Memory} (h : m.wf = true) (lo hi : Nat) (e : Option Nat) : (m.fill lo hi e).wf = true := by
  obtain ⟨h0, h1⟩ := (Memory.wf_iff m).1 h
  have hf := cellsFrom_filter (fun c => decide (c.1 < lo) || decide (hi ≤ c.1)) h0
  rw [Memory.wf_iff]
  refine ⟨hf, fun a b hb => ?_⟩
  have hm := (mem_iff_cellGet hf a b).2 hb
  rw [List.mem_filter] at hm
  have hout := hm.2
  simp only [Bool.or_eq_true, decide_eq_true_eq] at hout
  rw [Memory.dflt_fill m e hout]
  exact h1 a b ((mem_iff_cellGet h0 a b).1 hm.1)

/-- Reading n bytes that a write of n bytes at the same place has left. -/
theorem Memory.read_congr {m m' : Memory} (a n : Nat) (h : ∀ x, a ≤ x → x < a + n → m.get x = m'.get x) :
    m.read a n = m'.read a n := by
  induction n generalizing a with
  | zero => rfl
  | succ n ih =>
    simp only [Memory.read]
    rw [h a (Nat.le_refl _) (by omega), ih (a + 1) fun x h1 h2 => h x (by omega) (by omega)]

theorem Memory.read_write_same {m : Memory} (h : m.wf = true) (a n v : Nat) : (m.write a n v).read a n = v % 256 ^ n := by
  have key : ∀ (k : Nat) (m' : Memory) (b w : Nat),
      (∀ x, b ≤ x → x < b + k → m'.get x = BitVec.ofNat 8 (w / 256 ^ (x - b))) → m'.read b k = w % 256 ^ k := by
    intro k
    induction k with
    | zero => intro m' b w _; simp [Memory.read, Nat.mod_one]
    | succ k ih =>
      intro m' b w hx
      simp only [Memory.read]
      rw [hx b (Nat.le_refl _) (by omega), ih m' (b + 1) (w / 256)]
      · rw [Nat.sub_self, Nat.pow_zero, Nat.div_one, BitVec.toNat_ofNat, Nat.pow_succ' (m := 256), Nat.mod_mul]
      · intro x h1 h2
        rw [hx x (by omega) (by omega)]
        have : x - b = x - (b + 1) + 1 := by omega
        rw [this, Nat.pow_succ', Nat.div_div_eq_div_mul]
  apply key
  intro x h1 h2
  rw [Memory.get_write h, if_pos ⟨h1, h2⟩]

theorem Memory.read_write_disjoint {m : Memory} (h : m.wf = true) {a n b k : Nat} (v : Nat) (hd : b + k ≤ a ∨ a + n ≤ b) :
    (m.write a n v).read b k = m.read b k := by
  apply Memory.read_congr
  intro x h1 h2
  rw [Memory.get_write h, if_neg (by omega)]

end Sys2Proof.Machine
end

