-- ==== Sys2Proof/Laws/Canonical.lean ====
section
/-! SUPPORT. Every operation over memory keeps the byte store in its canonical form; the operations over registers, queues and
the undo log leave it alone. -/
namespace Sys2Proof.Machine
open Sys2Proof

/-! ## Memories -/

/-- A fold of an operation that keeps the form keeps it. -/
theorem wf_foldl {α : Type} (f : Memory → α → Memory) (hf : ∀ m a, m.wf = true → (f m a).wf = true) :
    ∀ (l : List α) (m : Memory), m.wf = true → (l.foldl f m).wf = true
  | [], _, h => h
  | a :: r, m, h => wf_foldl f hf r (f m a) (hf m a h)

theorem wf_putPieces {m : Memory} (h : m.wf = true) (k : Key) (ps : List (Nat × Nat × Nat)) : (putPieces m k ps).wf = true :=
  wf_foldl _ (fun _ p hm => Memory.wf_write hm _ p.2.1 p.2.2) ps m h

theorem wf_putWords : ∀ (ws : List Nat) (m : Memory) (a : Nat), m.wf = true → (putWords m a ws).wf = true
  | [], _, _, h => h
  | _ :: r, _, _, h => wf_putWords r _ _ (Memory.wf_write h _ _ _)

/-! ## States -/

theorem State.canonical_congr {s t : State} (h : t.sh.mem = s.sh.mem) (hs : s.Canonical) : t.Canonical := by
  simp only [State.Canonical, h]; exact hs

theorem State.canonical_reset : State.reset.Canonical := rfl

/-- A fold of steps that keep the form keeps it. -/
theorem State.canonical_foldl {α : Type} (f : State → α → State) (hf : ∀ s a, s.Canonical → (f s a).Canonical) :
    ∀ (l : List α) (s : State), s.Canonical → (l.foldl f s).Canonical
  | [], _, h => h
  | a :: r, s, h => State.canonical_foldl f hf r (f s a) (hf s a h)

theorem State.canonical_setMem {s : State} {m : Memory} (h : m.wf = true) : (s.setMem m).Canonical := h

theorem State.canonical_setCore {s : State} (h : s.Canonical) (k : Key) (c : Core) : (s.setCore k c).Canonical := h
theorem State.canonical_updCore {s : State} (h : s.Canonical) (k : Key) (f : Core → Core) : (s.updCore k f).Canonical := h
theorem State.canonical_updCtx {s : State} (h : s.Canonical) (k : Key) (c : CtxNo) (f : Ctx → Ctx) :
    (s.updCtx k c f).Canonical := h
theorem State.canonical_setPart {s : State} (h : s.Canonical) (n : Nat) (p : Part) : (s.setPart n p).Canonical := h
theorem State.canonical_post {s : State} (h : s.Canonical) (m : Msg) : (s.post m).Canonical := h
theorem State.canonical_unpost {s : State} (h : s.Canonical) (i : Nat) : (s.unpost i).Canonical := h

theorem State.canonical_putRaw {s : State} (h : s.Canonical) (k : Key) (ps : List (Nat × Nat × Nat)) :
    (s.putRaw k ps).Canonical := wf_putPieces h k ps

theorem State.canonical_spreadUnrec {s : State} (h : s.Canonical) (k : Key) : (s.spreadUnrec k).Canonical := by
  refine State.canonical_foldl _ (fun s c hs => ?_) _ s h
  split
  · split
    · exact hs
    · exact State.canonical_foldl _ (fun _ _ hs => State.canonical_updCtx hs _ _ _) _ s hs
  · exact hs
theorem State.canonical_setLogged {s : State} (h : s.Canonical) (k : Key) (c : Core) : (s.setLogged k c).Canonical := by
  unfold State.setLogged
  split
  · exact State.canonical_setCore h k c
  · exact State.canonical_spreadUnrec (State.canonical_setCore h k c) k

theorem State.canonical_putEngine {s : State} (h : s.Canonical) (k : Key) (w : Writer) (ps : List (Nat × Nat × Nat)) :
    (s.putEngine k w ps).Canonical := by
  unfold State.putEngine
  split
  · exact State.canonical_putRaw h k ps
  · exact State.canonical_putRaw (State.canonical_setLogged h k _) k ps

theorem State.canonical_stored {s : State} (h : s.Canonical) (ps : List (Nat × Nat × Nat)) : (s.stored ps).Canonical := by
  unfold State.stored
  split
  · exact State.canonical_putRaw h _ ps
  · exact State.canonical_putRaw (State.canonical_updCore h _ _) _ ps

theorem State.canonical_putOwn {s t : State} (h : s.Canonical) {ps : List (Nat × Nat × Nat)} (ht : s.putOwn ps = .ok t) :
    t.Canonical := by
  unfold State.putOwn at ht
  split at ht
  · cases ht; exact State.canonical_putRaw h _ ps
  · simp only [bind, Except.bind] at ht
    split at ht
    · cases ht
    · cases ht; exact State.canonical_putRaw (State.canonical_setLogged h _ _) _ ps

theorem State.mem_poison (s : State) (ws : List Nat) : (s.poison ws).sh.mem = s.sh.mem := rfl

theorem State.canonical_putFar {s : State} (h : s.Canonical) (l : List (Nat × Byte × Bool)) : (s.putFar l).Canonical :=
  wf_foldl _ (fun _ e hm => Memory.wf_set hm e.1 e.2.1) l s.sh.mem h

theorem State.canonical_zero {s : State} (h : s.Canonical) (lo hi : Nat) : (s.zero lo hi).Canonical := Memory.wf_fill h lo hi none

theorem State.canonical_unspecify {s : State} (h : s.Canonical) (k : Key) (lo n : Nat) : (s.unspecify k lo n).Canonical :=
  Memory.wf_fill h _ _ _

theorem State.canonical_spilled {s : State} (h : s.Canonical) (k : Key) : (s.spilled k).Canonical := State.canonical_unspecify h k _ _

theorem State.canonical_zeroCore {s : State} (h : s.Canonical) (k : Key) : (s.zeroCore k).Canonical := by
  unfold State.zeroCore
  refine State.canonical_spilled ?_ k
  split
  · exact State.canonical_zero (State.canonical_zero h _ _) _ _
  · exact State.canonical_zero (State.canonical_zero (State.canonical_zero h _ _) _ _) _ _

theorem State.canonical_putTile {s : State} (h : s.Canonical) (k : Key) (t : Nat) (es : List (Nat × Nat × Nat)) :
    (s.putTile k t es).Canonical := by
  unfold State.Canonical State.putTile
  refine wf_foldl _ (fun _ e hm => ?_) es s.sh.mem h
  exact Memory.wf_write hm _ _ _

theorem State.canonical_writeArea {s : State} (h : s.Canonical) (ps : List AreaPiece) (phys off n : Nat) :
    (s.writeArea ps phys off n).Canonical :=
  State.canonical_putFar (show State.Canonical { s.setMem (s.sh.mem.fill phys (phys + n) (some s.m.freeCtr)) with
    sh := { s.sh with mem := s.sh.mem.fill phys (phys + n) (some s.m.freeCtr) } } from Memory.wf_fill h _ _ _) _

theorem State.canonical_readPiece {s : State} (h : s.Canonical) (a : SaveArea) (off dst n : Nat) :
    (s.readPiece a off dst n).Canonical := State.canonical_putFar h _

theorem State.canonical_readBack {s : State} (h : s.Canonical) (a : SaveArea) : (s.readBack a).Canonical :=
  State.canonical_foldl _ (fun _ _ hs => State.canonical_readPiece hs a _ _ _) _ s h

theorem State.canonical_formsBack {s : State} (h : s.Canonical) (m : Move) (a : SaveArea) : (s.formsBack m a).Canonical := by
  unfold State.formsBack
  refine State.canonical_foldl _ (fun _ _ hs => State.canonical_readPiece hs a _ _ _) _ _ ?_
  exact State.canonical_foldl _ (fun _ _ hs => State.canonical_updCore (State.canonical_readPiece (State.canonical_readPiece hs a _ _ _) a _ _ _) _ _) _ s h

theorem State.canonical_forget {s : State} (h : s.Canonical) (l : List (Nat × List (Nat × Nat))) : (s.forget l).Canonical := by
  refine State.canonical_congr rfl (State.canonical_foldl _ (fun s e hs => ?_) l s h)
  refine State.canonical_foldl _ (fun s g hs => ?_) _ s hs
  exact Memory.wf_fill hs _ _ _

theorem State.canonical_walk (p : Part) (va die : Nat) (a : Access) (sup : Bool) :
    ∀ (fuel level base : Nat) (s t : State) (e : Word) (n : Nat), s.Canonical →
      s.walk p va die a sup fuel level base = .ok (t, e, n) → t.Canonical := by
  intro fuel
  induction fuel with
  | zero => intro level base s t e n _ h; simp [State.walk] at h
  | succ fuel ih =>
    intro level base s t e n hs h
    simp only [State.walk] at h
    split at h
    · simp at h
    split at h
    · simp at h
    split at h
    · simp at h
    split at h
    · split at h
      · simp at h
      split at h
      · simp only [Except.ok.injEq, Prod.mk.injEq] at h
        rw [← h.1]
        exact State.canonical_setMem (Memory.wf_write hs _ _ _)
      · simp only [Except.ok.injEq, Prod.mk.injEq] at h
        rw [← h.1]
        exact hs
    · exact ih _ _ s t e n hs h

theorem State.canonical_translate {s t : State} {l : Leaf} (hs : s.Canonical) {n va die : Nat} {a : Access} {sup : Bool}
    (h : s.translate n va die a sup = .ok (t, l)) : t.Canonical := by
  unfold State.translate at h
  simp only at h
  split at h
  · split at h
    · cases h; exact hs
    · cases h
  · simp only [bind, Except.bind] at h
    split at h
    · cases h
    · rename_i r hr
      simp only [pure, Except.pure, Except.ok.injEq, Prod.mk.injEq] at h
      rw [← h.1]
      exact State.canonical_updCore (State.canonical_walk (s.part n) va die a sup 5 0 _ s r.1 r.2.1 r.2.2 hs hr) _ _

theorem State.canonical_place {s : State} (h : s.Canonical) (ws : List Nat) : (s.place ws).Canonical :=
  wf_putWords ws _ _ h

end Sys2Proof.Machine
end

