-- ==== Sys2Proof/Tests/Slice0.lean ====
section
/-! SUPPORT. Small tests: ill-formed terms that the check refuses, words written out from the spec's encodings, single steps
with results worked out by hand from the spec, and, for each statement with hypotheses, states and operands that meet
them. -/
namespace Sys2Proof.Tests
open Sys2Proof Sys2Proof.Machine

/-! Theorems are elaborated one after another: each waits for the kernel, and a wait holds a thread with its stack. -/
set_option Elab.async false

/-! ## Well-formed instructions -/

/-- One ill-formed term for each check (03 R69, R70; 04 R102, R106; 06 R185, R193; 07 R217). -/
theorem test_wellFormed_refuses :
    (Instr.addi ⟨1, 1, 2 ^ 30⟩).wf = false ∧ (Instr.slli ⟨1, 1, 64⟩).wf = false ∧ (Instr.srai ⟨1, 1, -1⟩).wf = false ∧
    (Instr.lea ⟨1, 2, 3⟩ 0 (2 ^ 26)).wf = false ∧ (Instr.bfx ⟨1, 2⟩ 60 7 true).wf = false ∧
    (Instr.bfi ⟨1, 2⟩ 63 1).wf = false ∧ (Instr.ldd 1 (.addr ⟨2, 2 ^ 26⟩)).wf = false ∧
    (Instr.stl 1 ⟨2, -(2 ^ 26) - 1⟩).wf = false ∧ (Instr.vld 17 (.addr ⟨2, 2 ^ 20⟩) ⟨some .f32, 1⟩).wf = false ∧
    (Instr.vlds 1 ⟨2, 2 ^ 20⟩ 3 ⟨some .i8, 0⟩).wf = false ∧ (Instr.vpmov (.tox 1 2) 3).wf = false ∧
    (Instr.li 3 (2 ^ 33)).wf = false ∧ (Instr.loop 3 (2 ^ 34)).wf = false ∧ (Instr.beq 1 2 (2 ^ 26)).wf = false ∧
    (Instr.send ⟨1, 2, 3⟩ .f).wf = false ∧ (Instr.fstb 1 ⟨2, 0⟩ true .f).wf = false ∧
    (Instr.mcst 1 ⟨2, 2 ^ 20⟩ 3 ⟨none, 0⟩ .o).wf = false ∧ (Instr.pegset 1 2 (2 ^ 27)).wf = false ∧
    (Instr.domset 0 31).wf = false ∧ (Instr.j (2 ^ 37)).wf = false ∧ (Instr.rbeg (2 ^ 26) false).wf = false ∧
    (Instr.lpush 1 (2 ^ 18)).wf = false ∧ (Instr.amo 31 4 9 false false 0).wf = false ∧
    (Instr.amo 3 4 10 false false 0).wf = false ∧ (Instr.kmma ⟨0, 29, 0, false, 0, 0⟩ false).wf = false ∧
    (Instr.kzero ⟨0, 1, 0, false, 0, 0⟩).wf = false ∧ (Instr.kcfg 30 0).wf = false := by decide

/-- The bounds themselves are well formed. -/
theorem test_wellFormed_accepts :
    (Instr.slli ⟨1, 1, 63⟩).wf = true ∧ (Instr.bfx ⟨1, 2⟩ 60 3 true).wf = true ∧ (Instr.domset 0 30).wf = true ∧
    (Instr.amo 30 4 9 false false 0).wf = true ∧ (Instr.kcfg 29 0).wf = true ∧ (Instr.li 3 (2 ^ 33 - 1)).wf = true := by decide

/-! ## Words written out from the encodings (03 R64 to R73; the tables of each major) -/

/-- What the decoder reads from some words. -/
def reads (ws : List Nat) : Option (Instr × Nat) := (decode ws).toOption

theorem test_decode_scalar :
    reads [0x0000] = some (.nop, 1) ∧ reads [0x818A] = some (.li 3 10, 1) ∧ reads [0x9981] = some (.loop 3 1, 1) ∧
    reads [0xF9ED, 0x2834] = some (.addi ⟨3, 3, -300⟩, 2) ∧ reads [0xFB58, 0x1F93] = some (.remu ⟨25, 22, 3⟩, 2) ∧
    reads [0xFB01, 0x46A6] = some (.ldd 26 (.strm 6), 2) ∧ reads [0xFB01, 0x4BB7] = some (.std 27 (.strm 7), 2) ∧
    reads [0x7C01] = some (.slink true, 1) ∧ reads [0xDB0B] = some (.chkpt 11, 1) := by decide

theorem test_decode_other :
    reads [0xFB08, 0xFF08, 0x5813] = some (.vadd ⟨17, 2, 3, ⟨some .bf16, 2⟩⟩ false, 3) ∧
    reads [0xF90A, 0xFEE0, 0x6D42] = some (.vcvt ⟨4, 2, ⟨some .f32, 0⟩⟩ 10 none 1, 3) ∧
    reads [0xFB81, 0xB3AD] = some (.fst 26 ⟨29, 0⟩ 1 .plain, 2) ∧ reads [0xFA01, 0xB801] = some (.bar 0 1 true, 2) ∧
    reads [0xF816, 0xBAA0] = some (.waitany 10 0x16, 2) ∧ reads [0xBF0C] = some (.domset 0 12, 1) ∧
    reads [0xF80B, 0xD400] = some (.rbeg 11 false, 2) ∧ reads [0xFA14, 0xE024] = some (.fld 5 ⟨4, 0⟩ 0 false 2, 2) ∧
    reads [0xFA25, 0xEF20] = some (.kres 9 true 2, 2) ∧
    reads [0xF946, 0xFA04, 0xE804] = some (.kmma ⟨1, 4, 2, true, 6, 0⟩ false, 3) := by decide

/-- Words of no instruction (03 R68, R69, R85). -/
theorem test_decode_refuses :
    ∀ ws ∈ [[0x0001], [0xF000], [0xF801, 0x0000], [0xFA00, 0xFA00, 0x0800], [0xF800]], reads ws = none := by decide

/-! ## Small states -/

/-- Core 0 of partition 0, alone, in supervisor mode, with an empty segment 0, about to execute an instruction of one word. -/
def base : State :=
  let s := State.reset.withFetchWord 16 0
  { s with m := { s.m with ir := [0] } }

/-- The same with x1 = a, x2 = b, x3 = c. -/
def regs (a b c : Word) : State := base.upd fun x => ((x.putX 1 a).putX 2 b).putX 3 c

/-- A byte address of the own slice through window 0 (02 R48). -/
def own (off : Nat) : Word := BitVec.ofNat 64 (0x8FF0000000000000 + off)

/-- A state with CSRs, with the rest of the context, with per-core fields changed. -/
def csrs (f : Csrs → Csrs) (s : State) : State := s.upd fun x => { x with csr := f x.csr }
def auxs (f : Aux → Aux) (s : State) : State := s.upd fun x => { x with aux := f x.aux }
def mine (f : Core → Core) (s : State) : State := s.updMine f

/-- A frame of a recovery region. -/
def frame (irv isSealed : Bool) : Frame :=
  { x := Vector.replicate 32 7, p := Vector.replicate 8 0, pc := 4, handler := 8, mode := .supervisor, rndctr := 0, irv := irv,
    isSealed := isSealed, unrec := false, retry := 0, marker := 0, num := 1, cls := none, since := 0, vs := [], tiles := [],
    strms := [], pegs := none }

/-- The context is in a region that is neither sealed nor irrevocable. -/
def inRegion : State := auxs (fun a => { a with frames := [frame false false] }) base
/-- The context is in a transaction body. -/
def inBody : State := csrs (fun c => { c with txbody := true }) base
/-- A valid vector in segment 0. -/
def vectored : State := csrs (fun c => { c with xvec := ⟨true, 0x20⟩ }) base
/-- A context of user mode. -/
def user : State := csrs (fun c => { c with mode := .user }) vectored

/-- The state an instruction leads to. -/
def after (i : Instr) (s : State) : Option State :=
  match exec i s with
  | .next t => some t
  | _ => none
/-- A word that an instruction leaves in a register. -/
def gives (i : Instr) (s : State) (r : Reg) : Option Word := (after i s).map fun t => t.x r

theorem ok_of {ε α : Type} {e : Except ε α} {a : α} (h : e.toOption = some a) : e = .ok a := by
  cases e with
  | ok b => exact congrArg Except.ok (Option.some.inj h)
  | error b => cases h

/-! ## Single instructions, by hand from the spec -/

theorem test_integer :
    gives (.add ⟨3, 1, 2⟩) (regs (-1) 2 0) 3 = some 1 ∧ gives (.mulh ⟨3, 1, 2⟩) (regs (-1) 2 0) 3 = some (-1) ∧
    gives (.div ⟨3, 1, 2⟩) (regs (-7) 2 0) 3 = some (-3) ∧ gives (.rem ⟨3, 1, 2⟩) (regs (-7) 2 0) 3 = some (-1) ∧
    gives (.divu ⟨3, 1, 2⟩) (regs 7 0 0) 3 = some (-1) ∧ gives (.sll ⟨3, 1, 2⟩) (regs 1 65 0) 3 = some 2 ∧
    gives (.add ⟨0, 1, 2⟩) (regs 1 2 0) 0 = some 0 := by decide +kernel

theorem test_immediate :
    gives (.bfx ⟨3, 1⟩ 4 7 true) (regs 0xF80 0 0) 3 = some (-8) ∧ gives (.bfi ⟨3, 1⟩ 8 7) (regs 0x5A 0 (-1)) 3 = some 0xFFFFFFFFFFFF5AFF ∧
    gives (.sext ⟨3, 1⟩ 0) (regs 0x80 0 0) 3 = some 0xFFFFFFFFFFFFFF80 ∧
    gives (.lea ⟨3, 1, 2⟩ 3 (-1)) (regs 16 2 0) 3 = some 31 := by decide +kernel

theorem test_control :
    (after (.beq 1 2 (-1)) (regs 5 5 0)).map (·.my.pc) = some 0x1FFE ∧ (after (.beq 1 2 4) (regs 5 6 0)).map (·.my.pc) = some 2 ∧
    (after (.jal 5) base).map (fun t => (t.my.pc, t.x 1)) = some (10, 2) := by decide +kernel

/-! ## Hypotheses of the statements that some state and operands meet -/

/-- Debug mode on (02 CONFIG), and a region whose class lets the log fill. -/
def debugOn (s : State) : State := s.updPart 0 fun p => { p with config := p.config ||| 0x8000000000000000 }
/-- The executing core leads a course-fetch run of two (09 R269). -/
def leads (s : State) : State := { s with sh := { s.sh with runs := [⟨0, 2, 0, [], [], [], []⟩] } }
/-- An outstanding result in x5. -/
def waiting : Out := ⟨0, .reg (.x 5), 0, some 100, 0, false, [], false⟩
/-- The executing hod, whose translation of block 0 is at hand (06 R154). -/
def hod (write : Bool) : State :=
  { auxs (fun a => { a with far := some ⟨0, [(0, 0)], write, some [(0, 0x40000)], [], []⟩ })
      { base with m := { base.m with cur := (4096, 0) } } with cycle := 0 }

theorem witness_IntegerResults : base.Room 1 ∧ (debugOn base).Room 1 ∧ (debugOn base).debug 0 = true := by decide +kernel

theorem witness_DivisionResults :
    base.myCore.divFree ≤ base.cycle ∧
    (mine (fun co => { co with divFree := 36 }) base).cycle < (mine (fun co => { co with divFree := 36 }) base).myCore.divFree ∧
    (mine (fun co => { co with divFree := 36 }) base).Room 1 := by decide +kernel

theorem witness_ImmediateResults : base.Room 1 ∧ 63 ≤ 63 ∧ (0 : Fin 64).val + (63 : Fin 64).val < 64 ∧
    (63 : Fin 64).val + (0 : Fin 64).val < 64 := by decide +kernel

theorem witness_NopYieldTimeHalt :
    inRegion.my.depth ≠ 0 ∧ inBody.my.csr.txbody = true ∧
    (let s := auxs (fun a => { a with outs := [waiting] }) base;
      s.my.depth = 0 ∧ s.my.csr.txbody = false ∧ s.my.aux.outs ≠ []) ∧
    (let s := leads base;
      s.my.depth = 0 ∧ s.my.csr.txbody = false ∧ s.my.aux.outs = [] ∧ s.slaved s.me s.cc = true ∧ (s.runOf s.me).isSome = true) ∧
    (let s := auxs (fun a => { a with recon := some true, dbg := ⟨some 2, none, false⟩ }) base;
      s.my.aux.outs = [] ∧ s.slaved s.me s.cc = false ∧ s.my.aux.recon ≠ none ∧ s.my.aux.dbg.want = some 2) ∧
    base.my.aux.recon = none ∧ (base.myCore.rq.any fun i => dispatchable i.e) = false ∧ base.myCore.attempts = [] := by
  decide +kernel

theorem witness_ControlTransfers :
    base.m.lead = none ∧ ((regs 1 0 0).x 1).toNat ≤ 1 ∧ 1 < ((regs 2 0 0).x 1).toNat ∧
    ({ base with m := { base.m with lead := some true } } : State).m.lead = some true ∧
    ({ base with m := { base.m with lead := some false } } : State).m.lead = some false ∧
    (let u := (regs 0 0x40 0).x 2 + BitVec.ofInt 64 (-2); u.getLsbD 0 = false ∧ base.landed (u.setWidth 15) = true) ∧
    ((regs 0 0x40 0).x 2).getLsbD 0 = false ∧ base.landed (((regs 0 0x40 0).x 2).setWidth 15) = true := by decide +kernel

theorem witness_TransferTraps :
    ((regs 0 0x40 0).x 2 + BitVec.ofInt 64 1).getLsbD 0 = true ∧ ((regs 0 0x41 0).x 2).getLsbD 0 = true ∧
    (let u := (regs 0 0x2000 0).x 2 + BitVec.ofInt 64 0; u.getLsbD 0 = false ∧ base.landed (u.setWidth 15) = false) := by
  decide +kernel

theorem witness_CsrInstructions :
    base.LogRoom 2 ∧ base.csrRight 0x100 = some .r ∧ base.csrRight 0x001 = some .rw ∧ user.csrRight 0x011 = some .r ∧
    user.csrRight 0x001 = some .no ∧ user.csrRight 0x11D = some .no ∧ base.csrRight 0x01A = none ∧ base.csrRight 0x103 = none ∧
    base.csrRight 0x1FF = none ∧ user.csrRight 0x11F = some .rw := by decide +kernel

/-- A table of one entry of 64 bytes fits, one whose COUNT is 0 does not (08 R255). -/
theorem witness_CsrInstructions_table :
    base.tableFits 0x005 0 ∧ base.tableFits 0x018 0 ∧ ¬ base.tableFits 0x018 0x8000000000000040 ∧
    ({ base with sh := { base.sh with mem := (base.sh.mem.write (Loc.local_ 0 0x40) 1 1).write (Loc.local_ 0 0x84) 1 0x40 } } : State).tableFits 0x018 0x8000000000000040 := by
  unfold State.tableFits; decide +kernel

theorem witness_CsrReadsBack :
    (0x005 : Fin 512) ≠ 0x006 ∧ (1 : CtxNo) ≠ 0 ∧ (0x0FF : Fin 512).val < 0x100 ∧ csrMasks.length = 15 ∧ domainCsrs.length = 4 ∧ domainMask 0 ≠ domainMask 4096 ∧ readOnlyCsrs.length = 15 := by
  decide +kernel

theorem witness_TrapEntry :
    vectored.vectored ∧
    (let s := csrs (fun c => { c with uvec := ⟨true, 0x40⟩ }) user;
      s.my.csr.mode = .user ∧ s.my.csr.ubusy = false ∧ s.my.csr.uvec.valid = true ∧ s.slaved s.me s.cc = false) ∧
    base.my.csr.xvec.valid = false ∧ base.slaved base.me base.cc = false ∧
    base.landed (csrs (fun c => { c with xvec := ⟨true, 0x2000⟩ }) base).my.csr.xvec.pc = false ∧
    ¬ (0x20 ≤ (0x1F : BitVec 8).toNat ∧ (0x1F : BitVec 8).toNat ≤ 0x24) := by unfold State.vectored; decide +kernel

theorem test_trapEntry :
    (after (.trap 5) vectored).map (fun t => (t.my.pc, t.my.csr.xcause, t.my.csr.xvalue, t.my.csr.xpc)) =
      some (0x20, 0x17, 5, 2) := by decide +kernel

theorem witness_CheckCausesRollBack :
    inRegion.my.aux.frames = [frame false false] ∧ (frame false false).isSealed = false ∧ (frame false false).unrec = false ∧
    vectored.my.aux.frames = [] ∧ vectored.my.csr.txbody = false ∧ vectored.my.aux.ss = none ∧
    0x20 ≤ (0x24 : BitVec 8).toNat ∧ (0x24 : BitVec 8).toNat ≤ 0x24 := by decide +kernel

theorem witness_TrapInstructions :
    vectored.my.aux.dbg.skip = false ∧ (vectored.myCore.csr.trctl.getLsbD 62 && vectored.debug vectored.me) = false ∧
    (let s := debugOn (mine (fun co => { co with csr := { co.csr with trctl := 0x4000000000000000 } }) vectored);
      (s.myCore.csr.trctl.getLsbD 62 && s.debug s.me) = true) ∧
    (auxs (fun a => { a with dbg := ⟨none, none, true⟩ }) base).my.aux.dbg.skip = true ∧
    base.my.csr.mode = .supervisor ∧ base.landed base.my.csr.xpc = true ∧ user.my.csr.mode = .user ∧ user.my.csr.ubusy = false ∧
    (csrs (fun c => { c with ubusy := true }) user).my.csr.ubusy = true ∧ user.landed user.my.csr.upc = true ∧
    base.landed (csrs (fun c => { c with xpc := 0x2000, upc := 0x4000 }) base).my.csr.xpc = false ∧
    base.landed (csrs (fun c => { c with xpc := 0x2000, upc := 0x4000 }) base).my.csr.upc = false := by decide +kernel

/-- A load of the own slice, of a hod's far memory, and one through an enabled window are met by `Readable`. -/
theorem witness_ScalarLoads :
    (regs 0 (own 0x108) 0).Readable ((regs 0 (own 0x108) 0).addr ⟨2, -8⟩) 8 8 (.raw [(0x100, 8)] 0) ∧
    (regs 0 (own 0xFFFFF) 0).Readable ((regs 0 (own 0xFFFFF) 0).addr ⟨2, 0⟩) 1 1 (.raw [(0xFFFFF, 1)] 0) ∧
    (hod false).Readable ((hod false).addr ⟨0, 0x38⟩) 8 8 (.far 0x38 8) ∧ base.Room 1 ∧ base.my.remoteSettled = true ∧
    (auxs (fun a => { a with outs := [waiting] }) base).my.remoteSettled = false := by
  refine ⟨?_, ?_, ?_, ?_⟩
  · constructor <;> first | exact ok_of (by decide +kernel) | decide +kernel
  · constructor <;> first | exact ok_of (by decide +kernel) | decide +kernel
  · constructor <;> first | exact ok_of (by decide +kernel) | decide +kernel
  · decide +kernel

theorem witness_ScalarStores :
    base.LogRoom 8 ∧ (regs 0 (own 0x100) 0).Writable (own 0x100) 8 8 ∧ (regs 0 (own 0x100) 0).Writable (own 0xFFFC0) 64 64 ∧
    (hod true).FarWritable 0x38 8 8 0x40038 ∧ isHod (hod true).me = true ∧ base.released = true ∧
    (auxs (fun a => { a with outs := [waiting] }) base).released = false := by
  refine ⟨by decide +kernel, ?_, ?_, ?_, ?_⟩
  · constructor <;> first | exact ok_of (by decide +kernel) | decide +kernel
  · constructor <;> first | exact ok_of (by decide +kernel) | decide +kernel
  · constructor <;> first | exact ok_of (by decide +kernel) | decide +kernel
  · decide +kernel

theorem test_store : (after (.sth 1 (.addr ⟨2, 2⟩)) (regs 0x12345 (own 0x100) 0)).map
    (fun t => (t.sh.mem.read (Loc.local_ 0 0x100) 8, t.myCore.log.length, t.my.pc)) = some (0x23450000, 1, 2) := by decide +kernel

theorem witness_StoreThenLoad :
    base.sh.mem.wf = true ∧ base.LogRoom 2 ∧ base.PlainOwn (own 0xFFFF8) 8 ∧
    base.locksFree true [(offOf (own 0xFFFF8), 8)] = true ∧ base.my.trigger 0 = none := by
  refine ⟨by decide +kernel, by decide +kernel, ?_, by decide +kernel, by decide +kernel⟩
  constructor <;> decide +kernel

/-- A stream of eight elements of 4 bytes at 64 of the slice, with its first elements read ahead or none pushed. -/
def strm (write : Bool) (ety : ETy) (buf : List (Nat × Nat × Bool)) : Stream :=
  { ctx := 0, write := write, base := 0x8FF0000000000040, ety := ety, dims := [(512, 1)], total := 512, cursor := 0,
    fetched := if write then 0 else buf.length, cpy := false, landed := 0, err := false, peg := 0, pegen := false, buf := buf }
def withStrm (t : Stream) (s : State) : State := mine (fun co => { co with strms := co.strms.set 2 (some t) }) s
/-- The course links of core 1, whose neighbours are in the partition. -/
def linked (west : List Word) (east : List Word) : State :=
  let s := { base with m := { base.m with cur := (1, 0) } }
  mine (fun co => { co with linkBy := some 0, west := west, east := east }) s

theorem witness_StreamForms :
    (withStrm (strm false .i32 [(0, 5, false), (1, 6, false)]) base).Poppable 2 (strm false .i32 [(0, 5, false), (1, 6, false)])
      (0, 5, false) [(1, 6, false)] ∧
    (withStrm (strm true .i64 []) base).Pushable 2 (strm true .i64 []) ∧ ETy.i32.width = 8 * 4 ∧ ETy.i64.width = 8 * 8 ∧
    (linked [7] []).Linked false ∧ (linked [7] []).Linked true ∧ (linked [7] []).myCore.west = 7 :: [] ∧
    (linked [] [1, 2, 3, 4]).myCore.west = [] ∧ (linked [7] []).eastHeld < 4 ∧ 4 ≤ (linked [] [1, 2, 3, 4]).eastHeld := by
  refine ⟨?_, ?_, rfl, rfl, ?_, ?_, ?_⟩
  · constructor <;> decide +kernel
  · constructor <;> decide +kernel
  · constructor <;> decide +kernel
  · constructor <;> decide +kernel
  · decide +kernel

theorem witness_AccessTraps :
    isHod base.me = false ∧ isSlice (own 0) = true ∧ bits (own 0) 51 32 = 0 ∧ devOf (own 0) = 0xFF ∧
    coreOf (0x8FF0000000100000 : Word) ≠ base.me.val ∧ coreOf (own 0x101) = base.me.val ∧
    winOf (0x9FF0000000000000 : Word) ≠ 0 ∧ (own 0x101).toNat % 2 ≠ 0 ∧ winOf (own 0x101) = 0 := by decide +kernel

/-- Predicate 1 is lanes 0 and 2 of a type of 32 bits, v4 holds indices 0, 1, 2, …, v5 ones. -/
def vecs : State := base.upd fun x =>
  (((x.putP 1 0x0F0F).putV 4 (BitVec.ofNat 512 ((List.range 16).foldl (fun n i => n + i * 2 ^ (32 * i)) 0))).putV 5
    (BitVec.ofNat 512 ((List.range 16).foldl (fun n i => n + 2 ^ (32 * i)) 0))).putX 2 (own 0x100) |>.putX 3 4

theorem witness_VectorMemory :
    vecs.Room 8 ∧ vecs.LogRoom 64 ∧ vecs.effType (some .i32) setAny = .ok .i32 ∧ vecs.effType (some .e2m1) setAny = .ok .e2m1 ∧
    vecs.effType (some .i32) setW8 = .ok .i32 ∧ vecs.effType (some .i32) setIdx = .ok .i32 ∧
    vecs.Readable (vecs.addr ⟨2, 0⟩) 64 4 (.raw [(0x100, 64)] 0) ∧ vecs.Readable (vecs.addr ⟨2, 4⟩) 4 4 (.raw [(0x104, 4)] 0) ∧
    vecs.Writable (vecs.addr ⟨2, 0⟩) 64 4 ∧ vecs.Writable (vecs.addr ⟨2, 0⟩) 64 1 ∧
    vecs.lanesOn .i32 1 = [0, 2] ∧ vecs.Writable (vecs.addr ⟨2, 4⟩) 8 4 := by
  refine ⟨by decide +kernel, by decide +kernel, ok_of (by decide +kernel), ok_of (by decide +kernel), ok_of (by decide +kernel),
    ok_of (by decide +kernel), ?_, ?_, ?_, ?_, by decide +kernel, ?_⟩ <;>
  · constructor <;> first | exact ok_of (by decide +kernel) | decide +kernel

/-- No lane is on under an empty predicate. -/
theorem witness_VectorMemory_none : vecs.lanesOn .i32 2 = [] ∧ (vecs.addr ⟨2, 4⟩).toNat % 4 = 0 := by decide +kernel

theorem witness_VectorMemory_lanes :
    vecs.LanesReadable (vecs.lanesOn .i32 1) (fun i => vecs.addr ⟨2, 0⟩ + BitVec.ofNat 64 i * vecs.x 3) 4
      [(own 0x100, .raw [(0x100, 4)] 0), (own 0x108, .raw [(0x108, 4)] 0)] ∧
    vecs.LanesWritable (vecs.lanesOn .i32 1) (fun i => vecs.addr ⟨2, 0⟩ + BitVec.ofNat 64 i * vecs.x 3) 4 ∧
    vecs.LanesReadable (vecs.lanesOn .i32 1) (fun i => vecs.addr ⟨2, 0⟩ + BitVec.ofNat 64 (lane .i32 (vecs.v 4) i * 4)) 4
      [(own 0x100, .raw [(0x100, 4)] 0), (own 0x108, .raw [(0x108, 4)] 0)] ∧
    vecs.LanesWritable (vecs.lanesOn .i32 1) (fun i => vecs.addr ⟨2, 0⟩ + BitVec.ofNat 64 (lane .i32 (vecs.v 4) i * 4)) 4 := by
  refine ⟨?_, ?_, ?_, ?_⟩ <;>
  · constructor <;> first | exact ok_of (by decide +kernel) | decide +kernel

theorem test_vectorStore : (after (.vst 4 (.addr ⟨2, 0⟩) ⟨some .i32, 1⟩) vecs).map
    (fun t => (t.sh.mem.read (Loc.local_ 0 0x108) 4, t.sh.mem.read (Loc.local_ 0 0x104) 4)) = some (2, 0) := by decide +kernel

theorem witness_VectorStreamForms :
    let e := (List.range 16).map fun i => (i, i, false)
    let r := withStrm (strm false .i32 e) vecs
    let w := withStrm (strm true .i32 []) vecs
    r.strm r.me 2 = some (strm false .i32 e) ∧ r.myCore.linkBy = none ∧ r.my.csr.txbody = false ∧ 0 + ETy.i32.lanes ≤ 512 ∧
    0 + ETy.i32.lanes ≤ (strm false .i32 e).fetched ∧ (∀ q ∈ e.take ETy.i32.lanes, q.2.2 = false) ∧ r.my.trigger 0 = none ∧
    w.strm w.me 2 = some (strm true .i32 []) ∧ (strm true .i32 []).lines [] < 4 ∧
    r.Room 8 := by decide +kernel

theorem witness_VectorIntegers :
    vecs.effType (some .i8) setNum = .ok .i8 ∧ ETy.i8.isInt = true ∧ vecs.effType (some .i64) ETy.isInt = .ok .i64 ∧
    vecs.effType (some .f32) setNum = .ok .f32 ∧ ETy.f32.isFp = true ∧ vecs.effType none setNum = .ok .f32 :=
  ⟨ok_of (by decide +kernel), rfl, ok_of (by decide +kernel), ok_of (by decide +kernel), rfl, ok_of (by decide +kernel)⟩

theorem test_vectorAdd :
    ((after (.vadd ⟨6, 4, 5, ⟨some .i32, 1⟩⟩ false) vecs).map fun t => (t.v 6).toNat) = some (1 + 3 * 2 ^ 64) := by decide +kernel

/-- 1 + 1 = 2 in f32 lanes, and a half product is illegal (05 R127). -/
theorem test_vectorFloat :
    let s := vecs.upd fun x => x.putV 5 0x3F800000
    ((after (.vadd ⟨6, 5, 5, ⟨some .f32, 0⟩⟩ false) s).map fun t => (t.v 6).toNat) = some 0x40000000 ∧
    ((after (.vmul ⟨6, 5, 5, ⟨some .f32, 0⟩⟩ true) s).map fun t => t.m.fate) = some (.trapped 0x01) := by decide +kernel

theorem witness_VectorFloats :
    vecs.effType (some .bf16) setNum = .ok .bf16 ∧ ETy.bf16.isFp = true ∧
    isNan (valueOf .bf16 0x7FC0) = true ∧ isNan (valueOf .bf16 0x8000) = false ∧
    ltVal true (valueOf .bf16 0x8000) (valueOf .bf16 0) = true := ⟨ok_of (by decide +kernel), by decide +kernel⟩

theorem witness_VectorCompare : vecs.Room 1 ∧ vecs.effType (some .f16) setNum = .ok .f16 :=
  ⟨by decide +kernel, ok_of (by decide +kernel)⟩

theorem witness_VectorReduce :
    vecs.effType (some .z16) setNum = .ok .z16 ∧ ETy.z16.isInt = true ∧ vecs.effType (some .f16) setNum = .ok .f16 ∧
    ETy.f16.isFp = true := ⟨ok_of (by decide +kernel), rfl, ok_of (by decide +kernel), rfl⟩

theorem test_vectorReduce : ((after (.vred ⟨6, 4, ⟨some .i32, 0⟩⟩ 0) vecs).map fun t => (t.v 6).toNat) = some 120 := by
  decide +kernel

theorem witness_VectorMoves :
    vecs.effType (some .q4n) setAny = .ok .q4n ∧ vecs.effType (some .z8) setW8 = .ok .z8 ∧ (127 : Fin 512).val < ETy.q4n.lanes ∧
    ETy.i64.lanes ≤ (8 : Fin 512).val ∧ vecs.effType (some .i64) setAny = .ok .i64 ∧ (3 : Reg8) ≠ 0 :=
  ⟨ok_of (by decide +kernel), ok_of (by decide +kernel), by decide, by decide, ok_of (by decide +kernel), by decide⟩

theorem witness_VectorConvert :
    vecs.effType (some .f32) (fun t => t ≠ .q4n) = .ok .f32 ∧ Sys2Proof.Machine.etyOf 10 = some .e4m3 ∧
    3 < max ETy.f32.width ETy.e4m3.width / min ETy.f32.width ETy.e4m3.width ∧ vecs.effType (some .bf16) ETy.isFp = .ok .bf16 ∧
    ETy.bf16.fmt.isSome = true ∧ vecs.effType (some .i8) setDot = .ok .i8 ∧ ETy.i8.isInt = true ∧
    vecs.effType (some .e5m2) setDot = .ok .e5m2 :=
  ⟨ok_of (by decide +kernel), by decide, by decide, ok_of (by decide +kernel), by decide, ok_of (by decide +kernel), rfl,
    ok_of (by decide +kernel)⟩

theorem witness_VectorConvert_blockMax :
    (∃ c ∈ lane .bf16 0x7FC0 0 :: [], isNan (valueOf .bf16 c) = true) ∧
    (∀ c ∈ lane .bf16 0x3F80 0 :: [0x8000], isNan (valueOf .bf16 c) = false) := by decide +kernel

/-- n bytes of core 0's slice written from outside. -/
def poke (off n v : Nat) (s : State) : State := s.setMem (s.sh.mem.write (Loc.local_ 0 off) n v)

/-- A stream descriptor: a read stream over 64 elements of i8 from 0x200 (06 Table 6.4, Table 6.5). -/
def bindDesc : Nat := (own 0x200).toNat + 64 * 2 ^ 128 + 2 ^ 160
def toBind : State := poke 0x100 64 bindDesc (regs 5 (own 0x100) 0)
def bound : Stream :=
  { ctx := 0, write := false, base := own 0x200, ety := .i8, dims := [(64, 1)], total := 64, cursor := 0, fetched := 0, cpy := false,
    landed := 0, err := false, peg := 0, pegen := false, buf := [] }

theorem witness_StreamControl_bind : toBind.Bindable 2 (toBind.addr ⟨2, 0⟩) (.raw [(0x100, 64)] bindDesc) bound 0x200 0x240 := by
  constructor <;> first | exact ok_of (by decide +kernel) | decide +kernel

theorem witness_StreamControl :
    (withStrm bound (regs 64 65 0)).Holds 2 bound ∧ (withStrm (strm true .i64 [(0, 5, false)]) base).Holds 2 (strm true .i64 [(0, 5, false)]) ∧
    (strm true .i64 [(0, 5, false)]).buf ≠ [] ∧ base.strm base.me 2 = none ∧ bound.total < 2 ^ 32 ∧
    ((regs 64 65 0).x 1).toNat ≤ bound.total - bound.cursor ∧ bound.total - bound.cursor < ((regs 64 65 0).x 2).toNat ∧
    base.my.csr.txbody = false ∧ base.myCore.linkBy = none ∧ isHod base.me = false ∧ base.strm base.me 6 = none ∧
    base.strm base.me 7 = none := by
  refine ⟨?_, ?_, by decide +kernel⟩ <;> · constructor <;> decide +kernel

/-- A receive-queue entry of KIND 0. -/
def item (p : Place) : RqItem := ⟨entry 0 0 0 false 0 0 0 0 7 8 9 0, false, p, none⟩
def queued (s : State) : State := mine (fun co => { co with rq := [item .arrival] }) s

theorem witness_ReceiveQueue :
    base.my.csr.txbody = false ∧ base.Room 8 ∧ base.myCore.rq = [] ∧ (queued base).myCore.rq = item .arrival :: [] ∧
    base.slaved base.me base.cc = false ∧ (leads base).slaved (leads base).me (leads base).cc = true := by decide +kernel

/-- A sealed region, a deferred buffer that is full. -/
def inSealed : State := auxs (fun a => { a with frames := [frame false true] }) base
def fullBuffer : State :=
  let r : Req := (inRegion.mkReq 0 .plain (.post (.st (own 0) 8 0)) .trecon)
  auxs (fun a => { a with deferred := List.replicate 64 ⟨1, r, 64⟩ }) inRegion
def fullQueue (s : State) : State :=
  mine (fun co => { co with injq := List.replicate 16 (s.mkReq 0 .plain (.post (.st (own 0) 8 0)) .trecon) }) s
/-- Package 0 of two. -/
def twoPackages (s : State) : State := s.updPart 0 fun p => { p with config := at_ 2 32 ||| at_ 1 16, group := 3 }

theorem witness_PostedRequests :
    base.Target false (own 0x7FFE) ∧ base.Target true (own 0x1FFFF) ∧
    base.resolve (devOf (own 0)) = base.device ∧ (twoPackages base).resolve (devOf (0x8010000000000000 : Word)) ≠ base.device ∧
    (twoPackages base).Target false 0x8010000000000020 ∧ base.Queues ∧ base.my.aux.frames = [] ∧
    16 ≤ (fullQueue base).myCore.injq.length ∧ inRegion.my.aux.frames = [frame false false] ∧ (frame false false).irv = false ∧
    (inRegion.my.aux.deferred.map (·.bytes)).foldl (· + ·) 64 ≤ 4096 ∧
    4096 < (fullBuffer.my.aux.deferred.map (·.bytes)).foldl (· + ·) 32 ∧ base.Reaches true (own 0x38) 8 ∧ base.Reaches true (own 7) 1 ∧
    base.Reaches true (own 0x40) 64 ∧ base.Reaches true (own 4) 4 ∧ base.Rect (own 0) 0x101 1 1 ∧ base.Rect (own 0) 0x0820 8 32 = False := by
  refine ⟨?_, ?_, by decide +kernel, by decide +kernel, ?_, ?_, by decide +kernel, by decide +kernel, by decide +kernel, by decide +kernel,
    by decide +kernel, by decide +kernel, ?_, ?_, ?_, ?_, ?_, ?_⟩
  · constructor <;> first | exact ok_of (by decide +kernel) | decide +kernel
  · constructor <;> first | exact ok_of (by decide +kernel) | decide +kernel
  · constructor <;> first | exact ok_of (by decide +kernel) | decide +kernel
  · constructor <;> decide +kernel
  · constructor <;> first | exact ok_of (by decide +kernel) | decide +kernel
  · constructor <;> first | exact ok_of (by decide +kernel) | decide +kernel
  · constructor <;> first | exact ok_of (by decide +kernel) | decide +kernel
  · constructor <;> first | exact ok_of (by decide +kernel) | decide +kernel
  · constructor <;> decide +kernel
  · exact eq_false fun h => absurd h.few (by decide)

/-- Slot 1 of the table at 0 is open from instant 2 for 4 cycles; the clock began now (09 R276, Table 9.6). -/
def slots : State :=
  poke 8 8 (4 * 2 ^ 32) (auxs (fun a => { a with slotClock := some (.counts 0) }) (csrs (fun c => { c with slotwin := 2 }) base))
theorem witness_PostedRequests_slot : slots.SlotOpen 1 0 ∧
    (auxs (fun a => { a with slotClock := some (.stopped 3) }) slots).SlotOpen 1 3 := by
  refine ⟨?_, ?_⟩
  · constructor <;> first | exact .inl ⟨0, by decide +kernel, by decide +kernel⟩ | exact ok_of (by decide +kernel) | decide +kernel
  · constructor <;> first | exact .inr (by decide +kernel) | exact ok_of (by decide +kernel) | decide +kernel

/-- A range of the slice locked for a transfer. -/
def locked (s : State) : State := mine (fun co => { co with ranges := [⟨0, 64, true, .copy 9, 0, none⟩] }) s

theorem witness_RemoteResults :
    base.Queues ∧ base.Reaches false (own 0xFFFF8) 8 ∧ vecs.effType (some .i8) setAny = .ok .i8 ∧ base.Reaches false (own 0xFFFC0) 64 ∧
    base.Reaches true (own 8) 8 ∧ (10 : Fin 11) = 10 ∧ base.Reaches true (own 4) 4 ∧ (base.isOwn (own 8) && !isHod base.me) = true ∧
    base.locksFree true [(8, 8)] = true ∧ (locked base).locksFree true [(offOf (own 8), 8)] = false ∧
    (base.isOwn (0x8FF0000000100008 : Word) && !isHod base.me) = false ∧ base.Reaches true 0x8FF0000000100008 8 := by
  refine ⟨?_, ?_, ok_of (by decide +kernel), ?_, ?_, rfl, ?_, by decide +kernel, by decide +kernel, by decide +kernel, by decide +kernel, ?_⟩ <;>
  · constructor <;> first | exact ok_of (by decide +kernel) | decide +kernel

/-- A copy of 64 bytes from 0x200 to 0x400 of the own slice (06 Table 6.10). -/
def copyDesc : Nat := (own 0x200).toNat + (own 0x400).toNat * 2 ^ 64 + 2 ^ 128 + 64 * 2 ^ 160
def toCopy : State := poke 0x100 64 copyDesc (regs 5 (own 0x100) 0)
def copyRanges : List (Nat × Nat × Bool) := [(0x200, 0x240, false), (0x400, 0x440, true)]

theorem witness_CopyInstructions :
    toCopy.Copyable 0 1 (toCopy.addr ⟨2, 0⟩) (.raw [(0x100, 64)] copyDesc) copyRanges ∧ toCopy.Queues ∧
    toCopy.rangesUsed toCopy.me + copyRanges.length ≤ 32 ∧
    badCopy 1 copyDesc (copyOf 1 (own 0x100) copyDesc 1) = true ∧ badCopy 2 copyDesc (copyOf 2 (own 0x100) copyDesc 1) = true ∧
    badCopy 0 (copyDesc + 1 * 2 ^ 160) (copyOf 0 (own 0x100) (copyDesc + 1 * 2 ^ 160) 1) = true ∧
    toCopy.Fetchable (own 0x2000) 1 [(0x2000, 0x4000, false)] := by
  refine ⟨?_, ?_, by decide +kernel, by decide +kernel, by decide +kernel, by decide +kernel, ?_⟩ <;>
  · constructor <;> first | exact ok_of (by decide +kernel) | decide +kernel

/-- The other kinds: 2:4 compression of 64 bytes with metadata, and quantization of bf16 (06 Table 6.10, R201, R202). -/
def spDesc : Nat := copyDesc + (2 ^ 5 + 8 * 2 ^ 8) * 2 ^ 256 + (own 0x600).toNat * 2 ^ 320
def mxDesc : Nat := copyDesc + (2 ^ 5 + 10 * 2 ^ 8 + 8 * 2 ^ 12) * 2 ^ 256 + (own 0x600).toNat * 2 ^ 320
theorem witness_CopyInstructions_kinds :
    badCopy 1 spDesc (copyOf 1 (own 0x100) spDesc 1) = false ∧ badCopy 2 mxDesc (copyOf 2 (own 0x100) mxDesc 1) = false := by
  decide +kernel

theorem witness_Synchronization :
    ((regs 0 0x7FFFFFFF 0).x 2 + BitVec.ofNat 64 0).toNat < 2 ^ 31 ∧ 2 ^ 31 ≤ ((regs 0 0x7FFFFFFF 0).x 2 + BitVec.ofNat 64 1).toNat ∧
    ((base.my.g 0).setWidth 64 + base.x 2 + BitVec.ofInt 64 0).toNat < 2 ^ 31 ∧
    2 ^ 31 ≤ ((base.my.g 0).setWidth 64 + base.x 2 + BitVec.ofInt 64 (-1)).toNat ∧
    (base.my.AnyZero 0x16 1 ∧ (base.upd fun x => x.putG 1 5).my.AnyZero 0x16 2) ∧
    (0x16 : BitVec 8) ≠ 0 ∧ base.my.aux.refPc = none ∧ base.my.aux.dbg.want ≠ some 1 ∧ user.my.csr.mode = .user ∧
    base.my.csr.mode = .supervisor ∧ base.myCore.bars[(0 : Fin 4)] = none ∧ base.LogRoom 2 := by
  unfold Ctx.AnyZero; decide +kernel

/-- Every masked peg is above 0. -/
theorem witness_Synchronization_all :
    (∀ i : Fin 8, (0x03 : BitVec 8).getLsbD i.val = true → ((base.upd fun x => (x.putG 0 1).putG 1 1).my.g i) ≠ 0) := by decide +kernel
theorem witness_Synchronization_domset :
    (mine (fun co => { co with bars := co.bars.set 0 (some ⟨0, 0, 0, false, 0, 0, none⟩) }) base).myCore.bars[(0 : Fin 4)] ≠ none := by
  decide +kernel

/-- A descriptor at 0x800: entry 0x20, landing zone at 0x4000 of core 0, no tile, no completion message (08 Table 8.4). -/
def txnState : State := poke 0x818 8 (own 0x4000).toNat (poke 0x800 8 0x20 (regs (own 0x800) (own 0x3000) 0))
def txn : Txn := ⟨own 0x800, 0x20, 0, 0, 0, 0x8000000000004000, 0, [], []⟩

theorem witness_TransactionInstructions :
    base.slaved base.me base.cc = false ∧ txnState.Descriptor (own 0x800) 448 ∧ txnState.Queues ∧ txnState.my.aux.recon ≠ some true ∧
    txnState.my.aux.frames = [] ∧
    (txnState.loadPiece (own 0x800) 448).toOption = some (.raw [(0x800, 448)] (0x20 + (own 0x4000).toNat * 2 ^ 192)) ∧
    txnState.checkLoads [(own 0x800, .raw [(0x800, 448)] (0x20 + (own 0x4000).toNat * 2 ^ 192))] = .ok () ∧
    txnState.captureTxn (txnState.partNo txnState.me) (own 0x800) = .ok txn ∧
    txnState.checkTile (txnState.partNo txnState.me) (own 0x3000) = .ok () ∧ txnState.LogRoom 3 ∧
    (∀ w : Bool, ∀ p ∈ txnState.declared (own 0x800) (own 0x3000) w, txnState.locksFree true [(p.1, p.2.1)] = true) ∧
    ¬ 8 ≤ hdrWrites (txnState.own64 0x800) ∧ (txnState.inReads (own 0x800) (own 0x3000)).isSome = false := by
  refine ⟨by decide +kernel, ?_, ?_, by decide +kernel, by decide +kernel, by decide +kernel, ok_of (by decide +kernel), ok_of (by decide +kernel),
    ok_of (by decide +kernel), by decide +kernel, by decide +kernel, by decide +kernel, by decide +kernel⟩ <;>
  · constructor <;> first | exact ok_of (by decide +kernel) | decide +kernel

/-- A body: its attempt, and one inside a region; a descriptor whose write list is full, or holds the tile. -/
def attempt (st : Stage) : Attempt := ⟨3, 5, 0, txn, 0, 0, none, [], [], st, 0, [], true, 0⟩
def bodyOf : State := mine (fun co => { co with attempts := [attempt (.body 0)] }) inBody
theorem witness_TransactionInstructions_body :
    bodyOf.my.csr.txbody = true ∧ bodyOf.my.depth = 0 ∧ bodyOf.my.settled = true ∧ bodyOf.my.aux.refPc = none ∧
    (bodyOf.myCore.attempts.find? fun q => q.stage == .body bodyOf.cc) = some (attempt (.body 0)) ∧ base.my.csr.txbody = false ∧
    (let s := csrs (fun c => { c with txbody := true }) inRegion; s.my.csr.txbody = true ∧ s.my.depth ≠ 0) ∧
    8 ≤ hdrWrites ((poke 0x804 2 0x100 txnState).own64 0x800) ∧
    ((poke 0x840 8 (own 0x3000).toNat (poke 0x804 1 1 txnState)).inReads (own 0x800) (own 0x3000)).isSome = true := by decide +kernel

theorem witness_RegionsAndDebug :
    base.LogRoom 2 ∧ base.my.depth < 8 ∧
    8 ≤ (auxs (fun a => { a with frames := List.replicate 8 (frame false false) }) base).my.depth ∧ base.my.aux.frames = [] ∧
    (let s := inRegion;
      s.my.settled = true ∧ (s.myCore.kq.any fun d => decide (d.ctx = s.cc ∧ (frame false false).since ≤ d.id)) = false ∧
      s.my.aux.refPc = none ∧ s.strmForeign (s.x 1) = false ∧
      s.myCore.poolUsed - (frame false false).space + (s.saveItems 3 (s.x 1) (frame false false)).space ≤ 65536 ∧
      (s.myCore.kq.any fun d => d.kind.writes && (s.x 1).getLsbD d.t.val) = false) ∧
    (csrs (fun c => { c with xvec := ⟨true, 0⟩ }) inRegion).my.csr.rgcause.setWidth 8 ≠ (0x0D : BitVec 8) ∧
    base.my.aux.labels = [] ∧ (auxs (fun a => { a with labels := [3, 4] }) base).my.aux.labels = 3 :: [4] ∧ base.x 1 = 0 ∧
    (base.isOwn (own 0x18) = true ∧ (own 0x18).toNat % 8 = 0) := by decide +kernel

theorem witness_RegionsAndDebug_more :
    (csrs (fun c => { c with xvec := ⟨true, 0⟩ }) inRegion).vectored ∧ (regs (own 0x40) 0 0).Descriptor (own 0x40) 64 ∧
    (0x8000000000000040 : Word).toNat = 2 ^ 63 + offOf (own 0x40) ∧
    ((poke 0x40 1 1 (poke 0x84 1 0x40 base)).tableFits 0x018 0x8000000000000040) := by
  refine ⟨by unfold State.vectored; decide +kernel, ?_, by decide +kernel, by unfold State.tableFits; decide +kernel⟩
  constructor <;> first | exact ok_of (by decide +kernel) | decide +kernel

/-- Operands at 0x1000 and 0x4000, the accumulator at 0x8000. -/
def kiln : State := base.upd fun x => ((x.putX 2 (own 0x1000)).putX 3 (own 0x10000)).putX 4 (own 0x20000)
/-- FP8 operands for `KSPMMA`. -/
def sparse : State := mine (fun co => { co with kcfgIssue := { KCfg.init with atype := 10, btype := 10 } }) kiln
def kop (shape : Fin 32) (b : Reg) : KOp := ⟨0, b, 1, true, shape, 0⟩

theorem witness_KilnCommands :
    pairOk 8 8 false false false = true ∧ kiln.myCore.kcfgIssue = KCfg.init ∧ kiln.Fires false 64 (kiln.mulArgs (kop 0 2) false) ∧
    kiln.Fires false 64 (kiln.mulArgs (kop 23 2) false) ∧ pairOk 10 10 false false true = true ∧ sparseTy 10 = true ∧
    sparse.Fires false 64 (sparse.mulArgs (kop 24 2) true) ∧ kiln.Fires false 64 [] ∧
    kiln.Fires false 64 [dataArg (kiln.x 2) 16 64 512 8] ∧ (0 : Fin 4).val + 64 / 64 ≤ 4 := by
  refine ⟨by decide, by decide +kernel, ?_, ?_, by decide, by decide, ?_, ?_, ?_, by decide⟩ <;>
  · constructor <;> first | exact ok_of (by decide +kernel) | decide +kernel

theorem witness_KilnCommands_tiles :
    (kiln.upd fun x => x.putX 3 64).Fires true (Min.min 64 (16 * 4)) [⟨⟨own 0x1000, 16, 16 * 4, 64, 0⟩, some 7, false⟩] ∧
    (kiln.upd fun x => x.putX 3 64).Fires false (Min.min 64 (16 * 2)) [⟨⟨own 0x1000, 16, 16 * 2, 64, 0⟩, some 8, true⟩] := by
  refine ⟨?_, ?_⟩ <;>
  · constructor <;> first | exact ok_of (by decide +kernel) | decide +kernel

theorem witness_KilnCommands_config :
    (kcfgOf 0x888 ((512 : Word) * 2 ^ 32 + 512) 0).isSome = true ∧ kcfgOf 0x688 0 0 = none ∧ kcfgOf 0x888 1 0 = none := by decide +kernel

/-! Events. -/

def sent (ms : List Msg) (s : State) : State := { s with sh := { s.sh with fabric := ms } }
def held (o : Offer) (s : State) : State := { s with sh := { s.sh with held := [⟨o, 0, 0⟩] } }
def parked (w : Wait) : State := base.upd fun x => { x with run := .parked w 6 }
def at_cycle (n : Nat) (s : State) : State := { s with cycle := n }
/-- A request of context 0 of core 0, and its message to a core. -/
def req (op : ROp) : Req := base.mkReq 3 .o op (.reg (.x 5))
def msg (op : ROp) (dst : Nat) : State := sent [.req (req op) ⟨0, dst⟩ 0] base
def am (q : Bool) : ROp := .send q (own 0x20) 1 2 false
def fstOp : ROp := .post (.st (own 0x40) 8 5)
/-- Every context of core 0 runs, and its receive queue holds 48 arrivals. -/
def busy (s : State) : State :=
  mine (fun co => { co with ctxs := Vector.replicate 4 { Ctx.init with run := .running }, rq := List.replicate 48 (item .arrival) }) s
def noSpill (s : State) : State := mine (fun co => { co with csr := { co.csr with qtab := 0 } }) s

theorem witness_MessageEvents :
    (msg (am false) 0).Due 0 (req (am false)) ⟨0, 0⟩ 0 0 ∧ (msg (am false) 0).denied 0 ⟨0, 0⟩ = false ∧
    (msg (am false) 2000).Due 0 (req (am false)) ⟨0, 2000⟩ 0 2000 ∧ (msg (am false) 2000).denied 0 ⟨0, 2000⟩ = true ∧
    (msg (am true) 0).Due 0 (req (am true)) ⟨0, 0⟩ 0 0 := by
  refine ⟨?_, by decide +kernel, ?_, by decide +kernel, ?_⟩ <;> · constructor <;> decide +kernel

theorem witness_MessageEvents_arrive :
    let e := entry 0 0 0 false 0 0 0x20 1 2 0 0 0
    dispatchable e = true ∧ base.myCore.txnWaiting = 0 ∧ base.myCore.idleCtx = some 1 ∧ (base.arrive 0 e false).isSome = true ∧
    (busy base).myCore.idleCtx = none ∧ placed (busy base).myCore.rq .arrival = 48 ∧ placed (busy base).myCore.rq .spill = 0 ∧
    placed (busy base).myCore.rq .spill < (busy base).myCore.spillMax ∧
    (noSpill (busy base)).myCore.spillMax ≤ placed (busy base).myCore.rq .spill ∧ ((noSpill (busy base)).arrive 0 e false).isNone = true ∧
    dispatchable (entry 2 0 0 false 0 0 0 1 2 0 0 0) = false ∧ placed base.myCore.rq .arrival < 48 := by decide +kernel

theorem witness_MessageEvents_handle :
    (base.handle 0 (own 0x20)).toOption = none ∧
    ((poke 0x100 8 (2 ^ 63) base).handle 0 (own 0x20)).toOption = some 0x8000000000000000 ∧
    (0x8000000000000000 : Word).getLsbD 62 = false ∧
    ((poke 0x100 8 (3 * 2 ^ 62) base).handle 0 (own 0x20)).toOption.map (·.getLsbD 62) = some true ∧
    (sent [.ret 0 3 0] base).Carries 0 (.ret 0 3 0) ∧ (sent [.accept 0 3] base).Carries 0 (.accept 0 3) ∧ base.liveCore 0 = true ∧
    (held (.entry 0 0 false) base).sh.held[0]? = some ⟨.entry 0 0 false, 0, 0⟩ := by unfold State.Carries; decide +kernel

def queuedReq (op : ROp) : State := mine (fun co => { co with injq := [req op] }) base
def released : State := auxs (fun a => { a with deferred := [⟨0, req fstOp, 32⟩] }) base

theorem witness_PostedEvents :
    (queuedReq (am false)).myCore.injq[0]? = some (req (am false)) ∧ (req (am false)).left = false ∧
    base.runs (base.partNo 0) (am false) = true ∧ (queuedReq (am false)).mayLeave 0 (req (am false)) = true ∧ (am false).isPost = false ∧
    fstOp.isPost = true ∧ (queuedReq fstOp).mayLeave 0 (req fstOp) = true ∧ (queuedReq fstOp).pathFor 0 (req fstOp) = some 0 ∧
    released.my.aux.deferred = ⟨0, req fstOp, 32⟩ :: [] ∧ released.myCore.injq.length < 16 ∧ released.liveCore 0 = true ∧
    (sent [.ack 0 0 3 0 true false 4] base).Carries 0 (.ack 0 0 3 0 true false 4) ∧ base.my.run ≠ .idle := by
  unfold State.Carries; decide +kernel

theorem witness_PostedEvents_perform :
    (msg fstOp 0).Due 0 (req fstOp) ⟨0, 0⟩ 0 0 ∧ (msg fstOp 0).pathTurn 0 (req fstOp) ⟨0, 0⟩ = true ∧
    (PostOp.st (own 0x40) 8 5).ready 0 = true ∧ (req fstOp).host = none ∧
    (let p := PostOp.st (own 0x40) 8 5;
      (msg fstOp 0).refusal (req fstOp) ⟨0, 0⟩ 0 p ((msg fstOp 0).postPieces 0 p) = none ∧
      (mine (fun co => { co with ranges := [⟨0, 128, true, .copy 9, 0, none⟩] }) (msg fstOp 0)).refusal (req fstOp) ⟨0, 0⟩ 0 p
        ((msg fstOp 0).postPieces 0 p) = some 0x05) := by
  refine ⟨?_, by decide +kernel⟩
  constructor <;> decide +kernel

/-- An operation of two destinations, then of one; the second acknowledgement of a refused one. -/
theorem witness_PostedEvents_acked :
    let p : Posted := { id := 3, path := 0, plane := 16, lines := [], missing := 2, denied := 0, ordered := true, pc := 4 }
    let x := fun q : Posted => ({ Ctx.init with aux := { Aux.init with posted := [q] } } : Ctx)
    ((x p).aux.posted.find? fun q => decide (q.id = 3)) = some p ∧ 2 ≤ p.missing ∧
    ((x { p with missing := 1, denied := 1 }).aux.posted.find? fun q => decide (q.id = 3)) = some { p with missing := 1, denied := 1 } ∧
    ((x p).acked 3 1 true).aux.posted.map (·.denied) = [2] := by decide +kernel

def loadOp : ROp := .load (own 0x40) 8
def amoOp : ROp := .amo (own 0x40) 0 false 1 0
def engineState : State := base.setEngine 0 { ports := [(0, req amoOp, ⟨0, 0⟩, 0)], ptr := 0, served := none }
/-- The result of x5 that reply 3 settles. -/
def outs5 (s : State) : State := auxs (fun a => { a with outs := [⟨3, .reg (.x 5), 0, some 0, 0, false, [], false⟩] }) s
def reply (f : Option (BitVec 8)) : Msg := .reply 0 0 (.reg (.x 5)) 0 3 7 false f loadOp

theorem witness_PostedEvents_results :
    (msg loadOp 0).Due 0 (req loadOp) ⟨0, 0⟩ 0 0 ∧ (msg amoOp 0).Due 0 (req amoOp) ⟨0, 0⟩ 0 0 := by
  refine ⟨?_, ?_⟩ <;> · constructor <;> decide +kernel

theorem witness_PostedEvents_load :
    (msg loadOp 0).denied 0 ⟨0, 0⟩ = false ∧ (msg loadOp 2000).denied 0 ⟨0, 2000⟩ = true ∧
    base.readVia 0 0 (base.myCore.win 0) 0x40 8 = some (0, [(0x40, 8)]) ∧ base.readVia 0 1 (base.myCore.win 1) 0x40 8 = none ∧
    ([((0x40 : Nat), (8 : Nat))].any fun q => (base.lockHit 0 none none q.1 (q.1 + q.2)).1) = false ∧
    ([((0x20 : Nat), (8 : Nat))].any fun q => ((locked base).lockHit 0 none none q.1 (q.1 + q.2)).1) = true ∧
    amoOp.atomic.isSome = true ∧ amoOp.isPost = false ∧ (engineState.engine 0).served ≠ some engineState.cycle ∧
    (engineState.engine 0).next engineState.cycle = some (0, req amoOp, ⟨0, 0⟩, 0) ∧
    engineState.runs 0 amoOp = true ∧ Owner.local_ ⟨0, 0⟩ engineState = some 0 ∧
    (sent [reply none] (outs5 base)).Carries 0 (reply none) ∧
    (outs5 base).my.Expects 3 (.reg (.x 5)) 0 ⟨3, .reg (.x 5), 0, some 0, 0, false, [], false⟩ ∧ (outs5 base).my.trigger 3 = none ∧
    (sent [reply (some 0x0B)] base).Carries 0 (reply (some 0x0B)) ∧
    (outs5 base).my.aux.outs[0]? = some ⟨3, .reg (.x 5), 0, some 0, 0, false, [], false⟩ ∧ 0 ≤ (outs5 base).pns 0 ∧
    (base.my.aux.outs.find? fun o => decide (o.id = 3 ∧ o.dest = .reg (.x 5) ∧ o.gen = 0 ∧ base.my.gen (.reg (.x 5)) = 0)) = none := by
  unfold State.Carries Ctx.Expects; decide +kernel

theorem witness_PostedEvents_far :
    let s := auxs (fun a => { a with far := some ⟨0, [(0, 0)], false, some [(0, 0)], [], []⟩ }) (parked .far)
    s.my.run = .parked .far 6 ∧ (s.my.aux.far.map (·.phys.isSome)) = some true ∧ s.liveCore 0 = true := by decide +kernel

/-- A copy from core 1 to core 0, one that meets a lock there, one from a page that no table maps. -/
def copyTo (src dst : Word) : CopyDesc :=
  { kind := 0, desc := own 0x100, src := src, dst := dst, rows := 1, rlen := 64, sstr := 0, dstr := 0, notify := false, dsts := none,
    mode := 0, otype := 0, itype := 0, fmeta := 0, peg := 1, win := none, mwin := none }
def other : Word := 0x8FF0000000100200
def copies (n : Bool) : State :=
  { base with sh := { base.sh with copies := [⟨3, req (.copy (copyTo other (own 0x400))), { copyTo other (own 0x400) with notify := n }, [], 0, 64, 0, [], [], 0, 0, []⟩] } }
def fetches : State := { base with sh := { base.sh with fetches := [⟨3, req (.cfetch (own 0x2000) 1 2), 1, 2, own 0x2000, some 0, [], 64, 0⟩] } }

theorem witness_TransferEvents :
    (let x := copyTo other (own 0x400)
     let s := msg (.copy x) 0
     s.Carries 0 (.req (req (.copy x)) ⟨0, 0⟩ 0) ∧ (s.part 0).live = true ∧
     ((s.unpost 0).transEnds (req (.copy x)) false (x.ends.filter fun e => !isSlice e.a)).2.toOption = some [] ∧
     (match s.registerEnds (req (.copy x)) x.win x.mwin x.ends with | .done .. => true | _ => false) = true ∧
     (match ((s.updCore 1 fun co => { co with ranges := [⟨0x200, 0x240, true, .copy 9, 1, none⟩] }).registerEnds (req (.copy x)) x.win
       x.mwin x.ends) with | .refused => true | _ => false) = true) ∧
    (let x := copyTo 0x100000 (own 0x400);
     ((base.transEnds (req (.copy x)) false (x.ends.filter fun e => !isSlice e.a)).2.toOption).isNone = true) ∧
    (copies true).sh.copies.map (·.d.notify) = [true] ∧ (copies false).sh.copies.map (·.d.notify) = [false] ∧
    ((fetches.sh.fetches.find? fun f => decide (f.req.src = 0 ∧ f.seg = 1)).isSome = true) := by
  unfold State.Carries; decide +kernel

theorem witness_TransferEvents_streams :
    (strm false .i32 []).wants false = true ∧ (withStrm (strm false .i32 []) base).strm 0 2 = some (strm false .i32 []) ∧
    (strm true .i32 [(0, 5, false)]).buf = (0, 5, false) :: [] ∧
    (let s := mine (fun co => { co with east := [7] }) base
     isHod (0 : Key) = false ∧ colOf (0 : Key).val ≠ 63 ∧ s.liveCore 0 = true ∧ s.myCore.east = 7 :: [] ∧
     (s.core (coreKey 1)).west.length < 4) := by decide +kernel

/-- A command of core 0's kiln queue. -/
def cmd (kind : KKind) (started : Option Nat) (err : Option (BitVec 8)) (inject : Bool) : KCmd :=
  { id := 3, ctx := 0, pc := 0, kind := kind, t := 0, peg := some 1, m := 16, n := 16, k := 0, cfg := KCfg.init, ops := [⟨own 0x1000, 16, 32, 64, 0⟩],
    rndkey := 0, rndctr := 0, ready := 0, started := started, occ := 4, inject := inject, flaw := false, failAt := none, got := [], err := err }
def inKiln (c : KCmd) : State := at_cycle 100 (mine (fun co => { co with kq := [c] }) base)

theorem witness_TransferEvents_kiln :
    (let s := inKiln (cmd .zero none none false)
     let heads := ((List.range 8).map fun j => coreKey (coreAtSlot 0 j)).map fun k => if s.liveCore k then (s.core k).kilnHead s.cycle else none
     let weights := ((List.range 8).map fun j => coreKey (coreAtSlot 0 j)).map fun k => (s.core k).csr.kweight.toNat
     (s.kiln 0).free ≤ s.cycle ∧ pickQueue heads weights (s.kiln 0).cur.val (s.kiln 0).used = some (0, 0, 1) ∧ heads.getD 0 none = some 0) ∧
    ([none, some 0, none, none, none, none, none, none].getD ((7 + 1 + 1) % 8) (none : Option Nat)).isSome = true ∧
    (∀ e, e < 1 → [none, some 0, none, none, none, none, none, none].getD ((7 + e + 1) % 8) (none : Option Nat) = none) := by decide +kernel

theorem witness_TransferEvents_tiles :
    (inKiln (cmd .zero (some 0) none false)).kilnDone 0 = some (cmd .zero (some 0) none false) ∧ KKind.zero.writes = true ∧
    (inKiln (cmd (.sta true) (some 0) none false)).kilnDone 0 = some (cmd (.sta true) (some 0) none false) ∧
    (inKiln (cmd (.cfg KCfg.init) (some 0) none false)).kilnDone 0 = some (cmd (.cfg KCfg.init) (some 0) none false) ∧
    (inKiln (cmd .zero (some 0) (some 0x21) false)).kilnDone 0 = some (cmd .zero (some 0) (some 0x21) false) ∧
    (inKiln (cmd .zero (some 0) none true)).kilnDone 0 = some (cmd .zero (some 0) none true) ∧
    (inKiln (cmd (.res (.reg (.x 5)) true) (some 0) none false)).kilnDone 0 = some (cmd (.res (.reg (.x 5)) true) (some 0) none false) := by
  decide +kernel

/-- An arrival whose release is fixed, one that waits, at a rectangle of one core. -/
def barrier (ss : Bool) (rel : Option Nat) : State :=
  (mine (fun co => { co with
    bars := co.bars.set 0 (some ⟨0, 0, 1, ss, 0, 6, rel⟩),
    csr := { co.csr with dm := co.csr.dm.set 0 0x8000000000000000, brect := co.csr.brect.set 0 0x101 } }) base).upd fun x => x.putG 1 3

theorem witness_Synchronization_bar :
    (mine (fun co => { co with bars := co.bars.set 0 none }) (barrier true none)).Arrives 0 true := by constructor <;> decide +kernel

theorem witness_WaitEvents :
    base.liveCore 0 = true ∧ base.my.trigger 1 = none ∧ (parked (.peg 0)).my.run = .parked (.peg 0) 6 ∧ (parked (.peg 0)).my.g 0 = 0 ∧
    (parked (.peg 0)).my.aux.wakeAt[(0 : Reg8)] ≤ 0 ∧ (parked .msg).my.run = .parked .msg 6 ∧ (queued (parked .msg)).myCore.rq ≠ [] ∧
    base.my.aux.refPc = none ∧ (parked (.fence .dom)).my.run = .parked (.fence .dom) 6 ∧ (parked (.fence .dom)).fenceDone 0 0 .dom = true ∧
    ((parked (.fencea .core)).fenceDone 0 0 .core && (parked (.fencea .core)).enginesDone 0 0 .core) = true ∧
    (barrier false (some 0)).myCore.bars[(0 : Fin 4)] = some ⟨0, 0, 1, false, 0, 6, some 0⟩ ∧ 0 ≤ (barrier false (some 0)).pclk 0 ∧
    0 < (barrier false (some 0)).my.g 1 ∧ (barrier true none).arrivals 0 0 = some [⟨0, 0, 1, true, 0, 6, none⟩] ∧
    (0 : Nat) < 2 ∧ (2 : Nat) < 3 := by decide +kernel

/-- The release times of R273 for two rows and three columns whose arrivals are all at 10. -/
theorem test_sweep : releases [] 2 3 [10, 10, 10, 10, 10, 10] = [19, 21, 23, 17, 19, 21] := by decide +kernel

def rolling (r : Roll) (s : State) : State := s.upd fun x => { x with run := .rolling r }
def ssFrame : SsFrame :=
  { x := Vector.replicate 32 7, p := Vector.replicate 8 0, mode := .supervisor, rndctr := 0, pc := 4, level := 0, rect := (0, 0, 1, 1),
    marker := 0, num := 1, recov := true, since := 0 }
def inSuperstep : State := auxs (fun a => { a with ss := some ssFrame }) base

theorem witness_RollbackEvents :
    (rolling (.region 0x21) inRegion).Rolls 0 0 ∧ (rolling (.body 0x22) bodyOf).Rolls 0 0 := by
  refine ⟨?_, ?_⟩ <;> · constructor <;> decide +kernel
theorem witness_RollbackEvents_more :
    (rolling (.region 0x21) inRegion).my.run = .rolling (.region 0x21) ∧ (rolling (.region 0x21) inRegion).my.aux.frames = frame false false :: [] ∧
    (frame false false).strms = [] ∧ (frame false false).vs = [] ∧ (frame false false).pegs = none ∧
    (mine (fun co => { co with kq := [cmd .zero none none false] }) inRegion).myCore.kilnWaiting 0 0 = true ∧
    (auxs (fun a => { a with body := some (0, 1) }) (rolling (.body 0x22) bodyOf)).my.aux.body = some (0, 1) ∧
    (bodyOf.myCore.attempts.find? fun a => a.stage == .body 0) = some (attempt (.body 0)) ∧
    (let s := rolling (.superstep 0x20 true) inSuperstep
     s.my.run = .rolling (.superstep 0x20 true) ∧ s.my.aux.ss = some ssFrame ∧ s.liveCore 0 = true ∧
     ((s.gang 0 ssFrame.rect ssFrame.level).any fun e => (s.core e.1).kilnWaiting e.2.1 e.2.2.since) = false ∧
     ((s.gang 0 ssFrame.rect ssFrame.level).all fun e => s.quiet e.1 e.2.1) = true) := by decide +kernel

/-- A transaction of core 0 in flight. -/
def tsubOp : ROp := .tsub txn none
def attempts (l : List Attempt) : State := mine (fun co => { co with attempts := l }) base
def lockReq (write : Bool) (check : Option (BitVec 32)) : LockReq := ⟨0, 5, 0, 3, none, write, check, 0, 0, 0x4000, false⟩

theorem witness_SequencerEvents : (msg tsubOp 0).Submits 0 (req tsubOp) ⟨0, 0⟩ 0 txn none := by
  constructor <;> first | exact ⟨txn, rfl, by decide +kernel⟩ | decide +kernel

theorem witness_SequencerEvents_more :
    (base.part 0).lane.intake.length < 4096 ∧ (∃ l : List Sub, 4096 ≤ l.length) ∧
    ((base.transTiles 0 0 true txn.tiles).2.toOption = some []) ∧
    ((base.transTiles 0 0 true { txn with reads := [(0x3000, none)] }.tiles).2.toOption = none) ∧
    (base.part 0).live = true ∧ (at_cycle 3600 base).batchDue 0 = true ∧
    (sent [.portion 0 0 1 []] base).Carries 0 (.portion 0 0 1 []) ∧ (base.part 0).lane.out 1 0 = false ∧
    ({ Lane.init with cuts := [(1, 4)] } : Lane).out 1 5 = true ∧ (sent [.verdict 0 5 true] base).Carries 0 (.verdict 0 5 true) ∧
    (sent [.lock 0 (lockReq true none)] base).Carries 0 (.lock 0 (lockReq true none)) ∧
    (let s := mine (fun co => { co with lkm := ⟨false, [], [lockReq false none, lockReq false (some 1)], []⟩ }) base
     grantable (s.myCore.lkm.queue.filter fun q => q.tile = 3) = lockReq false none :: [lockReq false (some 1)] ∧
     s.tileFree 0 (lockReq false none) = true) ∧
    grantable [lockReq true none] = [lockReq true none] ∧
    (msg (.trecon (own 0x800) (own 0x3000)) 0).Carries 0 (.req (req (.trecon (own 0x800) (own 0x3000))) ⟨0, 0⟩ 0) ∧
    isSlice (own 0x3000) = true ∧ (base.owner (own 0x3000)).dev = base.device ∧ base.inSpan 0 (base.owner (own 0x3000)) = true ∧
    base.inSpan 0 (base.owner 0x8FF00000FFF03000) = false ∧
    (sent [.grant 0 0 5 0 [] 0 false 0x4000] base).Carries 0 (.grant 0 0 5 0 [] 0 false 0x4000) ∧
    ((attempts [attempt .collecting]).myCore.attempts.find? fun a => a.key = 5) = some (attempt .collecting) ∧
    (attempts [attempt .collecting]).myCore.landingHeld (attempt .collecting) = false := by
  refine ⟨by decide +kernel, ⟨List.replicate 4096 ⟨0, txn, 0, 0, none, 0, 0, none, [], true⟩, Nat.le_of_eq List.length_replicate.symm⟩, ?_⟩
  unfold State.Carries; decide +kernel

def failing : Attempt := { attempt .ready with got := [(0, 0, true)] }
def member : State := base.updPart 0 fun p => { p with group := 3 }
theorem witness_DispatchEvents :
    base.liveCore 0 = true ∧ base.myCore.anyStopped = false ∧ (attempts [attempt .ready]).myCore.nextTxn = some (attempt .ready) ∧
    (attempts [attempt .failed]).myCore.nextTxn = some (attempt .failed) ∧ base.myCore.idleCtx = some 1 ∧
    ((attempts [attempt .failed]).myCore.attempts.find? fun a => a.stage == .ready && a.fail) = none ∧
    ((attempts [failing]).myCore.attempts.find? fun a => a.stage == .ready && a.fail) = some failing ∧
    (sent [.push 0 3 none 5 0 0 [] 1] base).Carries 0 (.push 0 3 none 5 0 0 [] 1) ∧
    (sent [.release 0 3 5 0 0 false] base).Carries 0 (.release 0 3 5 0 0 false) ∧
    (sent [.release 0 3 5 0 0 true] base).Carries 0 (.release 0 3 5 0 0 true) ∧ LockMgr.versions ⟨false, [], [], []⟩ = [] ∧
    ((attempts [attempt (.committing (some 0) 0 0)]).myCore.attempts.find? fun a => match a.stage with
      | .committing _ 0 0 => true
      | _ => false) = some (attempt (.committing (some 0) 0 0)) ∧ base.my.aux.dbg.want = none ∧
    (member.part 0).state ≠ .free ∧ (1 : BitVec 8) ≠ (member.part 0).device ∧ (member.part 0).group.getLsbD (1 : BitVec 8).toNat = true ∧
    aget (member.part 0).lane.cuts (1 : BitVec 8).toNat = none ∧ member.laneTouches 0 1 = false ∧
    (mine (fun co => { co with attempts := [{ attempt .ready with txn := { txn with writes := [0x8010000000003000] } }] })
      member).laneTouches 0 1 = true := by unfold State.Carries; decide +kernel

/-- The partition also holds hod 0, whose translation slice knows page 0 at 0x100000, readable and writable. -/
def paged (s : State) : State :=
  (s.updPart 0 fun p => { p with hods := 1 }).updCore 4096 fun co => { co with tlb := [⟨0, 0, 0x10000, 0x1000000073 ||| at_ 1 9⟩] }
def farWait (s : State) : State :=
  { auxs (fun a => { a with far := some ⟨0, [(0, 0)], false, none, [], []⟩ }) (s.upd fun x => { x with run := .parked .far 6 }) with cycle := 0 }
def part (st : PState) (f : Part → Part) : State := base.updPart 0 fun p => f { p with state := st }
def job (ts : Option Nat) : LaunchJob :=
  ⟨9, 0, { part := 0, row0 := 0, col0 := 1, rows := 1, cols := 2, runw := 0, sup := true, entry := 4, arg1 := 1, arg2 := 2,
           seg0 := 0, seg1 := 0, seg2 := 0, seg3 := 0, slsrc := 0, sloff := 0, sllen := 0 }, ts⟩
def launching (ts : Option Nat) (f : LaunchArgs → LaunchArgs) : State :=
  let j := job ts
  { base with launches := [{ j with a := f j.a }] }

theorem witness_PartitionEvents_far :
    let s := farWait (paged base)
    s.my.run = .parked .far 6 ∧ s.liveCore 0 = true ∧ ((s.translateAll 0 0 .read true [(0, 0)]).2.toOption).isSome = true ∧
    ((s.translateAll 0 0 .read true [(2, 0x20000)]).2.toOption) = none := by decide +kernel

theorem witness_PartitionEvents_records :
    (held (.record 0 1 0 0x0D 5) base).sh.held[0]? = some ⟨.record 0 1 0 0x0D 5, 0, 0⟩ ∧ (base.ctx 0 1).run = .idle ∧
    (base.arrive 0 (entry 2 0 0 false 0 0 0 0 0 0 0 0) false).isSome = true ∧
    ((noSpill (busy base)).arrive 0 (entry 2 0 0 false 0 0 0 0 0 0 0 0) false).isNone = true ∧
    ({ base with shoots := [⟨0, 0, 0, 0, 0x10000, []⟩] } : State).shoots[0]? = some ⟨0, 0, 0, 0, 0x10000, []⟩ := by decide +kernel

theorem witness_PartitionEvents_launch :
    (launching none id).launches[0]? = some (job none) ∧ (job none).ts = none ∧
    ((base.landSegs 0 (job none).a.targets (job none).a.named).2 = none) ∧ (base.landSlice 0 (job none).a).2 = none ∧
    (job (some 0)).ts = some 0 := by decide +kernel
theorem witness_PartitionEvents_idle : ∀ j ∈ (job none).a.targets, (base.ctx j 0).run = .idle := fun j hj =>
  of_decide_eq_true (List.all_eq_true.mp (show ((job none).a.targets.all fun j => decide ((base.ctx j 0).run = .idle)) = true by
    decide +kernel) j hj)

theorem witness_PartitionEvents_stop :
    ((part .armed id).part 0).t ≤ (part .armed id).now ∧
    (let s := part .stopping id; ((s.part 0).keys.all fun j => (s.core j).stoppedWell) = true ∧ (s.part 0).saveva = 0) ∧
    (let s := part .stopping fun p => { p with saveva := 0x10000 }; (s.part 0).saveva ≠ 0 ∧ (s.part 0).fatal = false) := by
  decide +kernel

theorem witness_PartitionEvents_resume :
    (part .resuming id |>.part 0).t ≤ (part .resuming id).now + 1000 ∧ (part .resuming id |>.part 0).restore = none ∧
    (part .resuming id |>.part 0).before ≠ .saved ∧ (part .resuming fun p => { p with before := .saved }).restored 0 = none ∧
    (let s := mine (fun co => { co with resetting := some 2 }) base; s.myCore.resetting = some 2 ∧ s.partOf 0 = some 0) := by
  decide +kernel

theorem witness_PartitionEvents_unmapped : ((paged base).landSegs 0 [1] [(1, 0x20000)]).2.isSome = true := by
  unfold State.landSegs; decide +kernel

/-- A drain with room for nothing ends early, one with nothing left to write ends well. -/
theorem witness_PartitionEvents_drain :
    (let s := part .saving fun p => { p with saveva := 0x10000 }; (s.drain 0 [] 0x10000 3).2 = some 0x10000) ∧
    (let s := part .saving fun p => { p with progress := 0x10000 }; (s.drain 0 [] 0x10000 3).2 = none) := by decide +kernel

/-- Port A is up, the device READY, and port A holds the semaphore of partition 0, or of partition 1, which is FREE. -/
def hosted (s : State) : State := { s with ports := s.ports.set 0 { HostPort.init with up := true }, sems := (s.sems.set 0 1).set 1 1 }
def create1 : CreateArgs :=
  { part := 1, pallets := 2, hods := 1, device := 0, debug := false, grade := 0, domsize := 1, cfgtag := 0, job := 7, group := 1, root := 0 }
def launch1 : LaunchArgs := (job none).a

theorem witness_HostCommands :
    (hosted base).Accepts 0 0 ∧ (hosted base).Accepts 0 1 ∧ ({ base with ports := base.ports.set 1 { HostPort.init with up := true } } : State).Accepts 1 5 := by
  refine ⟨?_, ?_, ?_⟩ <;> · constructor <;> decide +kernel
theorem witness_HostCommands_more :
    (let s := hosted base
     s.portUp 0 = true ∧ s.holds 0 1 = true ∧ (s.part 1).state = .free ∧ s.createBad create1 = false ∧
     s.createBad { create1 with hods := 0 } = true ∧ (s.part 0).state.ends = true ∧ (s.part 0).state ≠ .free ∧ s.holds 0 2 = false ∧
     s.launchBad { launch1 with rows := 0 } = true ∧ s.launchBad { launch1 with seg0 := 0x40 } = false ∧
     s.launchBusy { launch1 with seg0 := 0x40 } = false ∧ s.launchBusy { launch1 with col0 := 0, seg1 := 0x40 } = true ∧
     s.timeOk 2000 = true ∧ s.timeOk 1999 = false ∧ (0 : Word).toNat < 2 ^ 57 ∧ farAddr 0x10000 = true ∧
     isHod (1 : Key) = false ∧ (s.part 0).has 1 = true ∧ (s.part 0).has 2000 = false ∧ s.now + 2000 ≤ 2000 ∧
     1999 < s.now + 2000) ∧
    (let s := hosted (part .stopped id); (s.part 0).fatal = false ∧ (s.part 0).state ≠ .active) ∧
    (hosted (part .stopped fun p => { p with fatal := true }) |>.part 0).fatal = true ∧
    (hosted (part .armed id) |>.part 0).t < (hosted base).now + 2000 ∧ PState.incomplete ≠ .free := by decide +kernel

/-- RESTORE: an empty partition; an area whose header does not match, a page that no table maps, and the header of Table 14.9. -/
def emptied : State := hosted (paged (base.upd fun x => { x with run := .idle }))
def area (s : State) : State :=
  let w := fun (i v : Nat) (s : State) => s.setMem (s.sh.mem.write (0x100000 + 8 * i) 8 v)
  let s := w 0 0x10000 (w 1 1 (w 3 (at_ 1 32 ||| at_ 1 16).toNat (w 4 1 (w 8 1 s))))
  { s with areas := [⟨[0x100000], [], 0, [], s.part 0, s.sh, [], 0⟩] }
theorem witness_HostCommands_restore :
    (let s := emptied
     farAddr 0 = true ∧ (0 : Word).toNat % 0x10000 = 0 ∧
     (match s.translate 0 0 0 .read true with | .ok (u, l) => u.areaOk (s.part 0) (l.phys 0) == false | .error _ => false) = true ∧
     (match (area s).translate 0 0 0 .read true with | .ok (u, l) => u.areaOk (s.part 0) (l.phys 0) | .error _ => false) = true ∧
     (match s.translate 0 0x20000 0 .read true with | .ok _ => false | .error _ => true) = true) := by decide +kernel

theorem witness_HostCommands_idle :
    ∀ j ∈ (emptied.part 0).keys, (emptied.core j).kq = [] ∧ ∀ c, (emptied.ctx j c).run = .idle := by
  have h : ((emptied.part 0).keys.all fun j => (emptied.core j).kq.isEmpty && decide (∀ c, (emptied.ctx j c).run = .idle)) = true := by
    decide +kernel
  intro j hj
  have hj := List.all_eq_true.mp h j hj
  simp only [Bool.and_eq_true, decide_eq_true_eq, List.isEmpty_iff] at hj
  exact hj

def rec0 (a : Word) : InjRec := ⟨false, true, 0, 7, a, 1, 2, 3, false⟩
/-- The slice of core 0 holds the descriptor of `txnState`. -/
theorem witness_HostRecords :
    (hosted base).Takes .message 0 (rec0 0x8000000000000020) ∧ (hosted base).Takes .queue 0 (rec0 0x8000000000000001) ∧
    (hosted base).Takes .write 0 (rec0 0x8000000000000040) ∧ (hosted base).Takes .read 0 (rec0 0x8000000000000040) ∧
    (hosted txnState).Takes .txn 0 (rec0 0x8000000000000800) := by
  refine ⟨?_, ?_, ?_, ?_, ?_⟩ <;> · constructor <;> decide +kernel
theorem witness_HostRecords_more :
    InjKind.Event .message 0 (rec0 0) (.injActiveMessage 0 (rec0 0)) ∧ InjKind.Event .txn 0 (rec0 0) (.injTxnSubmit 0 (rec0 0)) ∧
    (let s := hosted State.reset; s.portUp 0 = true ∧ s.mg.state ≠ .ready) ∧
    (let s := hosted base;
     s.injAddr .write 0 0x8000000000000041 = false ∧ s.injAddr .message 0 0x40 = false ∧ (s.part 2).live = false ∧
     ({ s with ports := s.ports.set 0 { s.ports[0] with inj := List.replicate 32 0 } } : State).ports[0].inj.length = 32 ∧
     ({ rec0 0 with sup := true } : InjRec).sup = true ∧ ({ rec0 0 with rsv := true } : InjRec).rsv = true ∧
     s.ports[0].notices = [] ∧ Loc.farEnd ≤ 0x6000000000 ∧ 0x5FFFFFFFC0 < Loc.farEnd) := by
  refine ⟨rfl, rfl, by decide +kernel, by decide +kernel⟩


def port3 (f : SlaupPort → SlaupPort) (s : State) : State := { s with slaup := s.slaup.set 3 (f { SlaupPort.init with up := true }) }

theorem witness_LinkEvents :
    base.mg.power = true ∧ base.mg.state = .ready ∧ (0 : Fin 20).val < 2 ∧ (5 : Fin 20).val = (3 : Fin 18).val + 2 ∧
    base.slaup[(3 : Fin 18)].dead = false ∧ (port3 id base).slaup[(3 : Fin 18)].up = true ∧
    2 ^ 15 ≤ ((0xFFFF : BitVec 16) - Credit.init.ret).toNat ∧ ((0x7FFF : BitVec 16) - Credit.init.ret).toNat < 2 ^ 15 ∧
    (port3 (fun x => { x with changed := some 0 }) base).slaup[(3 : Fin 18)].unreported = false ∧
    (at_cycle 1800 (port3 id base)).slaup[(3 : Fin 18)].credited + 1000 ≤ (at_cycle 1800 (port3 id base)).now ∧
    (port3 (fun x => { x with ctl := x.ctl.set 0 ⟨5, 0, 0, 0⟩ }) base).slaup[(3 : Fin 18)].unreported = true := by decide +kernel

theorem witness_LinkEvents_domain :
    (let s := port3 (fun x => { x with dead := true }) base
     s.slaup[(3 : Fin 18)].dead = true ∧ s.slaup[(16 : Fin 18)].standbyFor ≠ some 3 ∧ s.slaup[(17 : Fin 18)].standbyFor ≠ some 3 ∧
     s.dom.standby 3 = none) ∧ base.dom.draining = none ∧
    ((0 : Nat), (1 : BitVec 16)) ∉ base.dom.pairs ∧
    (let s : State := { base with dom := { base.dom with draining := some (3, 0), pairs := [(0, 1)] } }
     s.dom.draining = some (3, 0) ∧ 0 ≤ s.now ∧ ((0 : Nat), (1 : BitVec 16)) ∈ s.dom.pairs ∧ 4 ≤ 3 + 1) ∧
    (at_cycle 4096 base).myCore.patrolled < (at_cycle 4096 base).cycle / 4096 := by decide +kernel

def debugged (r : Run) (f : Aux → Aux) : State := hosted (debugOn (auxs f (base.upd fun x => { x with run := r })))
/-- A history entry whose register entry is in the log. -/
def stepped : State :=
  mine (fun co => Core.push co ⟨.reg 0 0 5 0, 77⟩) (debugged (.stopped 0) fun a => { a with hist := [⟨4, 0, 0, [0], false⟩] })

theorem witness_DebugEvents :
    (debugged .running id).Debugs 0 0 0 ∧ (debugged (.stopped 0) id).Debugs 0 0 0 := by
  refine ⟨?_, ?_⟩ <;>
  · constructor <;> first | decide +kernel | (constructor <;> decide +kernel)
theorem witness_DebugEvents_more :
    ((hosted base).part 1).live = false ∧ ((hosted base).part 0).config.getLsbD 63 = false ∧ ((hosted base).part 0).has 2000 = false ∧
    (debugged .running id).my.stopsNow = true ∧ (debugged (.parked .commit 0) id).my.stopsNow = false ∧
    (debugged (.parked .commit 0) id).my.isStopped = false ∧ (debugged .running id).myCore.csr.dm[0].getLsbD 63 = false ∧
    (csrs (fun c => { c with txbody := true }) (debugged .running id)).my.csr.txbody = true ∧
    (debugged (.stopped 0) id).my.run = .stopped 0 ∧ (0 : Fin 3) ≠ 2 ∧
    (∀ d, (stepped.ctx 0 d).isStopped = true ∨ (stepped.ctx 0 d).run = .idle) ∧ (stepped.stepBack 0 0).isSome = true ∧
    stepped.my.aux.hist = ⟨4, 0, 0, [0], false⟩ :: [] ∧ stepped.myCore.logAt 0 = some ⟨.reg 0 0 5 0, 77⟩ ∧
    stepped.myCore.overwritten 0 0 ⟨.reg 0 0 5 0, 77⟩ = false ∧ ((debugged (.stopped 0) id).stepBack 0 0).isNone = true ∧
    (debugged (.stopped 0) id).my.aux.hist = [] ∧ csrRights 0x11F = some ⟨.rw, .rw⟩ ∧
    ((debugged .running id).dread 0 0 .x 32).isNone = true ∧ (at_cycle 1800 base).myCore.trace.rated < (at_cycle 1800 base).now / 1000 := by
  decide +kernel

theorem test_stepBack : (stepped.stepBack 0 0).map (fun t => (t.my.pc, t.x 5)) = some (4, 77) := by decide +kernel

def mgmt (f : Mgmt → Mgmt) : State := let s := hosted State.reset; { s with mg := f s.mg }

theorem witness_ModuleEvents :
    (mgmt fun m => { m with power := false }).mg.power = false ∧ State.reset.mg.power = true ∧
    (let s := mgmt fun m => { m with trip := some 0 }; s.mg.trip = some 0 ∧ s.allStopped = true) ∧
    0 + 50000 ≤ (at_cycle 90000 (mgmt id)).now ∧ 1520 ≤ (0x05F0 : BitVec 16).toNat ∧ State.reset.ports[(0 : Fin 2)].notices.length < 256 ∧
    (State.reset.sh.held.any fun h => h.isNotice 0) = false ∧ State.reset.mg.trip = none ∧ (base.part 0).live = true ∧
    State.reset.mg.state = .selftest ∧ (mgmt fun m => { m with state := .verify }).mg.state = .verify ∧
    State.reset.verify 0x5FF0000000 = 1 ∧ (mgmt id).portUp 0 = true ∧ (mgmt fun m => { m with state := .waitfw }).mg.state = .waitfw ∧
    (mgmt fun m => { m with state := .ready }).mg.state ≠ .waitfw ∧ (64 : Nat) < 0x5FF0000000 ∧
    (mgmt fun m => { m with leafctr := 2 ^ 20 - 1 }).mg.leafctr < 2 ^ 20 ∧ 2 ^ 20 ≤ (mgmt fun m => { m with leafctr := 2 ^ 20 }).mg.leafctr ∧
    counterOf 0 = some (.core 0 0) ∧ counterOf 15 = none ∧ counterOf (at_ 511 16 ||| 3) = some (.kiln 511) ∧
    (1 : Word).getLsbD 0 = true ∧ (0x201 : Nat) % 8 ≠ 0 ∧ (1 : Word).toNat % 256 = 1 := by decide +kernel
theorem witness_ModuleEvents_firmware : FirmwareAt 0x5FF0000000 ∧ FirmwareAt 0x5FFFFF0000 ∧ ¬ FirmwareAt 0x5FF0000040 ∧
    ¬ FirmwareAt 0x6000000000 := by unfold FirmwareAt; decide
/-- An image passes where its signature verifies under the root key, whose bytes are left open (log entry 6). -/
theorem witness_ModuleEvents_verified :
    let s := (mgmt id).setMem ((State.reset.sh.mem.write 0 8 0x4B595237).write 8 8 64)
    s.signed 0 64 = true → s.mg.svnmin = 0 → s.verify 0 = 0 := by
  intro s h hv
  have h0 : s.sh.mem.read 0 8 = 0x4B595237 := by decide +kernel
  have h1 : s.sh.mem.read 8 8 = 64 := by decide +kernel
  have h2 : s.sh.mem.read 16 8 = 0 := by decide +kernel
  have h3 : s.sh.mem.read 24 40 = 0 := by decide +kernel
  simp [State.verify, h0, h1, h2, h3, h, hv]

/-- The memory is canonical and a step is made. -/
theorem witness_StepKeepsCanonical : base.sh.mem.wf = true ∧ (match step base with | .next _ => true | _ => false) = true := by decide +kernel

theorem witness_DecodeEncode : encode (.add ⟨31, 1, 2⟩) ≠ [] ∧ (Instr.add ⟨31, 1, 2⟩).wf = true ∧
    (Instr.vld 17 (.addr ⟨2, -3⟩) ⟨some .f32, 1⟩).wf = true := by decide

theorem test_encode : encode (.addi ⟨3, 3, -300⟩) = [0xF9ED, 0x2834] ∧ encode (.remu ⟨25, 22, 3⟩) = [0xFB58, 0x1F93] := by decide

/-- `addi x3, x3, -300` at the PC of core 0. -/
def adding : State := State.reset.withFetchWord 32 0x2834F9ED
theorem witness_StepRunsDecoded :
    (decode (adding.wordsAt 0 (adding.ctx 0 0).pc 5)).toOption = some (.addi ⟨3, 3, -300⟩, 2) ∧ adding.sh.ue = [] ∧
    adding.moves = [.issue 0] ∧ (adding.chosen 0 (adding.selectable 0)).map (·.1) = some 0 ∧ (adding.waitEnds 0 0).isNone = true ∧
    adding.awake 0 0 = true ∧ (adding.executing 0 0 [0xF9ED, 0x2834] none).unlocked (.addi ⟨3, 3, -300⟩) = true ∧
    (adding.executing 0 0 [0xF9ED, 0x2834] none).hazard (.addi ⟨3, 3, -300⟩) = none := by decide +kernel
theorem witness_StepRunsDecoded_other :
    (let s := State.reset.withFetchWord 16 1
     ((decode (s.wordsAt 0 (s.ctx 0 0).pc 5)).toOption).isNone = true ∧ s.moves = [.issue 0]) ∧
    ¬ (adding.moves = []) ∧ 2 ≤ State.reset.moves.length := by decide +kernel

/-- A step from a placed word runs it. -/
theorem test_step : (match step adding with | .next t => some (t.x 3, t.my.pc) | _ => none) = some (-300, 4) := by decide +kernel

theorem witness_NothingStops : (match step (mgmt fun m => { m with power := false }) with | .fault .poweredOff => true | _ => false) = true ∧
    (mgmt fun m => { m with power := false }).m.inputs = [] := by decide +kernel

theorem witness_RegisterFrame :
    regOnly (.add ⟨3, 1, 2⟩) = some (some 3, none, none) ∧ (after (.add ⟨3, 1, 2⟩) base).map (·.m.fate) = some .retired ∧
    regOnly (.vand ⟨3, 1, 2, ⟨none, 0⟩⟩) = some (none, some 3, none) ∧
    (after (.vand ⟨3, 1, 2, ⟨none, 0⟩⟩) base).map (·.m.fate) = some .retired ∧
    (after (.vpmov (.not 3 1) 0) base).map (·.m.fate) = some .retired := by decide +kernel

theorem witness_LoadStoreFrame :
    (after (.ldd 1 (.addr ⟨2, 0⟩)) (regs 5 (own 0x100) 0)).map (·.m.fate) = some .retired ∧
    (after (.lda 1 ⟨2, 0⟩) (regs 5 (own 0x100) 0)).map (·.m.fate) = some .retired ∧
    (after (.std 1 (.addr ⟨2, 0⟩)) (regs 5 (own 0x100) 0)).map (·.m.fate) = some .retired ∧
    (after (.stl 1 ⟨2, 0⟩) (regs 5 (own 0x100) 0)).map (·.m.fate) = some .retired ∧
    (after (.zln ⟨2, 0⟩) (regs 5 (own 0x100) 0)).map (·.m.fate) = some .retired ∧
    (after (.std 1 (.addr ⟨2, 0⟩)) ((hod true).upd fun x => x.putX 2 0x38)).map (·.m.fate) = some .retired := by decide +kernel

theorem witness_Semaphores :
    (hosted base).portUp 0 = true ∧ (hosted base).sems[(5 : Fin 64)] = 0 ∧ (hosted base).sems[(0 : Fin 64)] = Fin.ofNat 3 ((0 : Fin 2).val + 1) ∧
    ({ hosted base with sems := (hosted base).sems.set 5 2 } : State).sems[(5 : Fin 64)] ≠ 0 ∧
    (mgmt fun m => { m with power := false }).mg.power = false := by decide +kernel

theorem witness_TieBit : (hosted base).portUp 0 = true ∧ (hosted base).tie = 0 ∧ ({ hosted base with tie := 1 } : State).tie ≠ 0 := by
  decide +kernel

theorem witness_FirmwareControl :
    (let s : State := { mgmt fun m => { m with state := .failed } with ports := Vector.replicate 2 { HostPort.init with up := true } }
     s.portUp 0 = true ∧ s.portUp (0 + 1) = true ∧ s.mg.state = .failed ∧ s.tie = 0) ∧ (mgmt id).mg.state ≠ .waitfw ∧
    (mgmt id).mg.state ≠ .failed := by decide +kernel

theorem witness_SelectAndAddress : base.Room 1 ∧ (15 : Reg).val < 16 ∧
    gives (.csel ⟨1, 2, 3⟩) (regs 1 20 30) 1 = some 20 ∧ gives (.csel ⟨1, 2, 3⟩) (regs 0 20 30) 1 = some 30 := by decide +kernel

/-- Contexts 0 and 1 ready, the one of them having yielded in the cycle before. -/
def yielded (two : Bool) : State :=
  at_cycle 1 (mine (fun co => { co with
    ctxs := if two then co.ctxs.set 1 { Ctx.init with run := .running } else co.ctxs, sel := { co.sel with yielded := some (0, 0) } }) base)
theorem witness_YieldStandsBack :
    (yielded true).myCore.sel.yielded = some (0, 0) ∧ 0 + 1 = (yielded true).cycle ∧ 1 ∈ (yielded true).readyCtxs 0 ∧
    (yielded true).selectable 0 = [1] ∧ (∀ d ∈ (yielded false).readyCtxs 0, d = 0) ∧ (yielded false).selectable 0 = [0] ∧
    0 + 1 ≠ (at_cycle 5 (yielded true)).cycle ∧ (at_cycle 5 (yielded true)).selectable 0 = [0, 1] ∧
    ((yielded true).chosen 0 [0, 1]).isSome = true := by decide +kernel

theorem witness_DecodeEncodeInteger : integerOps.length = 26 ∧ unaryOps.length = 6 ∧ (15 : Reg).val < 16 ∧ ¬ (16 : Reg).val < 16 := by decide

/-! ## Further hypotheses of the events -/

/-- A message of port A that finds the partition stopped. -/
theorem witness_MessageEvents_turned :
    let r := { req (am false) with host := some 0 }
    let s := sent [.req r ⟨0, 0⟩ 0] (part .stopped id)
    s.Due 0 r ⟨0, 0⟩ 0 0 ∧ s.denied 0 ⟨0, 0⟩ = false ∧ s.turnedAway r = true ∧ (msg (am false) 0).turnedAway (req (am false)) = false := by
  refine ⟨?_, by decide +kernel⟩
  constructor <;> decide +kernel

/-- With a transaction ready and three idle contexts a message starts the second of them; with no context idle, none. -/
theorem witness_MessageEvents_contexts :
    base.myCore.txnWaiting = 0 ∧ base.myCore.msgCtx = some 1 ∧ (attempts [attempt .ready]).myCore.msgCtx = some 2 ∧
    (busy base).myCore.msgCtx = none ∧ placed (busy base).myCore.rq .spill < (busy base).myCore.spillMax ∧
    (noSpill (busy base)).myCore.spillMax ≤ placed (noSpill (busy base)).myCore.rq .spill ∧
    (held (.notice 0 7) base).sh.held[0]? = some ⟨.notice 0 7, 0, 0⟩ ∧ base.ports[(0 : Fin 2)].notices.length < 256 ∧
    (({ base with sh := { base.sh with ue := [(Loc.local_ 0 0x100) / 8] } } : State).handle 0 (own 0x20)).toOption = none := by
  decide +kernel

/-- A posted operation of another package's stopped partition is turned away as the shut rectangle is. -/
theorem witness_PostedEvents_turns :
    (msg fstOp 0).engineTurn (req fstOp) ⟨0, 0⟩ = true ∧ (msg loadOp 0).shut (req loadOp) ⟨0, 0⟩ = false ∧
    (msg loadOp 2000).shut (req loadOp) ⟨0, 2000⟩ = true ∧ (part .stopping id |>.part 0).state = .stopping ∧
    ((debugOn (outs5 base)).debug 0 = true ∧ 264 < (debugOn (outs5 base)).myCore.logFree) := by decide +kernel

/-- A copy of 64 bytes moves in one message, a code fetch of a limit of 128 lines too; with a limit of one line the fetch does
not end. -/
theorem witness_TransferEvents_messages :
    (copies true).OneMessage ((copies true).sh.copies.headD ⟨0, req fstOp, copyTo 0 0, [], 0, 0, 0, [], [], 0, 0, []⟩) ∧
    ((copies true).sh.copies.map fun c => ((copies true).copyStep c c.limit).2.ended) = [true] ∧
    (fetches.sh.fetches.map fun f => (fetches.fetchStep { f with limit := 128 } 128).2.moved) = [0x2000] ∧
    (fetches.sh.fetches.map fun f => (fetches.fetchStep { f with limit := 1 } 1).2.moved) = [0x40] := by
  refine ⟨?_, by decide +kernel⟩
  constructor <;> decide +kernel

/-- A far end that a granted lock covers, and one through a window that is not enabled. -/
theorem witness_TransferEvents_refused :
    (let x := copyTo 0x100000 (own 0x400)
     let s := (paged base).updCore 4096 fun co => { co with lkm := { co.lkm with queue := [{ lockReq true none with tile := 0x100, granted := true }] } }
     ((x.ends.filter fun e => !isSlice e.a).any fun e => s.farConflict 0 e) = true) ∧
    (let x := copyTo 0x9FF0000000100200 (own 0x400)
     (match base.registerEnds (req (.copy x)) x.win x.mwin x.ends with | .window _ => true | _ => false) = true) ∧
    (cmd .zero (some 0) (some 0x21) false).failure = some 0x21 ∧ ((cmd .zero (some 0) none true).failure = some 0x22) ∧
    (cmd .zero (some 0) none false).failure = none := by decide +kernel

/-- No restart waits in the lane, an uncorrectable word stands in it, a host's descriptor is turned away, a portion of three
grants of 4 KiB in all. -/
theorem witness_SequencerEvents_lane :
    (base.part 0).lane.ue = false ∧ (base.part 0).lane.restarts.length = 0 ∧
    (let r := { req (.tsub (.named (own 0x801)) none) with host := some 0 }
     let s := sent [.req r ⟨0, 0⟩ 0] base
     s.tsubTurn 0 r = true ∧ s.hostTurn 0 r ⟨0, 0⟩ = true ∧ (s.captured r (.named (own 0x801))).isNone = true) ∧
    (base.core 0).lkm.queue.length < mgrSize 0 ∧ (base.core 0).lkm.ue = false ∧ (aget (attempt .ready).part_ 0).getD 0 + 0x1000 = 0x1000 ∧
    (msg (.trecon (own 0x800) 0x8010000000003000) 0).shut (req (.trecon (own 0x800) 0x8010000000003000)) ⟨0, 0⟩ = false ∧
    ((twoPackages base).owner 0x8010000000003000).dev ≠ base.device := by decide +kernel

theorem witness_DispatchEvents_more :
    (sent [.done 0 5 true] base).Carries 0 (.done 0 5 true) ∧ (sent [.done 0 5 false] base).Carries 0 (.done 0 5 false) ∧
    ((base.core 0).lkm.collect 3 5 (List.replicate 0x1000 (0, false))).length = 0x1000 ∧
    ((base.core 0).lkm.collect 3 5 [(0, false)]).length < 0x1000 ∧ (1 : BitVec 8).toNat ∈ (member.part 0).others ∧
    ([] : List Nat).length + 1 = (member.part 0).others.length ∧ (at_cycle 200000 member).silent 0 1 = true ∧
    ((auxs (fun a => { a with dbg := ⟨some 2, none, false⟩ }) base).my.aux.dbg.want = some 2) := by
  unfold State.Carries; decide +kernel

theorem witness_PartitionEvents_clauses :
    131056 % 65536 + 16 ≤ 65536 ∧ 65536 < 131056 % 65536 + 64 ∧ (part .resuming id |>.part 0).tr ≤ base.now ∧
    (base.core 0).flyUe = [] ∧ (noSpill base).myCore.spillLen = 0 ∧ (0 : Nat) < localSize 0 ∧
    ((part .saved fun p => { p with fatal := true }).part 0).live = false := by decide +kernel

theorem witness_HostCommands_words :
    (hosted base).portUp 0 = true ∧ (3 : Nat) < 2 ^ 64 ∧ (BitVec.ofNat 2048 (4 + 0 * 256 + 3 * 2 ^ 64)).toNat % 256 = 4 ∧
    (BitVec.ofNat 2048 11).toNat % 256 = 11 := by decide +kernel
/-- RESUME of partition 0 at TR = 5,000 ns, as the port writes it: the partition is ACTIVE, so status 1 (14 R362). -/
theorem test_command : ((hosted base).access 0 true 0x1000 256 (BitVec.ofNat 2048 (4 + 5000 * 2 ^ 64))).map (·.ports[(0 : Fin 2)].last) =
    some ⟨false, 1, 0⟩ := by decide +kernel

theorem witness_HostRecords_aperture :
    (3 : Nat) ≠ 8 ∧ 0x3200 ≤ 0x4000 ∧ 0x11000 ≤ 0x12000 ∧ 6 ≤ bits (dataWord (BitVec.ofNat 2048 (6 * 2 ^ 60)) 0) 63 60 ∧
    ((hosted base).mgmtRead 0 0x000).isSome = true ∧
    (let s := hosted (twoPackages base); (s.owner 0x8010000000000020).dev ≠ s.device ∧
      s.hopFree .message (rec0 0x8010000000000020) = false) ∧ (hosted base).hopFree .message (rec0 0x8000000000000020) = true := by
  decide +kernel

theorem witness_LinkEvents_more :
    (settled 3 [(0, 0x20000)]).isSome = true ∧ settled 3 [(0x20000, 0x30000)] = none ∧
    (port3 (fun x => { x with fails := 16 }) base).slaup[(3 : Fin 18)].dies 0 = true ∧
    (let s : State := { base with dom := { base.dom with deaths := [3, 5] } }
     s.dom.standby 3 = some 16 ∧ s.dom.standby 5 = some 17 ∧ s.slaup[(16 : Fin 18)].dead = false ∧
     s.slaup[(16 : Fin 18)].standbyFor = none) ∧
    (let m : Msg := .req (req (am false)) ⟨1, 0⟩ 0
     let s := sent [m] (twoPackages base)
     s.msg 0 = some m ∧ s.drained m = true ∧ s.unfrozen m = true ∧
     s.lost m = true) ∧
    (let m : Msg := .away 1 0 (.ack 0 0 3 0 false false 4)
     let s := sent [m] (port3 (fun x => { x with ctl := x.ctl.set 1 ⟨0, 128, 0, 0⟩ }) base)
     s.msg 0 = some m ∧ s.slaup[(3 : Fin 18)].hasCredit m.channel m.ndata = false) := by decide +kernel

theorem witness_ModuleEvents_access :
    (BitVec.ofNat 64 (0 * 256) : Word) = 0 ∧ (1 : Word).toNat % 256 = 1 ∧
    (Input.row (.semRead 0 5 8)).tied = some (0, 0) ∧ (Input.row (.fwctlWrite 1 0 8)).tied = some ((0 : Fin 2) + 1, 1) := by decide +kernel

/-! ## Hypotheses of the widened statements -/

theorem witness_CsrReadsBack_fields :
    1 ≤ (1 : Fin 8).val ∧ (1 : Fin 8).val ≤ 5 ∧ (6 : Fin 8).val = 6 ∧ (7 : Fin 8).val = 7 ∧ (0x00D : Fin 512) ∈ readOnlyCsrs := by decide

/-- A store and a load of 2 bytes at the end of a word, of 8 with a word in error in the way. -/
theorem witness_StoreThenLoad_widths :
    base.PlainOwn (own 6) 2 ∧ ({ base with sh := { base.sh with ue := [(Loc.local_ 0 8) / 8] } } : State).PlainOwn (own 8) 8 ∧
    base.released = true ∧ (1 : Reg) ≠ 0 ∧ (∃ e ∈ storeTable, ∃ f ∈ loadTable, f.2.2 = e.2 ∧ e.2 = 2) := by
  refine ⟨?_, ?_, by decide +kernel, by decide, ?_⟩
  · constructor <;> decide +kernel
  · constructor <;> decide +kernel
  · exact ⟨(.sth, 2), by simp [storeTable], (.ldh, true, 2), by simp [loadTable], rfl, rfl⟩

/-- Addresses that each check of an access turns away, on a core and on a hod. -/
theorem witness_AccessTraps_formats :
    base.released = true ∧ ¬ base.FormatOk 0x8FF0000100000000 ∧ ¬ base.FormatOk 0x8C00000000000000 ∧ ¬ base.FormatOk 0x0200000000000000 ∧
    base.FormatOk 0x8010000000000000 ∧ base.OutsideDomain 0x8010000000000000 ∧ base.FormatOk (own 0x101) ∧ ¬ base.OutsideDomain (own 0x101) ∧
    base.FormatOk 0x8000000000000101 ∧ ¬ base.OutsideDomain 0x8000000000000101 ∧ base.FormatOk 0x1000 ∧ ¬ base.OutsideDomain 0x1000 := by
  unfold State.FormatOk State.OutsideDomain; and_intros <;> decide +kernel
theorem witness_AccessTraps_places :
    base.LocalTo (own 0x101) ∧ base.LocalTo 0x8000000000000101 ∧ ¬ base.LocalTo 0x1000 ∧ ¬ base.LocalTo 0x8FF0000000100000 ∧
    base.LocalTo 0x9FF0000000000000 ∧ winOf (0x9FF0000000000000 : Word) ≠ 0 ∧ (own 0x101).toNat % 2 ≠ 0 ∧
    (hod false).LocalTo 0x38 ∧ (hod false).LocalTo (own 0x40000) ∧ isHod (hod false).me = true ∧ 0x40000 ≤ offOf (own 0x40000) ∧
    (own 0x40000).toNat % 8 = 0 ∧ isSlice (0x38 : Word) = false := by
  unfold State.LocalTo; and_intros <;> decide +kernel

/-- Special and finite operands of the mathematical functions in bf16: NaN, +∞, −0, 0.25 as a power of two, 3. -/
theorem witness_VectorConvert_math :
    ETy.bf16.fmt.isSome = true ∧
    (∀ f, ETy.bf16.fmt = some f → mathSpecial .bf16 f (fmtValue f 0x7FC0) = some (nanOf .bf16, nanOf .bf16, nanOf .bf16, nanOf .bf16) ∧
      mathSpecial .bf16 f (fmtValue f 0x8000) = some (0xFF80, 0xFF80, 0x3F80, 0xFF80) ∧
      mathSpecial .bf16 f (fmtValue f 0x7F80) = some (0, 0, 0x7F80, 0x7F80) ∧
      (match fmtValue f 0x4040 with | .fin false n e => decide (n ≠ 0 ∧ (ratio n e).1 = 3 * (ratio n e).2) | _ => false) = true ∧
      (match fmtValue f 0x3E80 with | .fin false n _ => decide (n = 2 ^ 7) | _ => false) = true) := by
  refine ⟨rfl, ?_⟩
  intro f h
  cases h
  decide +kernel

/-- A refusal that is not reported, a region that is irrevocable and not sealed, a hod. -/
def refused (s : State) : State := auxs (fun a => { a with refMask := 5, refCount := 2, refPc := some 4 }) s
theorem witness_Synchronization_refused :
    ((refused base).fenceDone 0 0 .dom && (refused base).enginesDone 0 0 .dom) = true ∧ (refused base).my.aux.refPc = some 4 ∧
    isHod (hod false).me = true ∧ (base.myCore.csr.dm[(0 : Fin 4)]).getLsbD 63 = false ∧ (0 : BitVec 8) = 0 := by decide +kernel
theorem witness_Synchronization_regions :
    (let s := mine (fun co => { co with bars := co.bars.set 0 none }) (barrier true none)
     let b := csrs (fun c => { c with txbody := true }) s
     let r := fun (f : Frame) => auxs (fun a => { a with frames := [f] }) s
     isHod b.me = false ∧ (b.myCore.csr.dm[(0 : Fin 4)]).getLsbD 63 = true ∧ inRect (b.myCore.rect 0) b.me.val = true ∧
     b.my.csr.txbody = true ∧ (r (frame false false)).my.csr.txbody = false ∧ (frame false false).irv = false ∧
     (frame true true).irv = true ∧ (frame true true).isSealed = true ∧ (frame true false).isSealed = false ∧
     (r (frame true false)).LogRoom 1 ∧ s.my.aux.deferred = [] ∧ (barrier true (some 0)).myCore.bars[(0 : Fin 4)] ≠ none) := by
  decide +kernel
theorem witness_Synchronization_arrives :
    ∀ f ∈ [frame true true, frame true false],
      (auxs (fun a => { a with frames := [f] }) (mine (fun co => { co with bars := co.bars.set 0 none }) (barrier true none))).Arrives 0 true := by
  intro f hf
  simp only [List.mem_cons, List.not_mem_nil, or_false] at hf
  rcases hf with rfl | rfl <;> · constructor <;> decide +kernel

theorem witness_TransactionInstructions_reads :
    txnState.checkReads [(own 0x800, .raw [(0x800, 448)] (0x20 + (own 0x4000).toNat * 2 ^ 192))] = .ok () ∧
    (∀ w ∈ txnState.descWords (own 0x800), txnState.badRaw [w] = none) := ⟨ok_of (by decide +kernel), by decide +kernel⟩

theorem witness_RegionsAndDebug_inject :
    base.FormatOk (own 0x18) ∧ ¬ base.OutsideDomain (own 0x18) := by unfold State.FormatOk State.OutsideDomain; decide +kernel

/-- An entry for a core of the partition and for one outside it, answers to a port. -/
theorem witness_MessageEvents_entries :
    (sent [.ent ⟨0, 0⟩ 0 false 0] base).Carries 0 (.ent ⟨0, 0⟩ 0 false 0) ∧ Owner.local_ ⟨0, 0⟩ base = some 0 ∧ base.inSpan 0 ⟨0, 0⟩ = true ∧
    base.inSpan 0 ⟨0, 2000⟩ = false ∧ (sent [.host 0 3 none] base).Carries 0 (.host 0 3 none) ∧
    (sent [.host 0 3 (some 7)] base).Carries 0 (.host 0 3 (some 7)) := by unfold State.Carries; decide +kernel

/-- A deferred copy whose ends can be registered, whose ranges are locked, whose window is not enabled. -/
def deferredCopy (x : CopyDesc) (s : State) : State := auxs (fun a => { a with deferred := [⟨0, req (.copy x), 64⟩] }) s
theorem witness_PostedEvents_copies :
    (let x := copyTo other (own 0x400)
     let s := deferredCopy x base
     let r := { req (.copy x) with id := s.m.nextId }
     let v := (s.freshId.2.updCtx 0 0 fun x => { x with aux := { x.aux with deferred := [] } }).as_ 0 0
     let bad := fun e : End => v.endHere e && (v.endRange 0 e (v.myCore.win (winOf e.a))).isNone
     x.ends.find? bad = none ∧ v.ownRanges x.ends = .ok [(0x400, 0x440, true)] ∧ r.op = .copy x ∧ s.myCore.injq.length < 16) ∧
    (let x := copyTo other (own 0x400)
     let v := (locked base).as_ 0 0
     (v.ownRanges { x with dst := own 0x20 }.ends).toOption = none) ∧
    (let x := copyTo other 0x9FF0000000000000
     let v := base.as_ 0 0
     (x.ends.find? fun e => v.endHere e && (v.endRange 0 e (v.myCore.win (winOf e.a))).isNone).isSome = true) ∧
    (∀ x, fstOp ≠ .copy x) := by
  refine ⟨⟨by decide +kernel, ok_of (by decide +kernel), rfl, by decide +kernel⟩, by decide +kernel, by decide +kernel, ?_⟩
  intro x h; cases h

theorem witness_PostedEvents_atomics :
    (msg amoOp 0).turnedAway (req amoOp) = false ∧
    (let r := { req amoOp with dev := 1 }
     let s := sent [.req r ⟨0, 0⟩ 0] (part .stopped id)
     s.turnedAway r = true) ∧
    (∀ q ∈ (engineState.engine 0).ports, engineState.frozenAtomic q.2.1 q.2.2.1 = false) := by decide +kernel

/-- A copy of 192 bytes whose lines are whole, two messages of one line in. -/
def evenCopy (n : Nat) : Copy :=
  let d := { copyTo 0x8FF0000000100200 (own 0x400) with rows := 1, rlen := 192 }
  ⟨3, req (.copy d), d, [], 0, 1, n, [], [], n, 0, []⟩
theorem witness_TransferEvents_even : (evenCopy 0).Even ∧ (evenCopy 128).Even ∧ 1 ≤ (1 : Nat) ∧ (64 : Nat) ≤ 64 := by
  refine ⟨?_, ?_, by decide, by decide⟩ <;> · constructor <;> decide +kernel
/-- A destination that begins within a line: the first message ends at its boundary, 40 bytes in. -/
def oddCopy : Copy :=
  let d := { copyTo 0x8FF0000000100200 (own 0x418) with rows := 1, rlen := 128 }
  ⟨3, req (.copy d), d, [], 0, 1, 0, [], [], 0, 0, []⟩
theorem test_lineCut : (base.copyStep oddCopy 1).2.put = 40 ∧ (base.copyStep (evenCopy 0) 1).2.put = 64 := by decide +kernel
theorem witness_TransferEvents_fetchRequest :
    (let op := ROp.cfetch other 1 2
     let s := msg op 0
     s.Carries 0 (.req (req op) ⟨0, 0⟩ 0) ∧ (s.part 0).live = true ∧
     ((s.unpost 0).transEnds (req op) true (([fetchEnd other]).filter fun e => !isSlice e.a)).2.toOption = some [] ∧
     ((([fetchEnd other]).filter fun e => !isSlice e.a).any fun e => (s.unpost 0).farConflict 0 e) = false ∧
     (match (s.unpost 0).registerEnds (req op) none none [fetchEnd other] with | .done .. => true | _ => false) = true ∧
     (match (s.updCore 1 fun co => { co with ranges := [⟨0x200, 0x240, true, .copy 9, 1, none⟩] }).registerEnds (req op) none none
       [fetchEnd other] with | .refused => true | _ => false) = true ∧
     (match s.registerEnds (req op) none none [fetchEnd 0x9FF0000000100200] with | .window _ => true | _ => false) = true) ∧
    ((base.transEnds (req (.cfetch 0x100000 1 2)) true [fetchEnd 0x100000]).2.toOption).isNone = true := by
  unfold State.Carries; decide +kernel

theorem witness_TransferEvents_flaws :
    (inKiln (cmd .zero (some 0) none false)).kilnFailure 0 (cmd .zero (some 0) none false) = none ∧
    (inKiln (cmd .zero (some 0) none true)).kilnFailure 0 (cmd .zero (some 0) none true) = some 0x22 ∧
    (cmd .zero (some 0) none false).failsAt = (0, 0) := by decide +kernel

theorem witness_WaitEvents_refused :
    (refused (parked (.fence .dom))).my.aux.refPc ≠ none ∧ (refused (parked (.fence .dom))).my.run = .parked (.fence .dom) 6 ∧
    (refused (parked (.fence .dom))).fenceDone 0 0 .dom = true ∧ 0 < (barrier true (some 0)).my.g 1 ∧
    (rectKeys ((barrier true none).myCore.rect 0)).Nodup ∧ (rectKeys ((barrier true none).myCore.rect 0))[0]? = some 0 := by decide +kernel
/-- R273 for the rectangle of `test_sweep`: Tc is 16, and row 0's first core is released 1 + 2 cycles later. -/
theorem test_sweepTc : sweepTc [] 2 3 (fun _ _ => 10) = 16 ∧ hops [] 1 (16 + 1) = 19 := by decide +kernel

theorem witness_SequencerEvents_turned :
    (let r := { req tsubOp with host := some 0 }
     let s := sent [.req r ⟨0, 0⟩ 0] (part .stopped id)
     s.Carries 0 (.req r ⟨0, 0⟩ 0) ∧ r.op = .tsub txn none ∧ s.turnedAway r = true) ∧
    (sent [.rounds 0 1 2 9] base).Carries 0 (.rounds 0 1 2 9) ∧ (base.part 0).has 0 = true ∧ (base.part 0).has 2000 = false ∧
    (msg tsubOp 0).turnedAway (req tsubOp) = false := by unfold State.Carries; decide +kernel

theorem witness_DispatchEvents_reset :
    ((attempts [attempt (.committing none 0 0)]).myCore.attempts.find? fun a => match a.stage with
      | .committing _ 0 0 => true
      | _ => false) = some (attempt (.committing none 0 0)) ∧ (attempt (.committing none 0 0)).stage = .committing none 0 0 ∧
    (1 : BitVec 8).toNat ∉ (member.part 0).lane.telling := by decide +kernel

theorem witness_PartitionEvents_restored :
    (let s := part .resuming fun p => { p with restore := some [0x100000] }
     (s.part 0).restore = some [0x100000] ∧ (s.restored 0).isNone = true) ∧
    (let s := part .resuming id
     (s.part 0).tr ≤ s.now ∧ (s.restored 0).isSome = true) := by decide +kernel
theorem witness_PartitionEvents_sound :
    ∀ j ∈ ((part .resuming id).part 0).keys, ∀ e ∈ ((part .resuming id).core j).flyUe, e.2 ≠ 9 := fun j hj =>
  of_decide_eq_true (List.all_eq_true.mp (show (((part .resuming id).part 0).keys.all fun j =>
    decide (∀ e ∈ ((part .resuming id).core j).flyUe, e.2 ≠ 9)) = true by decide +kernel) j hj)

/-- The pages of an area of one page are mapped, those of a longer one are not. -/
theorem witness_HostCommands_pages :
    ((paged base).savePages 0 0 0x10000).2 = some [0x100000] ∧ ((paged base).savePages 0 0 0x20000).2 = none := by decide +kernel

theorem witness_LinkEvents_flits :
    (port3 id base).slaup[(3 : Fin 18)].up = true ∧ base.dom.joined = false ∧
    (let m : Msg := .away 1 0 (.ack 0 0 3 0 false false 4)
     let s := { sent [m] base with dom := { base.dom with draining := some (0, 0) } }
     s.sh.fabric.filter s.drained = [m] ∧ s.unfrozen m = true ∧ s.lost m = true ∧ m.keeps = true) ∧
    (let s : State := { base with dom := { base.dom with draining := some (0, 0) } }
     s.sh.fabric.filter s.drained = [] ∧ 0 ≤ s.now) ∧
    (let m : Msg := .away 1 0 (.portion 0 1 0 [])
     let s := sent [m] (part .stopped id)
     s.sh.fabric.filter s.drained = [m] ∧ s.unfrozen m = false) := by decide +kernel

/-- A context stopped at a `BREAK`. -/
def atBrk : State := { debugged (.stopped 0) id with sh := { base.sh with mem := base.sh.mem.write (Loc.imem 0 0) 2 0x0700 } }
theorem witness_DebugEvents_break :
    atBrk.atBreak 0 0 = some 1 ∧ atBrk.my.run = .stopped 0 ∧ atBrk.slaved 0 0 = false ∧ atBrk.my.faulty = false ∧
    (debugged (.stopped 0) id).atBreak 0 0 = none ∧ (debugged .running id).my.csr.txbody = false ∧
    (debugged .running id).my.aux.recon = none ∧ (debugged .running fun a => { a with recon := some true }).my.aux.recon.isSome = true ∧
    stepped.myCore.log[0]? = some ⟨.reg 0 0 5 0, 77⟩ ∧ stepped.my.run = .stopped 0 := by decide +kernel
theorem witness_DebugEvents_break_debugs : atBrk.Debugs 0 0 0 := by
  constructor <;> first | decide +kernel | (constructor <;> decide +kernel)
theorem test_dgoSkip : (after (.dgo 0 0 0 1 true) atBrk).map (fun t => (t.my.pc, t.my.run, t.my.aux.hist.length)) = some (2, .running, 1) := by
  decide +kernel

/-! ## Hypotheses of what the third review added -/

/-- Core 1 follows core 0 and is due a `J` at PC 8; its neighbour's context runs. -/
def follows : State :=
  ({ base with sh := { base.sh with runs := [⟨0, 2, 1, [(0, 8, [0xC7FC], true)], [], [], []⟩] } } : State).updCtx 1 0 fun x =>
    { x with run := .running }
theorem witness_ControlTransfers_follower :
    follows.FollowerIssues ⟨0, 2, 1, [(0, 8, [0xC7FC], true)], [], [], []⟩ 1 8 [0xC7FC] true (.j (-4)) := by
  constructor <;> first | decide +kernel | exact ⟨1, ok_of (by decide +kernel)⟩
theorem test_follower : (match follows.issueDue ⟨0, 2, 1, [(0, 8, [0xC7FC], true)], [], [], []⟩ 1 with
    | some (.next t) => some (t.m.fate, (t.ctx 1 0).pc, (t.ctx 1 0).run)
    | _ => none) = some (.retired, 8, .running) := by decide +kernel

/-- Window 3 decodes e4m3 to bf16 from 0x200; its element 0 is 1.0. -/
def windowed (en : Bool) : State :=
  poke 0x200 1 0x38 (mine (fun co => { co with csr := { co.csr with
    win := co.csr.win.set 3 ((if en then at_ 1 63 else 0) ||| at_ ETy.e4m3.code 59 ||| at_ ETy.bf16.code 55 ||| 0x200) } })
    (regs 0 0xBFF0000000000000 0))
theorem witness_ScalarLoads_window :
    (let ad := (windowed true).x 2
     isSlice ad = true ∧ winOf ad = 3 ∧ bits ((windowed true).myCore.win (winOf ad)) 62 59 = ETy.e4m3.code ∧
     bits ((windowed true).myCore.win (winOf ad)) 58 55 = ETy.bf16.code ∧
     ((windowed true).loadPiece ad 2).toOption.map (fun p => (p.raws, (windowed true).pieceVal p)) = some ([(0x200, 1)], 0x3F80) ∧
     ((windowed false).myCore.win (winOf ad)).getLsbD 63 = false ∧ ((windowed false).checkAccess false ad 2 2).toOption.isSome = true ∧
     (2, 2) ∈ [(2, 2)]) ∧ WindowPair 3 .e4m3 .bf16 ∧
    windowCode 3 .e4m3 .bf16 ((windowed true).myCore.win 3) ((windowed true).peek 0) 0 = 0x3F80 ∧
    (hod false).farPhys 0x38 false = some 0x40038 ∧ (0x38 : Word).toNat % 0x10000 + 8 ≤ 0x10000 := by
  refine ⟨by decide +kernel, ⟨rfl, rfl⟩, by decide +kernel, by decide +kernel, by decide +kernel⟩

theorem witness_TransactionInstructions_slaved :
    (leads base).slaved (leads base).me (leads base).cc = true ∧ (4 : Int) ≠ 0 ∧
    (let s := auxs (fun a => { a with frames := [{ frame false false with vs := List.replicate 1025 (1, 0) }] }) base
     ∃ f, s.my.aux.frames = [f] ∧ 65536 < s.myCore.poolUsed - f.space + (s.saveItems 0 0 f).space) ∧
    (let s := withStrm { bound with ctx := 1 } (regs 4 0 0); s.strmForeign (s.x 1) = true) ∧
    (let s := mine (fun co => { co with kq := [cmd .zero none none false] }) (regs 1 0 0)
     (s.myCore.kq.any fun d => d.kind.writes && (s.x 1).getLsbD d.t.val) = true) := by
  refine ⟨by decide +kernel, by decide, ⟨_, rfl, by decide +kernel⟩, by decide +kernel, by decide +kernel⟩

theorem witness_MessageEvents_queueDenied :
    (msg (am true) 2000).Due 0 (req (am true)) ⟨0, 2000⟩ 0 2000 ∧ (msg (am true) 2000).denied 0 ⟨0, 2000⟩ = true := by
  refine ⟨?_, by decide +kernel⟩
  constructor <;> decide +kernel

/-- A copy from package 1 of two: its range is to be asked, is asked at the owner, was answered. -/
def away : Word := 0x8010000000000200
def awayCopy : ROp := .copy (copyTo away (own 0x400))
def awayEnd : End := (copyTo away (own 0x400)).srcEnd
def asked (a : Ask) : State :=
  let s := { twoPackages base with sh := { base.sh with asks := [⟨9, req awayCopy, a, none⟩] } }
  { s with sh := { s.sh with fabric := [.told 0 9 .refused] } }
def askedHere (a : Ask) : State :=
  sent [.ask { req (.copy (copyTo other away)) with dev := 1 } ⟨0, 1⟩ 9 a] (twoPackages base)
def awayEngine (got : Option Answer) : State :=
  let s := twoPackages base
  { s with sh := { s.sh with
    copies := [⟨3, req awayCopy, copyTo away (own 0x400), [], 0, 64, 0, [], [], 0, 0, []⟩],
    asks := [⟨8, req awayCopy, .register awayEnd, some (.range 0)⟩, ⟨9, req awayCopy, .read awayEnd 0 0 64, got⟩] } }
theorem witness_TransferEvents_asks :
    (let s := sent [.req (req awayCopy) ⟨0, 0⟩ 0] (twoPackages base)
     s.Carries 0 (.req (req awayCopy) ⟨0, 0⟩ 0) ∧ s.askNext (req awayCopy).tag (copyTo away (own 0x400)).ends = some awayEnd ∧
     s.askNext (req awayCopy).tag [fetchEnd away] = some (fetchEnd away) ∧ s.asking (req awayCopy).tag = false) ∧
    (∀ a, (askedHere a).Carries 0 (.ask { req (.copy (copyTo other away)) with dev := 1 } ⟨0, 1⟩ 9 a)) ∧
    (let a := Ask.register (copyTo other away).srcEnd
     Owner.local_ ⟨0, 1⟩ (askedHere a) = some 1 ∧
     (askedHere a).askTurn 0 { req (.copy (copyTo other away)) with dev := 1 } ⟨0, 1⟩ = true ∧ (askedHere a).denied 0 ⟨0, 1⟩ = false ∧
     (askedHere a).denied 0 ⟨0, 2000⟩ = true ∧ (askedHere a).turnedAway { req (.copy (copyTo other away)) with dev := 1 } = false ∧
     (askedHere a).endRange 1 (copyTo other away).srcEnd 0 = some (0x200, 0x240) ∧
     (askedHere a).conflict 1 (some (.away 1 3)) false 0x200 0x240 = false ∧ (askedHere a).rangesUsed 1 < 32) := by
  refine ⟨by unfold State.Carries; decide +kernel, fun a => by unfold State.Carries; rfl, by decide +kernel⟩
theorem witness_TransferEvents_told :
    (∀ a, (asked a).Carries 0 (.told 0 9 .refused) ∧
      ((asked a).sh.asks.find? fun q => decide (q.n = 9 ∧ q.req.src = 0)) = some ⟨9, req awayCopy, a, none⟩) ∧
    (asked (.read awayEnd 0 0 64)).liveCore 0 = true ∧
    ((awayEngine (some (.bytes (List.replicate 64 (7, false))))).copyPiece 0 1).isNone = true ∧
    (let s := awayEngine (some (.bytes (List.replicate 64 (7, false))))
     (s.sh.copies.map fun c => s.copyCan c c.limit) = [true] ∧
     (s.sh.copies.map fun c => (s.copyStep c c.limit).2.ended) = [true] ∧
     (s.sh.copies.map fun c => (s.copyStep c c.limit).1.sh.mem.read (Loc.local_ 0 0x400) 1) = [7]) ∧
    ((awayEngine none).sh.copies.map fun c => (awayEngine none).copyCan c c.limit) = [false] ∧
    (fetches.sh.fetches.map fun f => fetches.fetchCan f f.limit) = [true] ∧
    ((copies true).writing (3, 0) = false) := by
  refine ⟨fun a => ⟨by unfold State.Carries; rfl, rfl⟩, by decide +kernel, by decide +kernel, by decide +kernel, by decide +kernel,
    by decide +kernel, by decide +kernel⟩

/-- A region whose frame saved v3 twice, peg 2 and tile 1, and two undo entries of a word that it wrote, with one of CSR 0x001. -/
def savedFrame : Frame := { frame false false with vs := [(3, 1), (3, 2)], pegs := some [(2, 9)], tiles := [(1, 5, false)] }
def regionState : State :=
  poke 0x40 8 99 (mine (fun co => Core.push (Core.push (Core.push co ⟨.slice 0 false 0 0 false 0x40, 11⟩) ⟨.csr 0 0x001, 3⟩)
    ⟨.slice 0 false 0 0 false 0x40, 12⟩) (rolling (.region 0x21) (auxs (fun a => { a with frames := [savedFrame] }) base)))
theorem witness_RollbackEvents_undo :
    regionState.my.run = .rolling (.region 0x21) ∧ regionState.my.aux.frames = savedFrame :: [] ∧ regionState.myCore.logUe = [] ∧
    lastOf savedFrame.vs 3 = some 2 ∧ lastOf (savedFrame.pegs.getD []) 2 = some 9 ∧
    lastOf (savedFrame.tiles.filter fun e => !e.2.2) 1 = some (5, false) ∧ regionState.sh.mem.wf = true ∧
    (let es := regionState.myCore.log.take (regionState.myCore.logHead - savedFrame.marker)
     (∀ e ∈ es, e.kind ≠ .csr 0 0x11C) ∧ oldestWord es 0 0x41 = some (0x40, 11) ∧ oldestCsr es 0 0x001 = some 3) ∧
    regionState.sweeping 0 ssFrame.rect ssFrame.level = false := by decide +kernel
theorem test_regionUndo :
    let t := regionState.rollRegion 0 0 { savedFrame with tiles := [] } 0x21
    t.sh.mem.read (Loc.local_ 0 0x40) 8 = 11 ∧ (t.ctx 0 0).v 3 = 2 ∧ (t.ctx 0 0).g 2 = 9 ∧ t.csrRead 0 0 0x001 = 3 ∧
    (t.ctx 0 0).pc = 8 := by decide +kernel
theorem witness_RollbackEvents_kiln :
    (mine (fun co => { co with kq := [cmd .zero none none false] }) (rolling (.region 0x21) inRegion)).my.aux.frames ≠ [] ∧
    (let s := rolling (.superstep 0x20 true) inSuperstep
     s.sweeping 0 ssFrame.rect ssFrame.level = false ∧ ((s.gang 0 ssFrame.rect ssFrame.level).all fun e => (s.ctx e.1 e.2.1).isRolling) = true) := by
  decide +kernel

theorem witness_SequencerEvents_gone :
    (sent [.grant 0 0 5 0 [] 0 false 0x4000] base).Carries 0 (.grant 0 0 5 0 [] 0 false 0x4000) ∧
    ((base.core 0).attempts.find? fun a => a.key = 5) = none := by unfold State.Carries; decide +kernel

/-- A thermal trip meets a partition that resumes. -/
theorem witness_ModuleEvents_trip :
    1680 ≤ (0x0690 : BitVec 16).toNat ∧ (0x05F0 : BitVec 16).toNat < 1680 ∧ (part .resuming id |>.part 0).state = .resuming ∧
    (part .resuming id).mg.trip = none := by decide +kernel
theorem test_trip :
    (after .thermalTrip (part .resuming id)).map (fun t => ((t.part 0).fatal, (t.part 0).state)) = some (true, .resuming) ∧
    (after (.tempWarning 3 0x0690) base).map (fun t => ((t.part 0).fatal, (t.part 0).state, t.mg.tempmax)) = some (true, .armed, 0x30690) := by
  decide +kernel

/-- An undo entry in error, met by a reverse step and by a read. -/
def errored : State := mine (fun co => { co with logUe := [0] }) stepped
theorem witness_DebugEvents_errors :
    errored.backErrors 0 0 ≠ 0 ∧ stepped.backErrors 0 0 = 0 ∧
    errored.myCore.logUe.contains (errored.myCore.logHead - 1 - 0) = true ∧
    stepped.myCore.logUe.contains (stepped.myCore.logHead - 1 - 0) = false := by decide +kernel

theorem witness_StepRunsDecoded_errors :
    (let s := auxs (fun a => { a with flaw := true }) (State.reset.withFetchWord 16 1)
     (s.ctx 0 0).aux.flaw = true ∧ s.moves = [.issue 0]) ∧ adding.sh.ce = [] := by decide +kernel

/-- SHAKE256 of no bytes (FIPS 202). -/
theorem test_shake256 : ((shake256 []).take 4).map (·.toNat) = [0x46, 0xB9, 0xDD, 0x2B] := by decide +kernel

theorem test_decode_majors :
    reads [0x083A] = some (.add ⟨3, 3, 10⟩, 1) ∧ reads [0x143A] = some (.clz ⟨3, 10⟩, 1) ∧ reads [0x203A] = some (.min ⟨3, 3, 10⟩, 1) ∧
    reads [0xFA16, 0xF805, 0x333A] = some (.lea ⟨3, 5, 10⟩ 2 5, 3) ∧ reads [0xF802, 0x3850] = some (.csrr 5 2, 2) ∧
    reads [0x5025] = some (.vld 2 (.addr ⟨5, 0⟩) ⟨none, 0⟩, 1) ∧ reads [0xFA10, 0x6023] = some (.vand ⟨2, 4, 3, ⟨none, 0⟩⟩, 2) ∧
    reads [0x7023] = some (.vrecip ⟨2, 3, ⟨none, 0⟩⟩, 1) ∧ reads [0x8985] = some (.beqz 3 5, 1) ∧ reads [0x91FF] = some (.bnez 3 (-1), 1) ∧
    reads [0xF9FE, 0xA03A] = some (.beq 3 10 (-2), 2) ∧ reads [0xA81A] = some (.jalr 1 10 0, 1) ∧ reads [0xC7FC] = some (.j (-4), 1) ∧
    reads [0xC810] = some (.jal 16, 1) := by decide

end Sys2Proof.Tests
end

section
/-! Proofs of the scalar statements (04): division (R101), selection and address composition (R104, R105), `YIELD` (R98). -/
namespace Sys2Proof.Machine
open Sys2Proof

/-! ## The three-register functions, and the divider (R93, R100) -/

theorem alu3_room {s : State} (h : s.Room 1) (f : Word → Word → Word) (o : R3) :
    alu3 f o s = .ok (s.wroteX o.a (f (s.x o.t) (s.x o.b))).retire := by
  rw [alu3, State.setX_room h]; rfl

@[simp] theorem State.divides_myCore (s : State) : s.divides.myCore = { s.myCore with divFree := s.cycle + 36 } :=
  State.myCore_updMine s _

@[simp] theorem State.divides_x (s : State) (r : Reg) : s.divides.x r = s.x r := by
  show (s.divides.myCore.ctx s.cc).x r = (s.myCore.ctx s.cc).x r
  rw [State.divides_myCore]; rfl

/-- The divider's time is no part of the undo log. -/
theorem State.divides_room {s : State} {n : Nat} (h : s.Room n) : s.divides.Room n := by
  intro hd
  rw [State.divides_myCore]
  exact h hd

/-- A divide that finds the divider free takes it and writes its result. -/
theorem divide_free {s : State} (h : s.Room 1) (hfree : s.myCore.divFree ≤ s.cycle) (f : Word → Word → Word) (o : R3) :
    divide f o s = .ok (s.divides.wroteX o.a (f (s.x o.t) (s.x o.b))).retire := by
  have halu := alu3_room (State.divides_room h) f o
  simp only [State.divides_x] at halu
  rw [← halu, divide, if_neg (Nat.not_lt.2 hfree)]; rfl

theorem divide_busy {s : State} (hbusy : s.cycle < s.myCore.divFree) (f : Word → Word → Word) (o : R3) :
    divide f o s = .error .stall := by
  rw [divide, if_pos hbusy]; rfl

/-! ## The quotients and remainders (R101) -/

/-- The one quotient out of range wraps: ofInt takes 2^63 to −2^63. -/
theorem divS_eq_table (a b : Word) : divS a b =
    if b = 0 then 0xFFFFFFFFFFFFFFFF else if a = 0x8000000000000000 ∧ b = 0xFFFFFFFFFFFFFFFF then a
      else BitVec.ofInt 64 (Int.tdiv a.toInt b.toInt) := by
  unfold divS
  split
  · rfl
  · split
    next hwrap =>
      obtain ⟨rfl, rfl⟩ := hwrap
      decide
    · rfl

theorem remS_eq_table (a b : Word) : remS a b =
    if b = 0 then a else if a = 0x8000000000000000 ∧ b = 0xFFFFFFFFFFFFFFFF then 0
      else BitVec.ofInt 64 (a.toInt - b.toInt * Int.tdiv a.toInt b.toInt) := by
  unfold remS
  split
  · rfl
  · split
    next hwrap =>
      obtain ⟨rfl, rfl⟩ := hwrap
      decide
    · rw [Int.tmod_def]

theorem remU_eq_table (a b : Word) : remU a b =
    if b = 0 then a else BitVec.ofNat 64 (a.toNat - b.toNat * (a.toNat / b.toNat)) := by
  rw [remU, Nat.mod_eq_sub_mul_div]

/-- Every function of R101's table is executed by `divide` with the result of that table. -/
theorem exec_of_mem_divTable {e : (R3 → Instr) × (Word → Word → Word)} (he : e ∈ divTable) (o : R3) (s : State) :
    exec (e.1 o) s = conclude s (divide e.2 o s) := by
  simp only [divTable, List.mem_cons, List.not_mem_nil, or_false] at he
  obtain rfl | rfl | rfl | rfl := he
  · exact congrArg (fun f => conclude s (divide f o s)) (funext fun a => funext (divS_eq_table a))
  · exact congrArg (fun f => conclude s (divide f o s)) (funext fun a => funext (remS_eq_table a))
  · rfl
  · exact congrArg (fun f => conclude s (divide f o s)) (funext fun a => funext (remU_eq_table a))

/-- Settles O2, by what a divide does with the divider free and taken, and by the equality of the model's functions with
those of R101. -/
theorem divisionResults : Obligations.DivisionResults := by
  unfold Obligations.DivisionResults
  intro s a t b hroom e he
  rw [exec_of_mem_divTable he, Stalls, exec_of_mem_divTable he]
  constructor
  · intro hfree
    rw [divide_free hroom hfree, conclude_ok]
  · intro hbusy
    rw [divide_busy hbusy, conclude_stall]

/-! ## Words of major 6 without prefixes (03 R63 to R70) -/

/-- The major, the function and the register numbers of a word of major 6 (03 R65). -/
theorem majorSix_fields {f a b : Nat} (hf : f < 8) (ha : a < 16) (hb : b < 16) :
    let w := 6 * 2048 + f * 256 + a * 16 + b
    w / 2048 % 32 = 6 ∧ w / 256 % 8 = f ∧ w / 16 % 16 = a ∧ w % 16 = b := by
  intro w; omega

/-- A word that is no prefix ends its chain at once (03 R63). -/
theorem decode_noPrefix {w : Nat} (hw : w / 2048 % 32 ≠ 31) {i : Instr}
    (h : elabChain [w] ⟨[], none, none, false, w⟩ 0 = .ok i) : decode [w] = .ok (i, 1) := by
  simp [decode, parseChain, Chain.start, hw, h]

/-- With no prefix T is A, and RB and the immediate are 0 (03 R67, R70). -/
theorem majorSix_noPrefix_fields {w : Nat} (hmajor : w / 2048 % 32 = 6) (e : Entry) :
    Chain.fields ⟨[], none, none, false, w⟩ e =
      ⟨w / 16 % 16, w % 16, w / 16 % 16, 0, 0, 0, none, 0, 0, w / 16 % 16⟩ := by
  have himm : immValue e.imm 0 0 [] = 0 := by cases e.imm <;> rfl
  have hty : Sys2Proof.etyOf 15 = none := rfl
  simp [Chain.fields, hmajor, isFormW, isFormL, immW0, Nat.mod_one, himm, hty]

/-- A prefix-free word of major 6 is the instruction that its function builds, where the entry takes RB and MB 0. -/
theorem decode_majorSix_noPrefix {f a b : Nat} (hf : f < 8) (ha : a < 16) (hb : b < 16) {e : Entry} {i : Instr}
    (he : entryOf 6 f = some e) (hrb : 0 ∈ e.rb) (hmb : 0 ∈ e.mb)
    (hi : build 6 f false ⟨a, b, a, 0, 0, 0, none, 0, 0, a⟩ = .ok i) :
    decode [6 * 2048 + f * 256 + a * 16 + b] = .ok (i, 1) := by
  obtain ⟨hmajor, hfun, hA, hB⟩ := majorSix_fields hf ha hb
  generalize 6 * 2048 + f * 256 + a * 16 + b = w at *
  have hfields := majorSix_noPrefix_fields hmajor e
  rw [hA, hB] at hfields
  refine decode_noPrefix (by omega) ?_
  simp [elabChain, hmajor, hfun, isFormW, isFormJ, he, hfields, hrb, hmb, hi]

@[simp] theorem regN_val {n : Nat} (r : Fin n) : regN n r.val = .ok r := by simp [regN]

/-- Three register numbers in range are read as the three registers. -/
@[simp] theorem Fields.r3_of_val (a t b : Reg) (rb : Nat) (imm : Int) (nimx : Nat) (ty : Option ETy) (pr mb la : Nat) :
    Fields.r3 ⟨a.val, b.val, t.val, rb, imm, nimx, ty, pr, mb, la⟩ = .ok ⟨a, t, b⟩ := by
  simp only [Fields.r3, regN_val]; rfl

theorem decode_csel_noPrefix {a b : Reg} (ha : a.val < 16) (hb : b.val < 16) :
    decode [6 * 2048 + 2 * 256 + a.val * 16 + b.val] = .ok (.csel ⟨a, a, b⟩, 1) := by
  refine decode_majorSix_noPrefix (e := { t := true }) (by decide) ha hb rfl (by decide) (by decide) ?_
  simp only [build, buildExt, b3, Fields.r3_of_val]
  rfl

theorem decode_lea_noPrefix {a b : Reg} (ha : a.val < 16) (hb : b.val < 16) :
    decode [6 * 2048 + 3 * 256 + a.val * 16 + b.val] = .ok (.lea ⟨a, a, b⟩ 0 0, 1) := by
  refine decode_majorSix_noPrefix (e := { t := true, imm := .signed, rb := [0, 1, 2, 3] }) (by decide) ha hb rfl
    (by decide) (by decide) ?_
  simp only [build, buildExt, Fields.r3_of_val]
  rfl

/-! ## Selection and address composition (R104, R105) -/

theorem csel_givesX {s : State} (h : s.Room 1) (a t b : Reg) :
    GivesX (.csel ⟨a, t, b⟩) s a (if s.x a ≠ 0 then s.x t else s.x b) := by
  rw [GivesX, exec, execCsel, alu3_room h, conclude_ok]

theorem lea_givesX {s : State} (h : s.Room 1) (a t b : Reg) (z : Fin 4) (v : Int) :
    GivesX (.lea ⟨a, t, b⟩ z v) s a (s.x t + s.x b * BitVec.ofNat 64 (2 ^ z.val) + BitVec.ofInt 64 v) := by
  have hshift : s.x b <<< z.val = s.x b * BitVec.ofNat 64 (2 ^ z.val) := by
    have hpow : BitVec.twoPow 64 z.val = BitVec.ofNat 64 (2 ^ z.val) :=
      BitVec.eq_of_toNat_eq (BitVec.toNat_twoPow 64 z.val)
    rw [BitVec.shiftLeft_eq_mul_twoPow, hpow]
  rw [GivesX, exec, execLea, alu3_room h, conclude_ok, hshift]

/-- Settles O58, by the two results and the decoding of the two words without prefixes. -/
theorem selectAndAddress : Obligations.SelectAndAddress := by
  unfold Obligations.SelectAndAddress
  exact ⟨fun s a t b h => ⟨csel_givesX h a t b, lea_givesX h a t b⟩,
    fun a b ha hb => ⟨decode_csel_noPrefix ha hb, decode_lea_noPrefix ha hb⟩⟩

/-! ## The selector after a `YIELD` (R98, 09 R265) -/

/-- A yield of the cycle before has its context stand back exactly where another of the list is there. -/
theorem State.standBack_justYielded {s : State} {k : Key} {c : CtxNo} {t : Nat}
    (hy : (s.core k).sel.yielded = some (c, t)) (ht : t + 1 = s.cycle) (l : List CtxNo) :
    s.standBack k l = if ∃ d ∈ l, d ≠ c then l.filter fun d => d ≠ c else l := by
  simp [State.standBack, hy, ht]

/-- An older yield has no effect. -/
theorem State.standBack_yieldPast {s : State} {k : Key} {c : CtxNo} {t : Nat}
    (hy : (s.core k).sel.yielded = some (c, t)) (ht : t + 1 ≠ s.cycle) (l : List CtxNo) : s.standBack k l = l := by
  simp [State.standBack, hy, ht]

theorem mem_of_firstAfter {l : List CtxNo} {p : Fin 4} {c : CtxNo} (h : firstAfter l p = some c) : c ∈ l := by
  simpa using List.find?_some h

/-- The selector chooses among the contexts that it is given. -/
theorem State.mem_of_chosen {s : State} {k : Key} {l : List CtxNo} {c : CtxNo} {j : Fin 5}
    (h : s.chosen k l = some (c, j)) : c ∈ l := by
  unfold State.chosen at h
  dsimp only at h
  split at h
  all_goals
    obtain ⟨d, hd, heq⟩ := Option.map_eq_some_iff.1 h
    obtain ⟨rfl, -⟩ := Prod.mk.inj heq
    exact (List.mem_filter.1 (mem_of_firstAfter hd)).1

/-- Settles O59, by what `standBack` does after a yield of the last cycle and after an older one. -/
theorem yieldStandsBack : Obligations.YieldStandsBack := by
  unfold Obligations.YieldStandsBack
  intro s k c
  refine ⟨rfl, fun t hy ht => ⟨fun hother => ?_, fun honly => ?_⟩, fun t hy ht => s.standBack_yieldPast hy ht _,
    fun l j d => State.mem_of_chosen⟩
  · rw [State.selectable, State.standBack_justYielded hy ht, if_pos hother]
    exact ⟨by simp, fun d hne => by simp [hne]⟩
  · rw [State.selectable, State.standBack_justYielded hy ht, if_neg]
    rintro ⟨d, hd, hne⟩
    exact hne (honly d hd)

end Sys2Proof.Machine
end

section
/-! Proofs of the statements on the host ports' semaphores (16 R387, R388). -/
namespace Sys2Proof.Machine
open Sys2Proof

/-! ## The holder of a semaphore -/

/-- A port's number as HOLDER gives it does not wrap: 1 for port A, 2 for port B. -/
theorem holder_val (p : Fin 2) : (Fin.ofNat 3 (p.val + 1)).val = p.val + 1 :=
  Nat.mod_eq_of_lt (Nat.succ_lt_succ p.isLt)

theorem val_eq_holder_iff (h : Fin 3) (p : Fin 2) : h.val = p.val + 1 ↔ h = Fin.ofNat 3 (p.val + 1) := by
  rw [Fin.ext_iff, holder_val]

/-- No port's number stands for a free semaphore. -/
theorem holder_ne_zero (p : Fin 2) : Fin.ofNat 3 (p.val + 1) ≠ 0 := fun h =>
  Nat.succ_ne_zero p.val ((val_eq_holder_iff 0 p).2 h.symm).symm

theorem State.holds_iff (s : State) (p : Fin 2) (n : Fin 64) :
    s.holds p n = true ↔ s.sems[n] = Fin.ofNat 3 (p.val + 1) := by
  rw [State.holds, decide_eq_true_iff, val_eq_holder_iff]

theorem State.sem_self (s : State) (n : Fin 64) : s.sem n s.sems[n] = s :=
  congrArg (fun v => ({ s with sems := v } : State)) (Vector.set_getElem_self n.isLt)

/-! ## A read and a write at a port whose link is up (R387, R388) -/

/-- The holder that a read leaves: the reading port where the semaphore was free. -/
def State.holderRead (s : State) (p : Fin 2) (n : Fin 64) : Fin 3 :=
  if s.sems[n] = 0 then Fin.ofNat 3 (p.val + 1) else s.sems[n]

theorem State.holderRead_free {s : State} {n : Fin 64} (h : s.sems[n] = 0) (p : Fin 2) :
    s.holderRead p n = Fin.ofNat 3 (p.val + 1) := if_pos h

theorem State.holderRead_held {s : State} {n : Fin 64} (h : s.sems[n] ≠ 0) (p : Fin 2) :
    s.holderRead p n = s.sems[n] := if_neg h

/-- GOT is the comparison of the new holder with the reading port. -/
theorem semRead_happens {s : State} {p : Fin 2} (hup : s.portUp p = true) (n : Fin 64) :
    Happens (.semRead p n 8) s ((s.sem n (s.holderRead p n)).reply p false 0
      (semWord (decide (s.holderRead p n = Fin.ofNat 3 (p.val + 1))) (s.holderRead p n))) := by
  have hgot : decide ((s.holderRead p n).val = p.val + 1) = decide (s.holderRead p n = Fin.ofNat 3 (p.val + 1)) :=
    decide_eq_decide.2 (val_eq_holder_iff _ p)
  rw [← hgot, Happens, exec, execSemRead, evSemRead, hup]
  rfl

/-- A held semaphore keeps its holder when it is read. -/
theorem semRead_held {s : State} {p : Fin 2} {n : Fin 64} (hup : s.portUp p = true) (h : s.sems[n] ≠ 0) :
    Happens (.semRead p n 8) s
      (s.reply p false 0 (semWord (decide (s.sems[n] = Fin.ofNat 3 (p.val + 1))) s.sems[n])) := by
  have hread := semRead_happens hup n
  rwa [State.holderRead_held h, State.sem_self] at hread

theorem semWrite_happens {s : State} {p : Fin 2} (hup : s.portUp p = true) (n : Fin 64) :
    Happens (.semWrite p n 8) s ((if s.holds p n then s.sem n 0 else s).status p 0) := by
  rw [Happens, exec, execSemWrite, evSemWrite, hup]
  rfl

theorem semRead_wrongSize {s : State} {p : Fin 2} (hup : s.portUp p = true) (n : Fin 64) {z : Nat} (hz : z ≠ 8) :
    Happens (.semRead p n z) s (s.status p 2) := by
  simp [Happens, exec, execSemRead, evSemRead, hup, hz]

theorem semWrite_wrongSize {s : State} {p : Fin 2} (hup : s.portUp p = true) (n : Fin 64) {z : Nat} (hz : z ≠ 8) :
    Happens (.semWrite p n z) s (s.status p 2) := by
  simp [Happens, exec, execSemWrite, evSemWrite, hup, hz]

/-! ## Power-on (R388) -/

theorem State.reset_sems (n : Fin 64) : State.reset.sems[n] = 0 := Vector.getElem_replicate n.isLt

theorem State.blank_sems (s : State) (power : Bool) (n : Fin 64) : (s.blank power).sems[n] = 0 := State.reset_sems n

theorem powerGood_happens {s : State} (hoff : s.mg.power = false) : Happens .powerGood s (s.blank true) := by
  simp [Happens, exec, execPowerGood, evPowerGood, hoff]

/-- Settles O55, by the holder and the word that a read leaves, by what a write does with and without the port holding the
semaphore, and by power-good leaving the semaphores of reset. -/
theorem semaphores : Obligations.Semaphores := by
  unfold Obligations.Semaphores
  intro s p n
  refine ⟨fun hup => ?_, State.reset_sems, fun hoff => ⟨_, powerGood_happens hoff, s.blank_sems true⟩⟩
  refine ⟨fun hfree => ?_, fun hmine => ?_, fun hheld hother => ?_, fun hmine => ?_, fun hother => ?_,
    fun z hz => ⟨semRead_wrongSize hup n hz, semWrite_wrongSize hup n hz⟩⟩
  · have hread := semRead_happens hup n
    rwa [State.holderRead_free hfree, decide_eq_true rfl] at hread
  · have hread := semRead_held hup (hmine ▸ holder_ne_zero p)
    rwa [hmine, decide_eq_true rfl] at hread
  · have hread := semRead_held hup hheld
    rwa [decide_eq_false hother] at hread
  · have hwrite := semWrite_happens hup n
    rwa [if_pos ((s.holds_iff p n).2 hmine)] at hwrite
  · have hwrite := semWrite_happens hup n
    rwa [if_neg (mt (s.holds_iff p n).1 hother)] at hwrite

end Sys2Proof.Machine
end

section
/-! Proofs of the statement on the firmware's control register: the tie bit (16 R389) and FWCTL (19 R433). -/
namespace Sys2Proof.Machine
open Sys2Proof

/-! ## A completion at a port (16 R387) -/

theorem State.status_ports (s : State) (p : Fin 2) (n : Nat) :
    (s.status p n).ports = s.ports.set p { s.ports[p] with last := ⟨false, BitVec.ofNat 8 n, 0⟩ } := rfl

@[simp] theorem State.status_last (s : State) (p : Fin 2) (n : Nat) :
    (s.status p n).ports[p].last = ⟨false, BitVec.ofNat 8 n, 0⟩ := by
  simp [State.status_ports]

theorem port_add_one_ne_self (p : Fin 2) : p + 1 ≠ p := by omega

/-- A completion at one port leaves the other port as it is. -/
@[simp] theorem State.status_otherPort (s : State) (p : Fin 2) (n : Nat) : (s.status p n).ports[p + 1] = s.ports[p + 1] :=
  Vector.getElem_set_ne p.isLt (p + 1).isLt fun h => port_add_one_ne_self p (Fin.ext h.symm)

/-! ## The input that is served (16 R389) -/

theorem State.inputDue_head {s : State} {e : Nat × Input} {l : List (Nat × Input)} (hin : s.m.inputs = e :: l)
    (hdue : e.1 ≤ s.cycle) : s.inputDue = some 0 := by
  simp [State.inputDue, hin, List.findIdx?_cons, hdue]

/-- An input that is due is taken before anything else happens. -/
theorem step_of_inputDue {s : State} {i : Nat} (h : s.inputDue = some i) : step s = s.takeInput := by
  have hmoves : s.moves = [.input] := by rw [State.moves, h]; rfl
  rw [step, State.act, hmoves]; rfl

/-- An input alone meets no other, so the tie bit stays. -/
theorem State.tieFirst_alone {s : State} {e : Nat × Input} (hin : s.m.inputs = [e]) : s.tieFirst 0 = (0, s) := by
  obtain ⟨t, a⟩ := e
  cases ha : a.tied <;> simp [State.tieFirst, hin, ha, List.findIdx?_cons]

theorem step_inputAlone {s : State} {t : Nat} {a : Input} (hin : s.m.inputs = [(t, a)]) (hdue : t ≤ s.cycle) :
    step s = ({ s with m := { s.m with inputs := [] } } : State).comesIn a := by
  have h := State.inputDue_head hin hdue
  rw [step_of_inputDue h, State.takeInput, h]
  simp [State.tieFirst_alone hin, hin]

/-- The state in which one of two tied accesses is served: the tie bit has flipped, the other access remains. -/
def State.tieTaken (s : State) (other : Nat × Input) : State :=
  { s with tie := s.tie + 1, m := { s.m with inputs := [other] } }

/-- Of two accesses of one class and one cycle the tie bit names the first, and flips. -/
theorem State.tieFirst_pair {s : State} {p q : Fin 2} {c : Fin 3} {a b : Input} {t : Nat} (hin : s.m.inputs = [(t, a), (t, b)])
    (ha : a.tied = some (p, c)) (hb : b.tied = some (q, c)) (hne : q ≠ p) (hp : s.portUp p = true) (hq : s.portUp q = true) :
    s.tieFirst 0 = (if s.tie = p then 0 else 1, { s with tie := s.tie + 1 }) := by
  simp [State.tieFirst, hin, ha, hb, hne, hp, hq, List.findIdx?_cons]

/-- R389: of two accesses of one class and one cycle that of the port of the tie bit is served, and the other is left. -/
theorem step_tiedPair {s : State} {p q : Fin 2} {c : Fin 3} {a b : Input} {t : Nat} (hin : s.m.inputs = [(t, a), (t, b)])
    (hdue : t ≤ s.cycle) (ha : a.tied = some (p, c)) (hb : b.tied = some (q, c)) (hne : q ≠ p) (hp : s.portUp p = true)
    (hq : s.portUp q = true) :
    step s = if s.tie = p then (s.tieTaken (t, b)).comesIn a else (s.tieTaken (t, a)).comesIn b := by
  have h := State.inputDue_head hin hdue
  rw [step_of_inputDue h, State.takeInput, h]
  by_cases htie : s.tie = p <;> simp [State.tieFirst_pair hin ha hb hne hp hq, htie, hin, State.tieTaken]

/-! ## A write of FWCTL (R433) -/

theorem fwctlWrite_tied (p : Fin 2) (a : Nat) : (Input.row (.fwctlWrite p a 8)).tied = some (p, 1) := rfl

theorem comesIn_fwctlWrite (s : State) (p : Fin 2) (a z : Nat) :
    s.comesIn (.row (.fwctlWrite p a z)) = exec (.fwctlWrite p a z) s := rfl

/-- The state in which the verification of the image at an address has begun. -/
def State.verifying (s : State) (a : Nat) : State := { s with mg := { s.mg with state := .verify, fwaddr := a } }

theorem fwctlWrite_accepted {s : State} {p : Fin 2} {a : Nat} (hup : s.portUp p = true)
    (hst : s.mg.state = .waitfw ∨ s.mg.state = .failed) (ha : FirmwareAt a) :
    Happens (.fwctlWrite p a 8) s ((s.verifying a).status p 0) := by
  obtain ⟨haligned, hlow, hhigh⟩ := ha
  have hopen : ¬ (s.mg.state ≠ .waitfw ∧ s.mg.state ≠ .failed) := by
    rintro ⟨hw, hf⟩
    exact hst.elim hw hf
  have hplace : ¬ (a % 0x10000 ≠ 0 ∨ a < firmwareBase ∨ Loc.farEnd ≤ a) := by
    unfold firmwareBase Loc.firmware Loc.farEnd
    omega
  rw [Happens, exec, execFwctlWrite, evFwctlWrite, hup, if_neg hopen, if_neg hplace]
  rfl

theorem fwctlWrite_wrongState {s : State} {p : Fin 2} (hup : s.portUp p = true) (hw : s.mg.state ≠ .waitfw)
    (hf : s.mg.state ≠ .failed) (a : Nat) : Happens (.fwctlWrite p a 8) s (s.status p 1) := by
  have hclosed : s.mg.state ≠ .waitfw ∧ s.mg.state ≠ .failed := ⟨hw, hf⟩
  rw [Happens, exec, execFwctlWrite, evFwctlWrite, hup, if_pos hclosed]
  rfl

theorem fwctlWrite_wrongSize {s : State} {p : Fin 2} (hup : s.portUp p = true) (a : Nat) {z : Nat} (hz : z ≠ 8) :
    Happens (.fwctlWrite p a z) s (s.status p 2) := by
  simp [Happens, exec, execFwctlWrite, evFwctlWrite, hup, hz]

/-! ## Two writes of FWCTL in one cycle (R389, R433) -/

/-- Whichever of the two writes stands first among the inputs, the one of the port of the tie bit is executed. -/
theorem step_fwctlPair {s : State} {p : Fin 2} {a b t : Nat} (hp : s.portUp p = true) (hq : s.portUp (p + 1) = true)
    (htie : s.tie = p) (hdue : t ≤ s.cycle)
    (hin : s.m.inputs = [(t, .row (.fwctlWrite p a 8)), (t, .row (.fwctlWrite (p + 1) b 8))] ∨
      s.m.inputs = [(t, .row (.fwctlWrite (p + 1) b 8)), (t, .row (.fwctlWrite p a 8))]) :
    step s = exec (.fwctlWrite p a 8) (s.tieTaken (t, .row (.fwctlWrite (p + 1) b 8))) := by
  have hne := port_add_one_ne_self p
  have hother : s.tie ≠ p + 1 := htie ▸ hne.symm
  rcases hin with hin | hin
  · rw [step_tiedPair hin hdue (fwctlWrite_tied _ _) (fwctlWrite_tied _ _) hne hp hq, if_pos htie, comesIn_fwctlWrite]
  · rw [step_tiedPair hin hdue (fwctlWrite_tied _ _) (fwctlWrite_tied _ _) hne.symm hq hp, if_neg hother, comesIn_fwctlWrite]

/-- A write of FWCTL that is the only input left and finds the device outside WAITFW and FAILED completes with status 1. -/
theorem step_fwctlAlone_wrongState {s : State} {p : Fin 2} {a t : Nat} (hup : s.portUp p = true)
    (hin : s.m.inputs = [(t, .row (.fwctlWrite p a 8))]) (hdue : t ≤ s.cycle) (hw : s.mg.state ≠ .waitfw)
    (hf : s.mg.state ≠ .failed) : ∃ u, step s = .next u ∧ u.mg = s.mg ∧ u.ports[p].last = ⟨false, 1, 0⟩ := by
  let taken : State := { s with m := { s.m with inputs := [] } }
  have hwrite : Happens (.fwctlWrite p a 8) taken (taken.status p 1) :=
    fwctlWrite_wrongState (s := taken) hup hw hf a
  exact ⟨_, (step_inputAlone hin hdue).trans hwrite, rfl, taken.status_last p 1⟩

/-- Settles O57, by what a write does in each state and size, and by two steps: the tie bit's write starts the verification, the
other then finds the device in VERIFY. -/
theorem firmwareControl : Obligations.FirmwareControl := by
  unfold Obligations.FirmwareControl
  intro s p a hup
  refine ⟨fwctlWrite_accepted hup, fun hw hf => fwctlWrite_wrongState hup hw hf a, fun z => fwctlWrite_wrongSize hup a,
    fun b t hst ha htie hother hdue hin => ?_⟩
  let taken := s.tieTaken (t, .row (.fwctlWrite (p + 1) b 8))
  let u := ((taken.verifying a).status p 0).setFate .quiet
  have hfirst : step s = .next u :=
    (step_fwctlPair hup hother htie hdue hin).trans (fwctlWrite_accepted (s := taken) hup hst ha)
  have hup' : u.portUp (p + 1) = true := by
    show (s.mg.power && ((taken.verifying a).status p 0).ports[p + 1].up) = true
    rw [State.status_otherPort]
    exact hother
  obtain ⟨v, hsecond, hmg, hlast⟩ : ∃ v, step u = .next v ∧ v.mg = u.mg ∧ v.ports[p + 1].last = ⟨false, 1, 0⟩ :=
    step_fwctlAlone_wrongState hup' rfl hdue nofun nofun
  exact ⟨u, v, hfirst, rfl, rfl, congrArg (· + 1) htie, State.status_last _ p 0, hsecond, hmg, hlast⟩

end Sys2Proof.Machine
end
